-- ==== Sys2Proof/Word.lean ====
section
/-! DEFINITION. The words of the NS-384: the widths the manual gives to what it sends, stores and compares as bits
(spec 12, R205). -/

namespace Sys2Proof

/-- One byte of the host line, a sign bus, the text pool or the flash. -/
abbrev Byte := BitVec 8

/-- A 16-bit word: attention set, mask, digest, revision, zone mask, CRC-16. -/
abbrev Half := BitVec 16

/-- A section's four-byte short code (R1). -/
abbrev ShortCode := BitVec 32

/-- A panel's 48-bit factory number (R109). -/
abbrev Serial := BitVec 48

/-- A bit string, first bit first: a stem of serials in the enrolment search (R138). -/
abbrev Bits := List Bool

end Sys2Proof
end

