-- ==== Sys2Proof/Config.lean ====
section
/-! DEFINITION. What is fixed for the part (capacities, spec 00 and R188) and the free values the manual leaves open. -/

namespace Sys2Proof.Config

/-- Section slots (R1). -/
abbrev sections : Nat := 96
/-- Wall slots (R5). -/
abbrev walls : Nat := 48
/-- Combination slots (R13). -/
abbrev combos : Nat := 32
/-- Session records (R31). -/
abbrev sessions : Nat := 512
/-- Text pages (R55). -/
abbrev pages : Nat := 48
/-- Pages 0–15 belong to the plan (R61). -/
abbrev planPages : Nat := 16
/-- Bytes in a page (R55). -/
abbrev pageBytes : Nat := 256
/-- Zones (R91). -/
abbrev zones : Nat := 16
/-- Pins (R97). -/
abbrev pins : Nat := 16
/-- Panel plan slots (R110). -/
abbrev slots : Nat := 384
/-- Short addresses on a segment (R114). -/
abbrev addresses : Nat := 96
/-- Bytes of a face encoding at most (R69). -/
abbrev faceBytes : Nat := 2048
/-- Bytes of a request body, and of a reply body, at most (R175, R178). -/
abbrev bodyBytes : Nat := 1024
/-- Part code (R188). -/
abbrev partCode : Nat := 0x0384

/-- FREE VALUE (log 7). A reply sends the bytes of an absent or unknown value "whatever the presence" (R205) and the
manual gives them no value: byte `i` of the `n`-th request served. Nothing can evaluate it. -/
opaque absentByte : Nat → Nat → Byte

/-- FREE VALUE (log 9). What the flash holds at an address that a failed or stopped save left unsettled: the manual gives it
no value (R198, R200). The first number tells one save from another. Nothing can evaluate it. -/
opaque flashByte : Nat → Nat → Byte

/-- FREE VALUE (log 15). A VALID bus reply may lack bytes of its kind's layout (R108), and the manual gives them no value: byte
`i` of the layout. The first two numbers tell one command of a run from another. Nothing can evaluate it. -/
opaque replyByte : Nat → Nat → Nat → Byte

end Sys2Proof.Config
end

