-- ==== Sys2Proof/Machine/Kinds.lean ====
section
/-! DEFINITION. The names the manual uses: states, kinds, classes, codes and the small records that commands carry. -/

namespace Sys2Proof

/-- The four sign-bus segments. -/
inductive SegIx where
  | sc0 | sc1 | sc2 | sc3
deriving DecidableEq, Repr

/-- A text reference: page, offset, length (R56). -/
structure TextRef where
  page : Byte
  offset : Byte
  length : Byte
deriving DecidableEq, Repr

/-- The twelve attention flags (R183). -/
inductive Flag where
  | start | wall | layout | panel | stray | enrol | cold | hold | clock | link | save | expire
deriving DecidableEq, Repr

/-- Reset cause (R187). -/
inductive ResetCause where
  | power | pin | restart
deriving DecidableEq, Repr

/-- The result codes (R179). -/
inductive Result where
  | ok | length | unknown | range | stale | notFound | full | clash | inUse | busy | notReady | wrongState
deriving DecidableEq, Repr

/-- A wall reading; `nothing` is NONE, before the first sample (R5, R8). -/
inductive Reading where
  | nothing | stowed | deployed | travel | conflict
deriving DecidableEq, Repr

/-- A wall's filtered state (R10). -/
inductive Filtered where
  | unknown | stowed | deployed | fault
deriving DecidableEq, Repr

/-- A wall's forced position; `free` is NONE (R11). -/
inductive Forced where
  | free | stowed | deployed
deriving DecidableEq, Repr

/-- A wall's effective position (R12). -/
inductive Position where
  | stowed | deployed
deriving DecidableEq, Repr

/-- What names a space (R16). -/
inductive NameSource where
  | anchor (section_ : Nat)
  | combo (index : Nat)
deriving DecidableEq, Repr

/-- Clock state (R20). -/
inductive ClockMode where
  | unset | running | expired
deriving DecidableEq, Repr

/-- Session phase (R34). -/
inductive Phase where
  | future | upcoming | doors | live | overrun | done | cancelled
deriving DecidableEq, Repr

/-- Face template (R66). -/
inductive Template where
  | blank | doorIdle | doorSession | doorClosed | directory | notice
deriving DecidableEq, Repr

/-- What gave a slot its wanted face (R73). -/
inductive Source where
  | notice | pin | role
deriving DecidableEq, Repr

/-- Notice level (R92). -/
inductive Level where
  | advisory | urgent | evacuate
deriving DecidableEq, Repr

/-- Panel size class (R114). -/
inductive PanelClass where
  | s | m | l
deriving DecidableEq, Repr

/-- A plan slot's role with its fields (R110). -/
inductive Role where
  | door (section_ : Nat)
  | directory (first count : Nat) (heading : TextRef)
deriving DecidableEq, Repr

/-- The two refresh kinds (R151). -/
inductive RefreshKind where
  | full | part
deriving DecidableEq, Repr

/-- Priority of a queue entry (R146). -/
inductive QueueClass where
  | alert | normal | maint
deriving DecidableEq, Repr

/-- Segment state (R128). -/
inductive SegMode where
  | starting | run | draining | keying | searching
deriving DecidableEq, Repr

/-- How an enrolment ended (R143). -/
inductive EnrolResult where
  | done | full | stopped
deriving DecidableEq, Repr

/-- Plan state (R191). -/
inductive PlanState where
  | loading | ready | empty | saving
deriving DecidableEq, Repr

/-- Result of the last save; `never` is NONE (R199). -/
inductive SaveResult where
  | never | ok | failed
deriving DecidableEq, Repr

/-- Stage of a save (R198). -/
inductive SaveStage where
  | erase | body | header
deriving DecidableEq, Repr

/-- What a segment controller heard from the opening of a reply window on (R107, R108): nothing, or line activity with the bytes
received and whether one of the reply's had a framing error. A reply broken off by a gap is given without later bytes. -/
inductive Heard where
  | silent
  | bytes (line : List Byte) (framingError : Bool)
deriving DecidableEq, Repr

/-- The value carried by SET-OPTION: a text reference for option 15, else a 16-bit number and one unread byte (R205). -/
structure OptionValue where
  first : Byte
  second : Byte
  third : Byte
deriving DecidableEq, Repr

/-- The body of STORE-SESSION (R40 and spec 12). Bits 0–2 of `flags` are withheld (private), cancelled, speaker present. -/
structure StoreSpec where
  number : Half
  day : Byte
  start : Half
  stop : Half
  lead : Byte
  track : Byte
  flags : Byte
  title : TextRef
  speaker : TextRef
  sections : List Byte
deriving DecidableEq, Repr

/-- The body of DEFINE-PANEL after its revision (R111 and spec 12). -/
structure PanelSpec where
  slot : Half
  serial : Serial
  role : Byte
  first : Byte
  count : Byte
  heading : TextRef
  zones : Half
deriving DecidableEq, Repr

/-- The body of POST-NOTICE (R93 and spec 12). -/
structure NoticeSpec where
  zone : Byte
  level : Byte
  text : TextRef
  expiryPresent : Byte
  day : Byte
  minute : Half
deriving DecidableEq, Repr

end Sys2Proof
end

