-- ==== Sys2Proof/Machine/Request.lean ====
section
/-! DEFINITION. A host request by kind with the fields of its body (spec 10, request catalogue; spec 12, host frames). -/

namespace Sys2Proof

/-- The 47 request kinds of the catalogue. -/
inductive Request where
  | identify
  | status
  | setMask (mask : Half)
  | setOption (number : Byte) (value : OptionValue)
  | readOption (number : Byte)
  | restart
  | savePlan
  | defineSection (rev : Half) (index : Byte) (name : TextRef) (code : ShortCode)
  | removeSection (rev : Half) (index : Byte)
  | defineWall (rev : Half) (wall first second : Byte)
  | removeWall (rev : Half) (wall : Byte)
  | defineCombination (rev : Half) (index : Byte) (name : TextRef) (sections : List Byte)
  | removeCombination (rev : Half) (index : Byte)
  | definePanel (rev : Half) (spec : PanelSpec)
  | removePanel (rev : Half) (slot : Half)
  | closeSection (index : Byte)
  | openSection (index : Byte)
  | forceWall (wall position : Byte)
  | readWalls
  | readSpaces (first : Byte)
  | setClock (day : Byte) (minute : Half) (second : Byte)
  | adjustClock (seconds : Byte)
  | readClock
  | storeSession (spec : StoreSpec)
  | dropSession (number : Half)
  | cancelSession (number : Half)
  | restoreSession (number : Half)
  | extendSession (number : Half) (minutes : Byte)
  | endSession (number : Half)
  | readSession (number : Half)
  | listSessions (position : Half) (count : Byte)
  | putText (rev : Half) (page offset : Byte) (data : List Byte)
  | readText (page offset count : Byte)
  | clearPage (rev : Half) (page : Byte)
  | postNotice (spec : NoticeSpec)
  | withdrawNotice (zone : Byte)
  | pinPanel (slot : Half)
  | unpinPanel (slot : Half)
  | holdPublish
  | releasePublish
  | readFace (slot position : Half)
  | readPanel (segment address : Byte)
  | readSegment (segment : Byte)
  | enrol (segment : Byte)
  | stopEnrol (segment : Byte)
  | forgetPanel (segment address : Byte)
  | refreshPanel (segment address : Byte)
deriving DecidableEq, Repr

/-- What a complete frame asks for, once its kind and length are looked at (R180, checks 1 and 2). -/
inductive Asked where
  | request (r : Request)
  | badLength (kind : Byte)
  | unknownKind (kind : Byte)
deriving DecidableEq, Repr

end Sys2Proof
end

