-- ==== Sys2Proof/Syntax.lean ====
section
/-! DEFINITION. The commands of the block: one constructor for each row of spec/opcode_table.json, in its order. A request
row carries the frame's TAG and the fields of its body (spec 12). An event row carries what the environment supplies: the
segment, the bytes received, what was heard in a reply window, whether the flash passed a stage. -/

namespace Sys2Proof

/-- One constructor per row of the table. -/
inductive Instr where
  | identify (tag : Byte)
  | status (tag : Byte)
  | setMask (tag : Byte) (mask : Half)
  | setOption (tag number : Byte) (value : OptionValue)
  | readOption (tag number : Byte)
  | restart (tag : Byte)
  | savePlan (tag : Byte)
  | defineSection (tag : Byte) (rev : Half) (index : Byte) (name : TextRef) (code : ShortCode)
  | removeSection (tag : Byte) (rev : Half) (index : Byte)
  | defineWall (tag : Byte) (rev : Half) (wall first second : Byte)
  | removeWall (tag : Byte) (rev : Half) (wall : Byte)
  | defineCombination (tag : Byte) (rev : Half) (index : Byte) (name : TextRef) (sections : List Byte)
  | removeCombination (tag : Byte) (rev : Half) (index : Byte)
  | definePanel (tag : Byte) (rev : Half) (spec : PanelSpec)
  | removePanel (tag : Byte) (rev slot : Half)
  | closeSection (tag index : Byte)
  | openSection (tag index : Byte)
  | forceWall (tag wall position : Byte)
  | readWalls (tag : Byte)
  | readSpaces (tag first : Byte)
  | setClock (tag day : Byte) (minute : Half) (second : Byte)
  | adjustClock (tag seconds : Byte)
  | readClock (tag : Byte)
  | storeSession (tag : Byte) (spec : StoreSpec)
  | dropSession (tag : Byte) (number : Half)
  | cancelSession (tag : Byte) (number : Half)
  | restoreSession (tag : Byte) (number : Half)
  | extendSession (tag : Byte) (number : Half) (minutes : Byte)
  | endSession (tag : Byte) (number : Half)
  | readSession (tag : Byte) (number : Half)
  | listSessions (tag : Byte) (position : Half) (count : Byte)
  | putText (tag : Byte) (rev : Half) (page offset : Byte) (data : List Byte)
  | readText (tag page offset count : Byte)
  | clearPage (tag : Byte) (rev : Half) (page : Byte)
  | postNotice (tag : Byte) (spec : NoticeSpec)
  | withdrawNotice (tag zone : Byte)
  | pinPanel (tag : Byte) (slot : Half)
  | unpinPanel (tag : Byte) (slot : Half)
  | holdPublish (tag : Byte)
  | releasePublish (tag : Byte)
  | readFace (tag : Byte) (slot position : Half)
  | readPanel (tag segment address : Byte)
  | readSegment (tag segment : Byte)
  | enrol (tag segment : Byte)
  | stopEnrol (tag segment : Byte)
  | forgetPanel (tag segment address : Byte)
  | refreshPanel (tag segment address : Byte)
  | unknownKind (tag kind : Byte) (body : List Byte)
  /-- Bytes of a frame received in one run with no gap over 5 ms, up to its last CRC byte (R173–R175). -/
  | hostFrameReceived (bytes : List Byte)
  | receiveGapTimeout
  | resyncGapTimeout
  | replySent
  | powerOn
  | pinResetAssert
  | pinResetRelease
  /-- The load completes; `answers` says whether the flash answered PS (R193). -/
  | loadEnd (answers : Bool)
  | secondTick
  | holdTimeout
  | clockExpire
  | minuteTurnover
  /-- One scan: bit 2k is position k's stowed contact, bit 2k + 1 its deployed contact, set when made (R8). -/
  | wallScan (contacts : BitVec 96)
  | chooseExchange (seg : SegIx)
  | roundRobinPoll (seg : SegIx) (heard : Heard)
  | returnProbe (seg : SegIx) (heard : Heard)
  | loadExchange (seg : SegIx) (heard : Heard)
  | showExchange (seg : SegIx) (heard : Heard)
  | completionPollDue (seg : SegIx) (address : Nat)
  | completionPoll (seg : SegIx) (heard : Heard)
  | finalDeadline (seg : SegIx) (address : Nat)
  | dropExchange (seg : SegIx)
  | rollCallIdent (seg : SegIx) (heard : Heard)
  | drainComplete (seg : SegIx)
  | keyExchange (seg : SegIx)
  | askExchange (seg : SegIx) (heard : Heard)
  | giveExchange (seg : SegIx) (heard : Heard)
  | saveErase (passed : Bool)
  | saveBody (passed : Bool)
  | saveHeader (passed : Bool)
  | flashReadyTimeout
  | frameStartByte (byte : Byte)
  | lenBytesIn (high low : Byte)
  | framingErrorByte
deriving DecidableEq, Repr

end Sys2Proof
end

