-- ==== Sys2Proof/Decode.lean ====
section
/-! DEFINITION. The table gives none of its rows any bits, so no word spells a command. The bytes of a host request are read
in Machine/Operands.lean (`Request.read`) and those of a bus reply in `readReply`. -/

namespace Sys2Proof

/-- The command that a table word spells: none, as no row of spec/opcode_table.json gives bits. -/
def decodeTableWord (_nbits _w : Nat) : Option Instr := none

end Sys2Proof
end

