-- ==== Sys2Proof/Machine/Checksums.lean ====
section
/-! DEFINITION. The three checksums of R207, and the order of bytes in numbers (spec 12). -/

namespace Sys2Proof.Machine

/-- A number as one byte. -/
def byte (n : Nat) : Byte := BitVec.ofNat 8 n

/-- A number in two bytes, most significant first. -/
def two (n : Nat) : List Byte := [BitVec.ofNat 8 (n / 256), BitVec.ofNat 8 n]

/-- A number in four bytes, most significant first. -/
def four (n : Nat) : List Byte := two (n / 65536) ++ two n

/-- A 16-bit word in two bytes. -/
def halfBytes (h : Half) : List Byte := [h.extractLsb' 8 8, h.extractLsb' 0 8]

/-- Four bytes of a short code. -/
def codeBytes (c : ShortCode) : List Byte :=
  [c.extractLsb' 24 8, c.extractLsb' 16 8, c.extractLsb' 8 8, c.extractLsb' 0 8]

/-- Six bytes of a serial; bit 47 is the most significant bit of the first (R205). -/
def serialBytes (n : Serial) : List Byte :=
  [n.extractLsb' 40 8, n.extractLsb' 32 8, n.extractLsb' 24 8, n.extractLsb' 16 8, n.extractLsb' 8 8, n.extractLsb' 0 8]

/-- A signed number in one byte, two's complement. -/
def signedByte (i : Int) : Byte := BitVec.ofInt 8 i

/-- A signed number in two bytes, two's complement. -/
def signedTwo (i : Int) : List Byte := halfBytes (BitVec.ofInt 16 i)

/-- A 16-bit word from two bytes. -/
def half (a b : Byte) : Half := a ++ b

/-- A short code from four bytes. -/
def code4 (a b c d : Byte) : ShortCode := a ++ b ++ c ++ d

/-- A serial from six bytes. -/
def serial6 (a b c d e f : Byte) : Serial := a ++ b ++ c ++ d ++ e ++ f

/-- One shift of CRC-16 (R207). -/
def crc16Shift (r : Half) : Half := if r.msb then (r <<< 1) ^^^ 0x1021#16 else r <<< 1

/-- One byte of CRC-16: into the high 8 bits, then eight shifts left. -/
def crc16Byte (r : Half) (b : Byte) : Half :=
  crc16Shift (crc16Shift (crc16Shift (crc16Shift (crc16Shift (crc16Shift (crc16Shift (crc16Shift (r ^^^ (b ++ 0#8)))))))))

/-- CRC-16: starts at 0xFFFF, no reflection, no final XOR. -/
def crc16 (bs : List Byte) : Half := bs.foldl crc16Byte 0xFFFF#16

/-- One shift of CRC-32 (R207). -/
def crc32Shift (r : BitVec 32) : BitVec 32 := if r.getLsbD 0 then (r >>> 1) ^^^ 0xEDB88320#32 else r >>> 1

/-- One byte of CRC-32: into the low 8 bits, then eight shifts right. -/
def crc32Byte (r : BitVec 32) (b : Byte) : BitVec 32 :=
  crc32Shift (crc32Shift (crc32Shift (crc32Shift (crc32Shift (crc32Shift (crc32Shift (crc32Shift (r ^^^ b.setWidth 32))))))))

/-- CRC-32: starts at all ones, the register inverted at the end. -/
def crc32 (bs : List Byte) : BitVec 32 := ~~~ (bs.foldl crc32Byte 0xFFFFFFFF#32)

/-- One byte of Fletcher-16 on the sums s1, s2. -/
def fletcherByte (s : Nat × Nat) (b : Byte) : Nat × Nat :=
  let s1 := (s.1 + b.toNat) % 255
  (s1, (s.2 + s1) % 255)

/-- Fletcher-16: s2 × 256 + s1 (R207), the digest of a face encoding (R206). -/
def fletcher16 (bs : List Byte) : Half :=
  let s := bs.foldl fletcherByte (0, 0)
  BitVec.ofNat 16 (s.2 * 256 + s.1)

end Sys2Proof.Machine
end

