-- ==== Sys2Proof/Machine/Codes.lean ====
section
/-! DEFINITION. The codes of the manual's names on the wire (R205, R66, R178, R179, R183 and the request catalogue of 10). -/

namespace Sys2Proof

/-! ## Names to codes -/

def Flag.number : Flag → Nat
  | .start => 0 | .wall => 1 | .layout => 2 | .panel => 3 | .stray => 4 | .enrol => 5
  | .cold => 6 | .hold => 7 | .clock => 8 | .link => 9 | .save => 10 | .expire => 11

/-- The attention-set bit of a flag: bit n is flag number n. -/
def Flag.bit (f : Flag) : Half := 1#16 <<< f.number

def Result.code : Result → Byte
  | .ok => 0x00 | .length => 0x01 | .unknown => 0x02 | .range => 0x03 | .stale => 0x04 | .notFound => 0x05
  | .full => 0x06 | .clash => 0x07 | .inUse => 0x08 | .busy => 0x09 | .notReady => 0x0A | .wrongState => 0x0B

def PanelClass.code : PanelClass → Byte
  | .s => 1 | .m => 2 | .l => 3

def Level.code : Level → Byte
  | .advisory => 1 | .urgent => 2 | .evacuate => 3

/-- The code of a level replaced or removed: 0 for NONE. -/
def Level.optCode : Option Level → Byte
  | none => 0
  | some v => v.code

def Forced.code : Forced → Byte
  | .free => 0 | .stowed => 1 | .deployed => 2

def Phase.code : Phase → Byte
  | .future => 0 | .upcoming => 1 | .doors => 2 | .live => 3 | .overrun => 4 | .done => 5 | .cancelled => 6

def RefreshKind.code : RefreshKind → Byte
  | .full => 1 | .part => 2

def Template.code : Template → Byte
  | .blank => 1 | .doorIdle => 2 | .doorSession => 3 | .doorClosed => 4 | .directory => 5 | .notice => 6

def PlanState.code : PlanState → Byte
  | .loading => 0 | .ready => 1 | .empty => 2 | .saving => 3

def ClockMode.code : ClockMode → Byte
  | .unset => 0 | .running => 1 | .expired => 2

def SegMode.code : SegMode → Byte
  | .starting => 0 | .run => 1 | .draining => 2 | .keying => 3 | .searching => 4

def QueueClass.code : QueueClass → Byte
  | .alert => 1 | .normal => 2 | .maint => 3

def Source.code : Source → Byte
  | .notice => 1 | .pin => 2 | .role => 3

def NameSource.code : NameSource → Byte
  | .anchor a => Machine.byte a
  | .combo i => Machine.byte (0x80 + i)

def Reading.code : Reading → Byte
  | .nothing => 0 | .stowed => 1 | .deployed => 2 | .travel => 3 | .conflict => 4

def Filtered.code : Filtered → Byte
  | .unknown => 0 | .stowed => 1 | .deployed => 2 | .fault => 3

def Position.code : Position → Byte
  | .stowed => 1 | .deployed => 2

def ResetCause.code : ResetCause → Byte
  | .power => 1 | .pin => 2 | .restart => 3

def SaveResult.code : SaveResult → Byte
  | .never => 0 | .ok => 1 | .failed => 2

def EnrolResult.code : EnrolResult → Byte
  | .done => 1 | .full => 2 | .stopped => 3

/-- PLACED 1, MISPLACED 2. -/
def placementCode (placed : Bool) : Byte := if placed then 1 else 2

/-- A two-way mark: 0 clear or open, 1 set or closed. -/
def markCode (set : Bool) : Byte := if set then 1 else 0

/-! ## Codes to names -/

def PanelClass.ofCode (b : Byte) : Option PanelClass :=
  match b.toNat with
  | 1 => some .s
  | 2 => some .m
  | 3 => some .l
  | _ => none

def Level.ofCode (b : Byte) : Option Level :=
  match b.toNat with
  | 1 => some .advisory
  | 2 => some .urgent
  | 3 => some .evacuate
  | _ => none

def Forced.ofCode (b : Byte) : Option Forced :=
  match b.toNat with
  | 0 => some .free
  | 1 => some .stowed
  | 2 => some .deployed
  | _ => none

/-- The template whose code opens a face encoding (R66). -/
def Template.ofCode (b : Byte) : Template :=
  match b.toNat with
  | 2 => .doorIdle
  | 3 => .doorSession
  | 4 => .doorClosed
  | 5 => .directory
  | 6 => .notice
  | _ => .blank

/-- The segment a request names, 0–3 (R123). -/
def SegIx.named (n : Byte) : Option SegIx :=
  match n.toNat with
  | 0 => some .sc0
  | 1 => some .sc1
  | 2 => some .sc2
  | 3 => some .sc3
  | _ => none

def SegIx.number : SegIx → Nat
  | .sc0 => 0 | .sc1 => 1 | .sc2 => 2 | .sc3 => 3

/-! ## Request kinds -/

/-- The KIND of a request (10, request catalogue). -/
def Request.kind : Request → Byte
  | .identify => 0x01
  | .status => 0x02
  | .setMask .. => 0x03
  | .setOption .. => 0x04
  | .readOption .. => 0x05
  | .restart => 0x06
  | .savePlan => 0x07
  | .defineSection .. => 0x10
  | .removeSection .. => 0x11
  | .defineWall .. => 0x12
  | .removeWall .. => 0x13
  | .defineCombination .. => 0x14
  | .removeCombination .. => 0x15
  | .definePanel .. => 0x16
  | .removePanel .. => 0x17
  | .closeSection .. => 0x18
  | .openSection .. => 0x19
  | .forceWall .. => 0x1A
  | .readWalls => 0x1B
  | .readSpaces .. => 0x1C
  | .setClock .. => 0x20
  | .adjustClock .. => 0x21
  | .readClock => 0x22
  | .storeSession .. => 0x30
  | .dropSession .. => 0x31
  | .cancelSession .. => 0x32
  | .restoreSession .. => 0x33
  | .extendSession .. => 0x34
  | .endSession .. => 0x35
  | .readSession .. => 0x36
  | .listSessions .. => 0x37
  | .putText .. => 0x40
  | .readText .. => 0x41
  | .clearPage .. => 0x42
  | .postNotice .. => 0x50
  | .withdrawNotice .. => 0x51
  | .pinPanel .. => 0x52
  | .unpinPanel .. => 0x53
  | .holdPublish => 0x54
  | .releasePublish => 0x55
  | .readFace .. => 0x56
  | .readPanel .. => 0x60
  | .readSegment .. => 0x61
  | .enrol .. => 0x62
  | .stopEnrol .. => 0x63
  | .forgetPanel .. => 0x64
  | .refreshPanel .. => 0x65

/-- Every KIND of the catalogue. -/
def requestKinds : List Byte :=
  [0x01, 0x02, 0x03, 0x04, 0x05, 0x06, 0x07, 0x10, 0x11, 0x12, 0x13, 0x14, 0x15, 0x16, 0x17, 0x18, 0x19, 0x1A, 0x1B, 0x1C,
   0x20, 0x21, 0x22, 0x30, 0x31, 0x32, 0x33, 0x34, 0x35, 0x36, 0x37, 0x40, 0x41, 0x42,
   0x50, 0x51, 0x52, 0x53, 0x54, 0x55, 0x56, 0x60, 0x61, 0x62, 0x63, 0x64, 0x65]

/-- The KIND a frame carried. -/
def Asked.kind : Asked → Byte
  | .request r => r.kind
  | .badLength k => k
  | .unknownKind k => k

end Sys2Proof
end

