-- ==== Sys2Proof/WellFormed.lean ====
section
/-! DEFINITION. Which commands are well formed: operands that the wire or the bus can carry. Field widths are in the types;
the checks here are on lengths, counts, addresses and kinds. -/

namespace Sys2Proof

/-- A reply window that is not silent held at least one byte (R108). -/
def Heard.wf : Heard → Bool
  | .silent => true
  | .bytes line _ => !line.isEmpty

/-- The body of the request fits its kind (R180 check 2, spec 12): a count is one byte, PUT-TEXT carries 1–240 bytes. -/
def Request.fits : Request → Bool
  | .defineCombination _ _ _ sections => sections.length ≤ 255
  | .storeSession spec => spec.sections.length ≤ 255
  | .putText _ _ _ data => 1 ≤ data.length && data.length ≤ 240
  | _ => true

/-- Well-formed commands. -/
def Instr.wf : Instr → Bool
  | .identify _ => true
  | .status _ => true
  | .setMask _ _ => true
  | .setOption _ _ _ => true
  | .readOption _ _ => true
  | .restart _ => true
  | .savePlan _ => true
  | .defineSection _ _ _ _ _ => true
  | .removeSection _ _ _ => true
  | .defineWall _ _ _ _ _ => true
  | .removeWall _ _ _ => true
  | .defineCombination _ _ _ _ sections => sections.length ≤ 255
  | .removeCombination _ _ _ => true
  | .definePanel _ _ _ => true
  | .removePanel _ _ _ => true
  | .closeSection _ _ => true
  | .openSection _ _ => true
  | .forceWall _ _ _ => true
  | .readWalls _ => true
  | .readSpaces _ _ => true
  | .setClock _ _ _ _ => true
  | .adjustClock _ _ => true
  | .readClock _ => true
  | .storeSession _ spec => spec.sections.length ≤ 255
  | .dropSession _ _ => true
  | .cancelSession _ _ => true
  | .restoreSession _ _ => true
  | .extendSession _ _ _ => true
  | .endSession _ _ => true
  | .readSession _ _ => true
  | .listSessions _ _ _ => true
  | .putText _ _ _ _ data => 1 ≤ data.length && data.length ≤ 240
  | .readText _ _ _ _ => true
  | .clearPage _ _ _ => true
  | .postNotice _ _ => true
  | .withdrawNotice _ _ => true
  | .pinPanel _ _ => true
  | .unpinPanel _ _ => true
  | .holdPublish _ => true
  | .releasePublish _ => true
  | .readFace _ _ _ => true
  | .readPanel _ _ _ => true
  | .readSegment _ _ => true
  | .enrol _ _ => true
  | .stopEnrol _ _ => true
  | .forgetPanel _ _ _ => true
  | .refreshPanel _ _ _ => true
  | .unknownKind _ kind body => !requestKinds.contains kind && body.length ≤ Config.bodyBytes
  | .hostFrameReceived bytes => !bytes.isEmpty && bytes.length ≤ Config.bodyBytes + 7
  | .receiveGapTimeout => true
  | .resyncGapTimeout => true
  | .replySent => true
  | .powerOn => true
  | .pinResetAssert => true
  | .pinResetRelease => true
  | .loadEnd _ => true
  | .secondTick => true
  | .holdTimeout => true
  | .clockExpire => true
  | .minuteTurnover => true
  | .wallScan _ => true
  | .chooseExchange _ => true
  | .roundRobinPoll _ heard => heard.wf
  | .returnProbe _ heard => heard.wf
  | .loadExchange _ heard => heard.wf
  | .showExchange _ heard => heard.wf
  | .completionPollDue _ address => 1 ≤ address && address ≤ Config.addresses
  | .completionPoll _ heard => heard.wf
  | .finalDeadline _ address => 1 ≤ address && address ≤ Config.addresses
  | .dropExchange _ => true
  | .rollCallIdent _ heard => heard.wf
  | .drainComplete _ => true
  | .keyExchange _ => true
  | .askExchange _ heard => heard.wf
  | .giveExchange _ heard => heard.wf
  | .saveErase _ => true
  | .saveBody _ => true
  | .saveHeader _ => true
  | .flashReadyTimeout => true
  | .frameStartByte byte => byte = 0xA5
  | .lenBytesIn _ _ => true
  | .framingErrorByte => true

end Sys2Proof
end

