-- ==== Sys2Proof/Machine/Operands.lean ====
section
/-! DEFINITION. Request bodies and host frames, sign-bus frames and replies (R108, R173–R175, R178, R205 and spec 12). -/

namespace Sys2Proof

open Machine

/-! ## Request bodies -/

/-- A text reference in three bytes. -/
def TextRef.bytes (r : TextRef) : List Byte := [r.page, r.offset, r.length]

/-- A page above 47 (R56). -/
def TextRef.bad (r : TextRef) : Bool := Config.pages ≤ r.page.toNat

/-- The body of a request (spec 12, request bodies). -/
def Request.body : Request → List Byte
  | .identify => []
  | .status => []
  | .setMask mask => halfBytes mask
  | .setOption number v => [number, v.first, v.second, v.third]
  | .readOption number => [number]
  | .restart => []
  | .savePlan => []
  | .defineSection rev index name code => halfBytes rev ++ [index] ++ name.bytes ++ codeBytes code
  | .removeSection rev index => halfBytes rev ++ [index]
  | .defineWall rev wall first second => halfBytes rev ++ [wall, first, second]
  | .removeWall rev wall => halfBytes rev ++ [wall]
  | .defineCombination rev index name sections =>
      halfBytes rev ++ [index] ++ name.bytes ++ [byte sections.length] ++ sections
  | .removeCombination rev index => halfBytes rev ++ [index]
  | .definePanel rev p =>
      halfBytes rev ++ halfBytes p.slot ++ serialBytes p.serial ++ [p.role, p.first, p.count] ++ p.heading.bytes ++ halfBytes p.zones
  | .removePanel rev slot => halfBytes rev ++ halfBytes slot
  | .closeSection index => [index]
  | .openSection index => [index]
  | .forceWall wall position => [wall, position]
  | .readWalls => []
  | .readSpaces first => [first]
  | .setClock day minute second => [day] ++ halfBytes minute ++ [second]
  | .adjustClock seconds => [seconds]
  | .readClock => []
  | .storeSession p =>
      halfBytes p.number ++ [p.day] ++ halfBytes p.start ++ halfBytes p.stop ++ [p.lead, p.track, p.flags]
        ++ p.title.bytes ++ p.speaker.bytes ++ [byte p.sections.length] ++ p.sections
  | .dropSession number => halfBytes number
  | .cancelSession number => halfBytes number
  | .restoreSession number => halfBytes number
  | .extendSession number minutes => halfBytes number ++ [minutes]
  | .endSession number => halfBytes number
  | .readSession number => halfBytes number
  | .listSessions position count => halfBytes position ++ [count]
  | .putText rev page offset data => halfBytes rev ++ [page, offset] ++ data
  | .readText page offset count => [page, offset, count]
  | .clearPage rev page => halfBytes rev ++ [page]
  | .postNotice p => [p.zone, p.level] ++ p.text.bytes ++ [p.expiryPresent, p.day] ++ halfBytes p.minute
  | .withdrawNotice zone => [zone]
  | .pinPanel slot => halfBytes slot
  | .unpinPanel slot => halfBytes slot
  | .holdPublish => []
  | .releasePublish => []
  | .readFace slot position => halfBytes slot ++ halfBytes position
  | .readPanel segment address => [segment, address]
  | .readSegment segment => [segment]
  | .enrol segment => [segment]
  | .stopEnrol segment => [segment]
  | .forgetPanel segment address => [segment, address]
  | .refreshPanel segment address => [segment, address]

/-- The request a frame's KIND and body spell; `none` in place of a body that does not fit the kind. `unknownKind` when the
kind is not in the catalogue (R180, checks 1 and 2). -/
def Request.read (kind : Byte) (body : List Byte) : Asked :=
  let fit (r : Option Request) : Asked := match r with
    | some r => .request r
    | none => .badLength kind
  let bare (r : Request) : Asked := fit (match body with
    | [] => some r
    | _ => none)
  let one (f : Byte → Request) : Asked := fit (match body with
    | [a] => some (f a)
    | _ => none)
  let pair (f : Byte → Byte → Request) : Asked := fit (match body with
    | [a, b] => some (f a b)
    | _ => none)
  let word (f : Half → Request) : Asked := fit (match body with
    | [a, b] => some (f (half a b))
    | _ => none)
  let wordByte (f : Half → Byte → Request) : Asked := fit (match body with
    | [a, b, c] => some (f (half a b) c)
    | _ => none)
  let wordWord (f : Half → Half → Request) : Asked := fit (match body with
    | [a, b, c, d] => some (f (half a b) (half c d))
    | _ => none)
  match kind.toNat with
  | 0x01 => bare .identify
  | 0x02 => bare .status
  | 0x03 => word .setMask
  | 0x04 => fit (match body with
    | [n, a, b, c] => some (.setOption n ⟨a, b, c⟩)
    | _ => none)
  | 0x05 => one .readOption
  | 0x06 => bare .restart
  | 0x07 => bare .savePlan
  | 0x10 => fit (match body with
    | [r, r', i, p, o, l, a, b, c, d] => some (.defineSection (half r r') i ⟨p, o, l⟩ (code4 a b c d))
    | _ => none)
  | 0x11 => wordByte .removeSection
  | 0x12 => fit (match body with
    | [r, r', w, a, b] => some (.defineWall (half r r') w a b)
    | _ => none)
  | 0x13 => wordByte .removeWall
  | 0x14 => fit (match body with
    | r :: r' :: i :: p :: o :: l :: n :: sections =>
        if sections.length = n.toNat then some (.defineCombination (half r r') i ⟨p, o, l⟩ sections) else none
    | _ => none)
  | 0x15 => wordByte .removeCombination
  | 0x16 => fit (match body with
    | [r, r', s, s', a, b, c, d, e, f, role, first, count, p, o, l, z, z'] =>
        some (.definePanel (half r r') ⟨half s s', serial6 a b c d e f, role, first, count, ⟨p, o, l⟩, half z z'⟩)
    | _ => none)
  | 0x17 => wordWord .removePanel
  | 0x18 => one .closeSection
  | 0x19 => one .openSection
  | 0x1A => pair .forceWall
  | 0x1B => bare .readWalls
  | 0x1C => one .readSpaces
  | 0x20 => fit (match body with
    | [d, m, m', s] => some (.setClock d (half m m') s)
    | _ => none)
  | 0x21 => one .adjustClock
  | 0x22 => bare .readClock
  | 0x30 => fit (match body with
    | n :: n' :: d :: s :: s' :: e :: e' :: lead :: track :: flags :: p :: o :: l :: p' :: o' :: l' :: k :: sections =>
        if sections.length = k.toNat then
          some (.storeSession ⟨half n n', d, half s s', half e e', lead, track, flags, ⟨p, o, l⟩, ⟨p', o', l'⟩, sections⟩)
        else none
    | _ => none)
  | 0x31 => word .dropSession
  | 0x32 => word .cancelSession
  | 0x33 => word .restoreSession
  | 0x34 => wordByte .extendSession
  | 0x35 => word .endSession
  | 0x36 => word .readSession
  | 0x37 => wordByte .listSessions
  | 0x40 => fit (match body with
    | r :: r' :: p :: o :: data =>
        if 1 ≤ data.length ∧ data.length ≤ 240 then some (.putText (half r r') p o data) else none
    | _ => none)
  | 0x41 => fit (match body with
    | [p, o, n] => some (.readText p o n)
    | _ => none)
  | 0x42 => wordByte .clearPage
  | 0x50 => fit (match body with
    | [z, v, p, o, l, x, d, m, m'] => some (.postNotice ⟨z, v, ⟨p, o, l⟩, x, d, half m m'⟩)
    | _ => none)
  | 0x51 => one .withdrawNotice
  | 0x52 => word .pinPanel
  | 0x53 => word .unpinPanel
  | 0x54 => bare .holdPublish
  | 0x55 => bare .releasePublish
  | 0x56 => wordWord .readFace
  | 0x60 => pair .readPanel
  | 0x61 => one .readSegment
  | 0x62 => one .enrol
  | 0x63 => one .stopEnrol
  | 0x64 => pair .forgetPanel
  | 0x65 => pair .refreshPanel
  | _ => .unknownKind kind

namespace Machine

/-! ## Host frames -/

/-- START (R173). -/
def startByte : Byte := 0xA5

/-- A host frame: START, LEN, KIND, TAG, body, CRC-16 over LEN through the last body byte (spec 12). -/
def hostFrame (kind tag : Byte) (body : List Byte) : List Byte :=
  let covered := two body.length ++ [kind, tag] ++ body
  startByte :: (covered ++ halfBytes (crc16 covered))

/-- A reply's KIND: the request's plus 0x80, modulo 256 (R178). -/
def replyKind (kind : Byte) : Byte := kind + 0x80

/-- The frame of a reply (R178). -/
def replyFrame (kind tag : Byte) (body : List Byte) : List Byte := hostFrame (replyKind kind) tag body

/-! ## Sign-bus frames -/

/-- ADDR of a broadcast and of the enrolment slot (spec 12). -/
def broadcast : Byte := 0x00
def enrolSlot : Byte := 0xFE

/-- A sign-bus frame: ADDR, KIND, LEN, body, CRC-16 over all before it (spec 12). -/
def busFrame (address kind : Byte) (body : List Byte) : List Byte :=
  let covered := [address, kind, byte body.length] ++ body
  covered ++ halfBytes (crc16 covered)

/-- How a segment controller takes what it heard (R108). -/
inductive BusReply where
  | silent
  | garbled
  | valid (kind : Byte) (body : List Byte)
deriving DecidableEq, Repr

/-- R108: VALID when the CRC-16 is correct, LEN matches the bytes received and is at most 80, the address is the one the
frame was sent to, and the kind answers the frame; any other line activity is GARBLED, and so is a framing error. The reply
ends, and the exchange with it, when its length field is satisfied (R107): bytes after that end are no part of it. -/
def readReply (address : Byte) (kinds : List Byte) : Heard → BusReply
  | .silent => .silent
  | .bytes _ true => .garbled
  | .bytes line false =>
    match line with
    | a :: k :: n :: rest =>
      let body := rest.take n.toNat
      if n.toNat ≤ 80 ∧ n.toNat + 2 ≤ rest.length ∧ a = address ∧ kinds.contains k
          ∧ (rest.drop n.toNat).take 2 = halfBytes (crc16 (a :: k :: n :: body)) then .valid k body
      else .garbled
    | _ => .garbled

/-- A STATE reply (R109): busy, shown digest or none when its valid flag is clear, temperature. -/
structure StateReport where
  busy : Bool
  shown : Option Half
  temp : Int
deriving DecidableEq, Repr

/-- An IDENT-REPLY (R109): serial, class code, shown digest or none. -/
structure IdentReport where
  serial : Serial
  cls : Byte
  shown : Option Half
deriving DecidableEq, Repr

/-- What one exchange gave its rule: nothing, a bad frame, or the answer. -/
inductive Answer (α : Type) where
  | silent
  | garbled
  | valid (a : α)
deriving DecidableEq, Repr

/-- The answer a reply's body gives (R108). A VALID reply may carry a body of another length than its kind's layout: byte `i` of
the layout is then the body's where the body has it, and `late i`, a free value, where it has not; bytes beyond the layout are
not read (DEDUCED, log 15). -/
def Answer.ofReply {α : Type} (late : Nat → Byte) (read : Byte → (Nat → Byte) → α) : BusReply → Answer α
  | .silent => .silent
  | .garbled => .garbled
  | .valid k body => .valid (read k (fun i => body.getD i (late i)))

/-- A shown digest, when its valid flag says so (R109). -/
def shownOf (flags high low : Byte) : Option Half := if flags.getLsbD 1 then some (half high low) else none

/-- The answer to POLL (STATE, 0x81). -/
def readState (late : Nat → Byte) (address : Nat) (h : Heard) : Answer StateReport :=
  Answer.ofReply late (fun _ b => ⟨(b 0).getLsbD 0, shownOf (b 0) (b 1) (b 2), (b 3).toInt⟩) (readReply (byte address) [0x81] h)

/-- The answer to IDENT (IDENT-REPLY, 0x84). -/
def readIdent (late : Nat → Byte) (address : Nat) (h : Heard) : Answer IdentReport :=
  Answer.ofReply late (fun _ b => ⟨serial6 (b 0) (b 1) (b 2) (b 3) (b 4) (b 5), b 6, shownOf (b 7) (b 8) (b 9)⟩)
    (readReply (byte address) [0x84] h)

/-- The answer to LOAD (ACK, 0x82): the index echoed. -/
def readAck (late : Nat → Byte) (address : Nat) (h : Heard) : Answer Nat :=
  Answer.ofReply late (fun _ b => (b 0).toNat) (readReply (byte address) [0x82] h)

/-- The answer to SHOW: true for SHOWN (0x83), false for REFUSED (0x93); neither has fields. -/
def readShow (late : Nat → Byte) (address : Nat) (h : Heard) : Answer Bool :=
  Answer.ofReply late (fun k _ => k = 0x83) (readReply (byte address) [0x83, 0x93] h)

/-- The answer to ASK (ASK-REPLY, 0x86): a serial. -/
def readAsk (late : Nat → Byte) (h : Heard) : Answer Serial :=
  Answer.ofReply late (fun _ b => serial6 (b 0) (b 1) (b 2) (b 3) (b 4) (b 5)) (readReply enrolSlot [0x86] h)

/-- The answer to GIVE (GIVE-ACK, 0x87): a class code. -/
def readGive (late : Nat → Byte) (h : Heard) : Answer Byte :=
  Answer.ofReply late (fun _ b => b 0) (readReply enrolSlot [0x87] h)

/-- A bit string in six bytes, first bit in bit 7 of the first byte, the bits beyond its length 0 (R139). -/
def stemBytes (stem : Bits) : List Byte :=
  serialBytes (BitVec.ofNat 48 ((stem.foldl (fun n b => 2 * n + b.toNat) 0) * 2 ^ (48 - stem.length)))

/-- The serial's most significant bits, from bit 47 downward, equal the stem (R138). -/
def stemOf (stem : Bits) (n : Serial) : Bool :=
  stem == (List.range stem.length).map (fun i => n.getMsbD i)

end Machine

end Sys2Proof
end

