-- ==== Sys2Proof/Machine/State.lean ====
section
/-! DEFINITION. The state of the NS-384 as plain data, block by block (spec 00, Blocks), and its value after power-on. -/

namespace Sys2Proof.Machine

/-- Entries by number, numbers rising: the form in which every table of the part is held. -/
abbrev Table (α : Type) := List (Nat × α)

/-- The text pool: cells rising by address, none holding 0x00, which is what an unlisted address reads as (R55). -/
abbrev TextMem := List Host.Cell

/-! ## Layout Unit -/

/-- A present section slot (R1). -/
structure Section where
  name : TextRef
  code : ShortCode
  closed : Bool
deriving DecidableEq, Repr

/-- A defined wall slot (R5). -/
structure Wall where
  a : Nat
  b : Nat
  forced : Forced
  last : Reading
  candidate : Reading
  run : Nat
  filtered : Filtered
deriving DecidableEq, Repr

/-- A defined combination (R13). -/
structure Combo where
  set : List Nat
  name : TextRef
deriving DecidableEq, Repr

/-- A space with what is derived for it (R15, R16). -/
structure Space where
  sections : List Nat
  name : TextRef
  source : NameSource
  more : Nat
  closed : Bool
deriving DecidableEq, Repr

structure Layout where
  sections : Table Section
  walls : Table Wall
  combos : Table Combo
  spaces : List Space
deriving DecidableEq, Repr

/-! ## Event Clock -/

/-- Clock state, day, minute and second (R20). -/
structure Clock where
  mode : ClockMode
  day : Nat
  minute : Nat
  second : Nat
deriving DecidableEq, Repr

/-! ## Session Table -/

/-- A session record (R32) with what ST holds for it (R37). `withheld` is the flag the manual calls private. -/
structure Session where
  day : Nat
  start : Nat
  stop : Nat
  sections : List Nat
  title : TextRef
  speaker : Option TextRef
  lead : Option Nat
  track : Nat
  withheld : Bool
  cancelled : Bool
  extension : Nat
  earlyEnd : Option Nat
  warned : Bool
  phase : Phase
  home : Nat
  placed : Bool
deriving DecidableEq, Repr

/-! ## Face Resolver -/

/-- What FR holds for a bound plan slot (R70). -/
structure FaceRec where
  wanted : List Byte
  digest : Half
  template : Template
  source : Source
  role : List Byte
  pages : Option Nat
deriving DecidableEq, Repr

structure Resolver where
  faces : Table FaceRec
  pages : Table Nat
deriving DecidableEq, Repr

/-! ## Notice Unit -/

/-- A zone's notice; the expiry is a day and a minute (R92). -/
structure Notice where
  level : Level
  text : TextRef
  expiry : Option (Nat × Nat)
deriving DecidableEq, Repr

/-- A pin: the stored copy of a face and its digest (R97). -/
structure Pin where
  copy : List Byte
  digest : Half
deriving DecidableEq, Repr

structure NoticeUnit where
  notices : Table Notice
  pins : Table Pin
  held : Bool
  timer : Nat
deriving DecidableEq, Repr

/-! ## Segment Controllers -/

/-- A refresh in flight (R162, R164–R169). Times are on `State.time`. `due` is the completion-poll time that waits to be
sent, `nextPoll` the next one on the 10 cs grid, `finalWaits` that the final deadline came during a completion poll. -/
structure Refresh where
  kind : RefreshKind
  draw : Nat
  digest : Half
  template : Template
  duration : Nat
  deadline : Nat
  final : Nat
  confirmed : Bool
  due : Option Nat
  nextPoll : Nat
  finalWaits : Bool
deriving DecidableEq, Repr

/-- The five states of a panel record (R114). -/
inductive RecState where
  | online
  | queued
  | loading
  | refreshing (f : Refresh)
  | lost
deriving DecidableEq, Repr

/-- A panel record (R114), with the wanted digest and template its controller last received (R148). -/
structure Rec where
  serial : Serial
  cls : PanelClass
  binding : Option Nat
  state : RecState
  shown : Option Half
  lastTemplate : Option Template
  ghost : Nat
  temp : Int
  cold : Bool
  miss : Nat
  forcedFull : Bool
  wantedDigest : Half
  wantedTemplate : Template
deriving DecidableEq, Repr

/-- A refresh-queue entry (R146). -/
structure Entry where
  address : Nat
  cls : QueueClass
  sequence : Nat
  pass : Nat
deriving DecidableEq, Repr

/-- The transfer in flight (R156); `ready` says whether its next frame may be chosen (R159), `abandoned` that a wanted-face
change came during the LOAD in progress, whose end ends it (R161). -/
structure Transfer where
  address : Nat
  kind : RefreshKind
  draw : Nat
  cls : QueueClass
  sequence : Nat
  encoding : List Byte
  digest : Half
  template : Template
  total : Nat
  next : Nat
  sends : Nat
  ready : Bool
  abandoned : Bool
deriving DecidableEq, Repr

/-- The exchange in progress on a bus (R107, R109), with what its frame carries. -/
inductive Exchange where
  | poll (address : Nat)
  | probe (address : Nat)
  | load (address index total : Nat) (data : List Byte)
  | showFace (address : Nat) (kind : RefreshKind) (digest : Half) (duration : Nat)
  | completion (address : Nat)
  | drop (address : Nat)
  | rollIdent (address : Nat)
  | rollDrop (address : Nat)
  | key
  | ask (stem : Bits)
  | give (serial : Serial) (address : Nat)
  | giveDrop (address : Nat)
deriving DecidableEq, Repr

/-- What one segment controller holds (07, 08 and 09, tables at the head of each). -/
structure Seg where
  mode : SegMode
  bus : Option Exchange
  recs : Table Rec
  pointer : Nat
  drops : List Nat
  queue : List Entry
  sequence : Nat
  transfer : Option Transfer
  reserved : Nat
  rollAddr : Nat
  stack : List Bits
  enrolCount : Nat
  lastEnrol : Option (EnrolResult × Nat)
  stopWaiting : Bool
deriving DecidableEq, Repr

/-- The four segments. -/
structure Segs where
  sc0 : Seg
  sc1 : Seg
  sc2 : Seg
  sc3 : Seg
deriving DecidableEq, Repr

/-! ## Plan Store -/

/-- A defined panel plan slot (R110). -/
structure PanelSlot where
  serial : Serial
  role : Role
  zones : Half
deriving DecidableEq, Repr

/-- The option table (R201); `quiet` is none when OFF. -/
structure Options where
  settle : Nat
  travel : Nat
  doorLead : Nat
  nextWindow : Nat
  horizon : Nat
  carousel : Nat
  quiet : Option Nat
  budget0 : Nat
  budget1 : Nat
  budget2 : Nat
  budget3 : Nat
  refreshFloor : Int
  missLimit : Nat
  holdTimeout : Nat
  passLimit : Nat
  privateText : TextRef
deriving DecidableEq, Repr

/-- A save under way: its stage, the body built when it was taken, and the revision of its header (R197, R198). -/
structure Save where
  stage : SaveStage
  body : List Byte
  revision : Nat
deriving DecidableEq, Repr

/-- The serial flash beside the part: the bytes from address 0 on; beyond them it is erased, or, after a save that failed or
was stopped, holds the free bytes of that save (`beyond`, log 9). `torn` says that a reset stopped the writing of a header:
its bytes are free, but a load refuses them (R198, R200). -/
structure Flash where
  bytes : List Byte
  beyond : Option Nat
  torn : Bool
deriving DecidableEq, Repr

structure PlanStore where
  plan : PlanState
  revision : Nat
  options : Options
  panels : Table PanelSlot
  lastSave : SaveResult
  save : Option Save
  flash : Flash
deriving DecidableEq, Repr

/-! ## Link Interface -/

/-- The receiver; RECEIVING holds the bytes that came after START (R173). -/
inductive Receiver where
  | hunting
  | receiving (got : List Byte)
  | resync
deriving DecidableEq, Repr

/-- A request held by LI with its TAG (R176). -/
structure Held where
  tag : Byte
  asked : Asked
deriving DecidableEq, Repr

/-- The request in service with the body of the reply being sent (R177). -/
structure InService where
  held : Held
  reply : List Byte
deriving DecidableEq, Repr

structure Link where
  receiver : Receiver
  service : Option InService
  waiting : Option Held
  attention : Half
  mask : Half
  cause : ResetCause
  attn : Bool
  served : Nat
deriving DecidableEq, Repr

/-! ## The whole part -/

/-- The state of the part. `time` (centiseconds), `orders` (the orders in which simultaneous events are taken, log 1) and
`li.served` are the model's own; `pending` is the queue of waiting commands. -/
structure State where
  pending : List Instr
  li : Link
  resetPin : Bool
  lu : Layout
  clock : Clock
  sessions : Table Session
  text : TextMem
  fr : Resolver
  nu : NoticeUnit
  sc : Segs
  ps : PlanStore
  time : Nat
  orders : List Nat
deriving DecidableEq, Repr

/-- No meaning of this model ends in a fault: a request that cannot be taken is answered with a result code, and a damaged
frame, reply or image has the effect the manual gives it. -/
inductive Fault where
deriving DecidableEq, Repr

/-- Why a step has no meaning. -/
inductive Refusal where
  /-- Raised by `exec` for a row that has no meaning yet; safe. No arm of this model raises it. -/
  | notModelled (mnemonic : String)
deriving DecidableEq, Repr

/-! ## Values after power-on -/

/-- The defaults of R201. -/
def Options.default : Options :=
  { settle := 8, travel := 240, doorLead := 15, nextWindow := 120, horizon := 90, carousel := 2, quiet := some 240
    budget0 := 300, budget1 := 300, budget2 := 300, budget3 := 300, refreshFloor := -5, missLimit := 3
    holdTimeout := 120, passLimit := 4, privateText := ⟨0, 0, 0⟩ }

/-- LU while the plan is LOADING: nothing present, no space (R1, R5, R13, R17). -/
def Layout.atReset : Layout := { sections := [], walls := [], combos := [], spaces := [] }

/-- The clock after any reset (R20). -/
def Clock.atReset : Clock := { mode := .unset, day := 0, minute := 0, second := 0 }

/-- NU after any reset (R106). -/
def NoticeUnit.atReset : NoticeUnit := { notices := [], pins := [], held := false, timer := 0 }

/-- A segment after power-on and pin reset (tables of 07, 08, 09). -/
def Seg.atReset : Seg :=
  { mode := .starting, bus := none, recs := [], pointer := 1, drops := [], queue := [], sequence := 0, transfer := none
    reserved := 0, rollAddr := 1, stack := [], enrolCount := 0, lastEnrol := none, stopWaiting := false }

/-- PS after power-on and pin reset (11, table at the head), beside the flash it finds. -/
def PlanStore.atReset (flash : Flash) : PlanStore :=
  { plan := .loading, revision := 0, options := Options.default, panels := [], lastSave := .never, save := none, flash }

/-- LI after power-on or pin reset, by cause; ATTN is released while the RESET input is asserted (R184, R190). -/
def Link.atReset (cause : ResetCause) (pin : Bool) (served : Nat) : Link :=
  { receiver := .hunting, service := none, waiting := none, attention := 0x0001, mask := 0xFFFF, cause, attn := !pin, served }

/-- The part after power-on: every block at its reset values, the load running (R204). -/
def State.reset : State :=
  { pending := [], li := Link.atReset .power false 0, resetPin := false, lu := Layout.atReset, clock := Clock.atReset
    sessions := [], text := [], fr := { faces := [], pages := [] }, nu := NoticeUnit.atReset
    sc := { sc0 := Seg.atReset, sc1 := Seg.atReset, sc2 := Seg.atReset, sc3 := Seg.atReset }
    ps := PlanStore.atReset { bytes := [], beyond := none, torn := false }, time := 0, orders := [] }

end Sys2Proof.Machine
end

