-- ==== Sys2Proof/Machine/Ops.lean ====
section
/-! DEFINITION. The shared operations over tables, the text pool, the segments and the orders left open. -/

namespace Sys2Proof.Machine

/-! ## Tables -/

/-- The entry under a number. -/
def Table.get {α : Type} : Table α → Nat → Option α
  | [], _ => none
  | (k, v) :: t, n => if k = n then some v else Table.get t n

/-- The table with an entry replaced where its number stands, else added in its place, numbers kept rising. -/
def Table.put {α : Type} : Table α → Nat → α → Table α
  | [], n, x => [(n, x)]
  | (k, v) :: t, n, x =>
    if n = k then (n, x) :: t
    else if n < k ∧ (Table.get t n).isNone then (n, x) :: (k, v) :: t
    else (k, v) :: Table.put t n x

/-- The table without an entry. -/
def Table.del {α : Type} (t : Table α) (n : Nat) : Table α := t.filter (fun e => e.1 ≠ n)

/-- The numbers of a table, rising. -/
def Table.keys {α : Type} (t : Table α) : List Nat := t.map Prod.fst

/-- Every entry changed in place. -/
def Table.mapVals {α β : Type} (f : α → β) (t : Table α) : Table β := t.map (fun e => (e.1, f e.2))

/-- The table's form: numbers strictly rising. -/
def Table.rising {α : Type} : Table α → Bool
  | [] => true
  | [_] => true
  | (k, _) :: (k', v') :: t => k < k' && Table.rising ((k', v') :: t)

/-! ## Sorted lists -/

/-- A number put in its place in a rising list. -/
def insertNat (n : Nat) : List Nat → List Nat
  | [] => [n]
  | k :: t => if n ≤ k then n :: k :: t else k :: insertNat n t

/-- A list in rising order. -/
def sortNat (l : List Nat) : List Nat := l.foldr insertNat []

/-- Does a number appear twice? -/
def hasRepeat : List Nat → Bool
  | [] => false
  | k :: t => t.contains k || hasRepeat t

/-! ## Orders left open (log 1) -/

/-- An element put at a place of a list. -/
def insertAt {α : Type} : Nat → α → List α → List α
  | 0, x, l => x :: l
  | _ + 1, x, [] => [x]
  | k + 1, x, y :: l => y :: insertAt k x l

/-- The n-th arrangement of a list: every arrangement is one for some n, and the list itself is for n = 0. -/
def arrange {α : Type} : Nat → List α → List α
  | _, [] => []
  | n, x :: l => insertAt (n % (l.length + 1)) x (arrange (n / (l.length + 1)) l)

/-- The next order from the tape `orders`; 0 when the tape is empty. -/
def State.nextOrder (s : State) : Nat := s.orders.headD 0

/-- The state once an order has been read. -/
def State.dropOrder (s : State) : State := { s with orders := s.orders.tail }

/-- Something done to the state for each of several things, in an order the manual does not give. -/
def forEach {α : Type} (l : List α) (f : α → State → State) (s : State) : State :=
  (arrange s.nextOrder l).foldl (fun s x => f x s) s.dropOrder

/-- One event taken by several receivers, in an order the manual does not give (R23, R27, R17). -/
def deliver (receivers : List (State → State)) (s : State) : State := forEach receivers (fun f => f) s

/-! ## Text pool -/

/-- Where a byte of a page stands in the pool's memory. -/
def textAddress (page offset : Nat) : Nat := page * Config.pageBytes + offset

/-- The byte at an address; 0x00 where nothing is listed (R55). -/
def TextMem.read (m : TextMem) (a : Nat) : Byte := (Table.get m a).getD 0

/-- The pool with a byte written; 0x00 is not listed. -/
def TextMem.write (m : TextMem) (a : Nat) (b : Byte) : TextMem := if b = 0 then Table.del m a else Table.put m a b

/-- Bytes written at rising addresses. -/
def TextMem.writeAll (m : TextMem) (a : Nat) : List Byte → TextMem
  | [] => m
  | b :: bs => TextMem.writeAll (m.write a b) (a + 1) bs

/-- The pool with a page cleared to 0x00. -/
def TextMem.clearPage (m : TextMem) (page : Nat) : TextMem := m.filter (fun c => c.1 / Config.pageBytes ≠ page)

/-- The pool with pages 16–47 cleared to 0x00 (R65). -/
def TextMem.clearSchedule (m : TextMem) : TextMem := m.filter (fun c => c.1 / Config.pageBytes < Config.planPages)

/-- `n` bytes from an address on. -/
def TextMem.readMany (m : TextMem) (a n : Nat) : List Byte := (List.range n).map (fun i => m.read (a + i))

/-- The canonical form: addresses strictly rising and inside the pool, no byte equal to what an unlisted address reads as. -/
def TextMem.wf (m : TextMem) : Bool :=
  Table.rising m && m.all (fun c => c.2 ≠ 0 && c.1 < Config.pages * Config.pageBytes)

/-- A text read through a reference, with its clipped mark (R57). -/
structure Clip where
  bytes : List Byte
  clipped : Bool
deriving DecidableEq, Repr

/-- R57 from an offset, at most `n` bytes: stops at n bytes, at a 0x00, or at the page end (clipped). -/
def readFrom (m : TextMem) (page : Nat) : Nat → Nat → Clip
  | _, 0 => ⟨[], false⟩
  | off, n + 1 =>
    if off ≥ Config.pageBytes then ⟨[], true⟩
    else
      let b := m.read (textAddress page off)
      if b = 0 then ⟨[], false⟩
      else
        let rest := readFrom m page (off + 1) n
        ⟨b :: rest.bytes, rest.clipped⟩

/-- A text reference read (R57). -/
def readRef (m : TextMem) (r : TextRef) : Clip := readFrom m r.page.toNat r.offset.toNat r.length.toNat

/-- A text cut to a field's width (R68). -/
def Clip.cut (c : Clip) (width : Nat) : Clip := ⟨c.bytes.take width, c.clipped || width < c.bytes.length⟩

/-! ## Segments and records -/

/-- FREE VALUE (log 15): the bytes of a reply's layout that the reply heard by the command in hand does not carry. Within a run
no two commands find both the time and the length of the queue the same, so nothing ties the bytes of one to another's. -/
def State.lateBytes (s : State) : Nat → Byte := Config.replyByte s.time s.pending.length

def Segs.get (g : Segs) : SegIx → Seg
  | .sc0 => g.sc0
  | .sc1 => g.sc1
  | .sc2 => g.sc2
  | .sc3 => g.sc3

def Segs.set (g : Segs) : SegIx → Seg → Segs
  | .sc0, x => { g with sc0 := x }
  | .sc1, x => { g with sc1 := x }
  | .sc2, x => { g with sc2 := x }
  | .sc3, x => { g with sc3 := x }

/-- The segments in rising number. -/
def allSegs : List SegIx := [.sc0, .sc1, .sc2, .sc3]

def State.seg (s : State) (ix : SegIx) : Seg := s.sc.get ix

def State.setSeg (s : State) (ix : SegIx) (g : Seg) : State := { s with sc := s.sc.set ix g }

/-- The panel record at a short address of a segment. -/
def State.rec? (s : State) (ix : SegIx) (a : Nat) : Option Rec := Table.get (s.seg ix).recs a

/-- The record at a short address replaced or added. -/
def State.putRec (s : State) (ix : SegIx) (a : Nat) (r : Rec) : State :=
  s.setSeg ix { s.seg ix with recs := Table.put (s.seg ix).recs a r }

/-- A record with its segment and address. -/
structure Place where
  seg : SegIx
  address : Nat
  rec_ : Rec
deriving DecidableEq, Repr

/-- Every record with its segment and address, lowest segment first, lowest address first. -/
def State.allRecs (s : State) : List Place :=
  allSegs.flatMap (fun ix => (s.seg ix).recs.map (fun e => ⟨ix, e.1, e.2⟩))

/-- The record bound to a plan slot (R114: at most one). -/
def State.holder (s : State) (slot : Nat) : Option Place :=
  s.allRecs.find? (fun p => p.rec_.binding = some slot)

/-- The defined plan slot that carries a serial (R110: at most one). -/
def State.slotOf (s : State) (serial : Serial) : Option Nat :=
  (s.ps.panels.find? (fun e => e.2.serial = serial)).map Prod.fst

end Sys2Proof.Machine
end

