-- ==== Sys2Proof/Machine/Flags.lean ====
section
/-! DEFINITION. The attention set, the mask and the ATTN output (R183–R187). -/

namespace Sys2Proof.Machine

/-- ATTN is asserted exactly when an enabled flag is set, and released while RESET is asserted (R184). -/
def attnOf (resetPin : Bool) (attention mask : Half) : Bool := !resetPin && attention &&& mask ≠ 0

/-- The attention set replaced and ATTN judged afresh (R184). -/
def State.setAttention (s : State) (flags : Half) : State :=
  { s with li := { s.li with attention := flags, attn := attnOf s.resetPin flags s.li.mask } }

/-- The mask replaced and ATTN judged afresh (R186). -/
def State.setMask (s : State) (mask : Half) : State :=
  { s with li := { s.li with mask := mask, attn := attnOf s.resetPin s.li.attention mask } }

/-- A block raises its flag; the flag stays set until STATUS returns it or a reset clears it (R183). -/
def raise (f : Flag) (s : State) : State := s.setAttention (s.li.attention ||| f.bit)

/-- A flag raised when a condition holds. -/
def raiseIf (c : Bool) (f : Flag) (s : State) : State := if c then raise f s else s

/-- STATUS clears exactly the flags it returns (R185). -/
def clearFlags (flags : Half) (s : State) : State := s.setAttention (s.li.attention &&& ~~~ flags)

/-- The attention set after any reset: START alone (R187). -/
def startAlone : Half := Flag.start.bit

end Sys2Proof.Machine
end

