-- ==== Sys2Proof/Machine/Layout.lean ====
section
/-! DEFINITION. LU: effective positions, the wall filter and the derivation of the spaces (R8–R17). -/

namespace Sys2Proof.Machine

/-- The effective position of a wall (R12). -/
def Wall.effective (w : Wall) : Position :=
  match w.forced with
  | .stowed => .stowed
  | .deployed => .deployed
  | .free =>
    match w.filtered with
    | .stowed => .stowed
    | .deployed => .deployed
    | .unknown => .deployed
    | .fault => .deployed

/-- The reading of a position's two contacts (R8). -/
def readingOf (stowedMade deployedMade : Bool) : Reading :=
  match stowedMade, deployedMade with
  | true, false => .stowed
  | false, true => .deployed
  | false, false => .travel
  | true, true => .conflict

/-- One sample on last reading, candidate and run count (R9). -/
def Wall.sample (w : Wall) (r : Reading) : Wall :=
  if r = w.candidate then { w with last := r, run := min (w.run + 1) 65535 }
  else { w with last := r, candidate := r, run := 1 }

/-- The filtered state judged from candidate and run count (R10). -/
def Wall.judged (settle travel : Nat) (w : Wall) : Filtered :=
  match w.candidate with
  | .stowed => if w.run ≥ settle then .stowed else w.filtered
  | .deployed => if w.run ≥ settle then .deployed else w.filtered
  | .travel => if w.run ≥ travel then .fault else w.filtered
  | .conflict => if w.run ≥ settle then .fault else w.filtered
  | .nothing => w.filtered

/-- A freshly defined wall (R6). -/
def Wall.fresh (a b : Nat) : Wall :=
  { a := a, b := b, forced := .free, last := .nothing, candidate := .nothing, run := 0, filtered := .unknown }

/-! ## Spaces -/

/-- Each present section with the lowest section joined to it so far: two groups become one. -/
def joinLabels (a b : Nat) (labels : Table Nat) : Table Nat :=
  match Table.get labels a, Table.get labels b with
  | some x, some y => labels.map (fun e => (e.1, if e.2 = x ∨ e.2 = y then min x y else e.2))
  | _, _ => labels

/-- The anchor of every present section: sections joined by a chain of effectively stowed walls share the lowest (R15). -/
def anchors (sections : Table Section) (walls : Table Wall) : Table Nat :=
  walls.foldl (fun l w => if w.2.effective = .stowed then joinLabels w.2.a w.2.b l else l)
    (sections.map (fun e => (e.1, e.1)))

/-- The sections of a list that share an anchor. -/
def groupOf (labels : Table Nat) (anchor : Nat) : List Nat := (labels.filter (fun e => e.2 = anchor)).map Prod.fst

/-- The space of one section set, with name, more-count and closed state (R16). -/
def spaceOfSet (lu : Layout) (anchor : Nat) (set : List Nat) : Space :=
  let closed := set.all (fun i => (Table.get lu.sections i).any (·.closed))
  match lu.combos.find? (fun c => c.2.set = set) with
  | some c => { sections := set, name := c.2.name, source := .combo c.1, more := 0, closed }
  | none =>
    { sections := set
      name := ((Table.get lu.sections anchor).map (·.name)).getD ⟨0, 0, 0⟩
      source := .anchor anchor, more := set.length - 1, closed }

/-- The space list, ordered by anchor (R15, R16). -/
def deriveSpaces (lu : Layout) : List Space :=
  let labels := anchors lu.sections lu.walls
  (labels.filter (fun e => e.2 = e.1)).map (fun e => spaceOfSet lu e.1 (groupOf labels e.1))

/-- A space's anchor: the lowest section it holds. -/
def Space.anchor (p : Space) : Nat := p.sections.headD 0

/-- The space that holds a section. -/
def spaceHolding (spaces : List Space) (index : Nat) : Option Space := spaces.find? (fun p => p.sections.contains index)

end Sys2Proof.Machine
end

