-- ==== Sys2Proof/Machine/Phases.lean ====
section
/-! DEFINITION. ST: effective end, phase, placement, clash and layout warning of a session record (R33–R51). -/

namespace Sys2Proof.Machine

/-- The effective end (R33). -/
def Session.effectiveEnd (r : Session) : Nat :=
  match r.earlyEnd with
  | some e => e
  | none => min (r.stop + r.extension) 1440

/-- The lead in force (R35). -/
def Session.leadInForce (doorLead : Nat) (r : Session) : Nat := r.lead.getD doorLead

/-- The opening minute: start − lead, held to 0 at least (R34). -/
def Session.opening (doorLead : Nat) (r : Session) : Nat := r.start - r.leadInForce doorLead

/-- The phase at a clock: the first test of R34 that holds. -/
def phaseAt (clock : Clock) (doorLead : Nat) (r : Session) : Phase :=
  if clock.mode = .unset then .future
  else if r.cancelled then .cancelled
  else if clock.day < r.day then .future
  else if clock.day > r.day then .done
  else if clock.minute < r.opening doorLead then .upcoming
  else if clock.minute < r.start then .doors
  else if clock.minute < min r.stop r.effectiveEnd then .live
  else if r.stop ≤ clock.minute ∧ clock.minute < r.effectiveEnd then .overrun
  else .done

/-- Visibility of a cancelled session (R36). -/
def visibleAt (clock : Clock) (doorLead : Nat) (r : Session) : Bool :=
  r.cancelled && clock.mode ≠ .unset && clock.day = r.day && r.opening doorLead ≤ clock.minute && clock.minute < r.stop

/-- The lowest booked section. -/
def Session.lowest (r : Session) : Nat := r.sections.headD 0

/-- The home space: the one that holds the lowest booked section (R50). -/
def Session.homeSpace (spaces : List Space) (r : Session) : Option Space := spaceHolding spaces r.lowest

/-- A phase in which a misplacement is warned of (R51). -/
def warnedPhase : Phase → Bool
  | .doors => true
  | .live => true
  | .overrun => true
  | .future => false
  | .upcoming => false
  | .done => false
  | .cancelled => false

/-- Phase, home space and placement brought up to date (R38, R50). -/
def Session.update (clock : Clock) (doorLead : Nat) (spaces : List Space) (r : Session) : Session :=
  let home := r.homeSpace spaces
  { r with
    phase := phaseAt clock doorLead r
    home := (home.map Space.anchor).getD r.lowest
    placed := home.any (fun p => p.sections = r.sections) }

/-- Does the layout warning raise LAYOUT (R51)? -/
def Session.warns (r : Session) : Bool := warnedPhase r.phase && !r.placed && !r.warned

/-- The layout-warned flag after the warning is judged (R51). -/
def Session.judgeWarning (r : Session) : Session := { r with warned := warnedPhase r.phase && !r.placed }

/-- Did a re-evaluation change what is delivered as a session change (R38)? -/
def Session.moved (before after : Session) : Bool :=
  before.phase ≠ after.phase || before.home ≠ after.home || before.placed ≠ after.placed

/-- Two section lists share a section. -/
def share (a b : List Nat) : Bool := a.any (fun i => b.contains i)

/-- Intervals [a, b) and [c, e) overlap (R39). -/
def overlap (a b c e : Nat) : Bool := a < e && c < b

/-- Does an interval of a day in some sections clash with a record (R39, R40 check 3)? -/
def Session.clashesWith (day : Nat) (sections : List Nat) (start stop : Nat) (o : Session) : Bool :=
  !o.cancelled && o.day = day && share sections o.sections && overlap start stop o.start o.effectiveEnd

/-- Does any record but one number clash with an interval? -/
def clashes (t : Table Session) (number day : Nat) (sections : List Nat) (start stop : Nat) : Bool :=
  t.any (fun e => e.1 ≠ number && e.2.clashesWith day sections start stop)

/-- The least of the starts that limit an extension: N of R46. -/
def nextBooking (t : Table Session) (number : Nat) (r : Session) : Option Nat :=
  ((t.filter (fun e => e.1 ≠ number && !e.2.cancelled && e.2.day = r.day && share r.sections e.2.sections
      && r.start ≤ e.2.start)).map (fun e => e.2.start)).min?

/-- The grant of EXTEND-SESSION (R46). -/
def grant (t : Table Session) (number : Nat) (r : Session) (k : Nat) : Nat :=
  let end_ := r.stop + r.extension
  let g := min k (min (180 - r.extension) (1440 - end_))
  match nextBooking t number r with
  | some n => min g (n - end_)
  | none => g

/-- The listing order of R49: day, start, lowest booked section, number. -/
def listedBefore (x y : Nat × Session) : Bool :=
  if x.2.day ≠ y.2.day then x.2.day < y.2.day
  else if x.2.start ≠ y.2.start then x.2.start < y.2.start
  else if x.2.lowest ≠ y.2.lowest then x.2.lowest < y.2.lowest
  else x.1 < y.1

/-- An element put in its place. -/
def insertBy {α : Type} (before : α → α → Bool) (x : α) : List α → List α
  | [] => [x]
  | y :: l => if before x y then x :: y :: l else y :: insertBy before x l

/-- A list put in order. -/
def sortBy {α : Type} (before : α → α → Bool) (l : List α) : List α := l.foldr (insertBy before) []

end Sys2Proof.Machine
end

