-- ==== Sys2Proof/Machine/Faces.lean ====
section
/-! DEFINITION. FR: the face a slot ought to show (R66–R87) and its canonical encoding (R206). -/

namespace Sys2Proof.Machine

/-! ## Faces and their encoding -/

/-- The MARKS of a face or a line (R67, R206). -/
structure Marks where
  layout : Bool
  more : Bool
  cancelled : Bool
  clipped : Bool
deriving DecidableEq, Repr

/-- One line of a directory page (R84). -/
structure Line where
  number : Nat
  space : Clip
  title : Clip
  start : Nat
  stop : Nat
  phase : Phase
  marks : Marks
deriving DecidableEq, Repr

/-- A field with its value (R67). -/
inductive Field where
  | spaceName (t : Clip)
  | moreCount (n : Nat)
  | title (t : Clip)
  | speaker (t : Clip)
  | span (start stop : Nat)
  | phase (p : Phase)
  | marks (m : Marks)
  | track (n : Nat)
  | nextTitle (t : Clip)
  | nextStart (m : Nat)
  | banner (t : Clip)
  | heading (t : Clip)
  | page (number count : Nat)
  | line (v : Line)
  | level (v : Level)
  | zone (n : Nat)
  | noticeText (t : Clip)
deriving DecidableEq, Repr

/-- A template followed by its fields (R66). -/
structure Face where
  template : Template
  fields : List Field
deriving DecidableEq, Repr

/-- MARKS as one byte: LAYOUT, MORE, CANCELLED, CLIPPED from bit 0 (R206). -/
def Marks.code (m : Marks) : Byte :=
  byte (m.layout.toNat + 2 * m.more.toNat + 4 * m.cancelled.toNat + 8 * m.clipped.toNat)

/-- Does any mark apply? -/
def Marks.any (m : Marks) : Bool := m.layout || m.more || m.cancelled || m.clipped

/-- A tag byte: field code, and in bit 7 the clipped mark (R206). -/
def tagByte (code : Nat) (clipped : Bool) : Byte := byte (code + 128 * clipped.toNat)

/-- A text field: tag, length, bytes. -/
def textField (code : Nat) (t : Clip) : List Byte := tagByte code t.clipped :: byte t.bytes.length :: t.bytes

/-- A text inside a LINE: bit 7 the clipped mark, bits 0–6 the length, then the bytes. -/
def lineText (t : Clip) : List Byte := byte (t.bytes.length + 128 * t.clipped.toNat) :: t.bytes

/-- A field's tag and value (R206). -/
def Field.bytes : Field → List Byte
  | .spaceName t => textField 0x01 t
  | .moreCount n => [0x02, byte n]
  | .title t => textField 0x03 t
  | .speaker t => textField 0x04 t
  | .span a b => 0x05 :: two a ++ two b
  | .phase p => [0x06, p.code]
  | .marks m => [0x07, m.code]
  | .track n => [0x08, byte n]
  | .nextTitle t => textField 0x09 t
  | .nextStart m => 0x0A :: two m
  | .banner t => textField 0x0B t
  | .heading t => textField 0x0C t
  | .page n c => [0x0D, byte n, byte c]
  | .line v =>
      0x0E :: two v.number ++ lineText v.space ++ lineText v.title ++ two v.start ++ two v.stop ++ [v.phase.code, v.marks.code]
  | .level v => [0x0F, v.code]
  | .zone n => [0x10, byte n]
  | .noticeText t => textField 0x11 t

/-- The canonical encoding: template code, then each present field (R66, R206). -/
def Face.encode (f : Face) : List Byte := f.template.code :: f.fields.flatMap Field.bytes

/-- The BLANK face of a stray (R70). -/
def blankFace : Face := ⟨.blank, []⟩

/-- Its encoding, the single byte 0x01, and its digest 0x0101 (R66). -/
def blankBytes : List Byte := [0x01]
def blankDigest : Half := 0x0101

/-! ## Widths and classes -/

/-- Lines per directory page (R85). -/
def linesPerPage : PanelClass → Nat
  | .s => 4 | .m => 8 | .l => 12

/-- Width of a space name in a LINE (R68). -/
def lineSpaceWidth : PanelClass → Nat
  | .s => 16 | .m => 24 | .l => 32

/-- Width of a title in a LINE (R68). -/
def lineTitleWidth : PanelClass → Nat
  | .s => 32 | .m => 48 | .l => 64

/-- A reference read and cut to a width (R68). -/
def State.textOf (s : State) (r : TextRef) (width : Nat) : Clip := (readRef s.text r).cut width

/-! ## Notices -/

/-- A zone is in a slot's mask (R91). -/
def inZone (zones : Half) (zone : Nat) : Bool := zones.getLsbD zone

/-- The notices of a level in the zones of a mask, lowest zone first. -/
def noticesAt (s : State) (zones : Half) (level : Level) : List (Nat × Notice) :=
  s.nu.notices.filter (fun e => inZone zones e.1 && e.2.level = level)

/-- The notice that takes a slot over: highest level, then lowest zone (R74). -/
def winningNotice (s : State) (zones : Half) : Option (Nat × Notice) :=
  match noticesAt s zones .evacuate with
  | e :: _ => some e
  | [] => (noticesAt s zones .urgent).head?

/-- The NOTICE face (R74). -/
def noticeFace (s : State) (e : Nat × Notice) : Face :=
  ⟨.notice, [.level e.2.level, .zone e.1, .noticeText (s.textOf e.2.text 240)]⟩

/-- The banner text of a slot, if one applies (R75). -/
def bannerOf (s : State) (zones : Half) : Option Clip :=
  match winningNotice s zones with
  | some _ => none
  | none => ((noticesAt s zones .advisory).head?).map (fun e => s.textOf e.2.text 128)

/-- The BANNER field at the end of a face. -/
def bannerField (b : Option Clip) : List Field := (b.map Field.banner).toList

/-! ## Door plates -/

/-- The candidates of a door plate (R77): sessions of the clock's day that share a section with its space. -/
def candidates (s : State) (set : List Nat) : List (Nat × Session) :=
  if s.clock.mode = .unset then []
  else s.sessions.filter (fun e => e.2.day = s.clock.day && share e.2.sections set)

/-- The entry with the earliest start; the first in number among equals. -/
def earliest : List (Nat × Session) → Option (Nat × Session)
  | [] => none
  | e :: l =>
    match earliest l with
    | none => some e
    | some f => if f.2.start < e.2.start then some f else some e

/-- Candidates running now: not cancelled, in DOORS, LIVE or OVERRUN (R77 step 1, R81 MORE). -/
def runningNow (c : List (Nat × Session)) : List (Nat × Session) :=
  c.filter (fun e => !e.2.cancelled && warnedPhase e.2.phase)

/-- The current session (R77). -/
def currentOf (s : State) (c : List (Nat × Session)) : Option (Nat × Session) :=
  match earliest (runningNow c) with
  | some e => some e
  | none => earliest (c.filter (fun e => visibleAt s.clock s.ps.options.doorLead e.2))

/-- The next session (R78). -/
def nextOf (s : State) (c : List (Nat × Session)) : Option (Nat × Session) :=
  earliest (c.filter (fun e => !e.2.cancelled && e.2.phase = .upcoming
    && e.2.start ≤ s.clock.minute + s.ps.options.nextWindow))

/-- A session's title for a door plate: the private text when it is withheld (R82). -/
def titleRef (s : State) (r : Session) : TextRef := if r.withheld then s.ps.options.privateText else r.title

/-- The MORE-COUNT field, if above 0. -/
def moreField (n : Nat) : List Field := if 0 < n then [.moreCount n] else []

/-- Is a clipped mark set? -/
def clippedIn (texts : List Clip) : Bool := texts.any (·.clipped)

/-- The DOOR-SESSION face (R80, R81, R82). -/
def doorSessionFace (s : State) (p : Space) (c : List (Nat × Session)) (cur nxt : Option (Nat × Session))
    (banner : Option Clip) : Face :=
  let name := s.textOf p.name 64
  let title := cur.map (fun e => s.textOf (titleRef s e.2) 160)
  let speaker := cur.bind (fun e => if e.2.withheld then none else e.2.speaker.map (fun r => s.textOf r 96))
  let nextTitle := nxt.map (fun e => s.textOf (titleRef s e.2) 96)
  let marks : Marks :=
    { layout := cur.any (fun e => !e.2.placed)
      more := 1 < (runningNow c).length
      cancelled := cur.any (fun e => e.2.cancelled)
      clipped := clippedIn (name :: (title.toList ++ speaker.toList ++ nextTitle.toList ++ banner.toList)) }
  ⟨.doorSession,
    [.spaceName name] ++ moreField p.more
      ++ (title.map Field.title).toList
      ++ (speaker.map Field.speaker).toList
      ++ (cur.map (fun e => [Field.span e.2.start e.2.effectiveEnd, Field.phase e.2.phase])).getD []
      ++ (if marks.any then [.marks marks] else [])
      ++ (cur.map (fun e => if 0 < e.2.track then [Field.track e.2.track] else [])).getD []
      ++ (nextTitle.map Field.nextTitle).toList
      ++ (nxt.map (fun e => [Field.nextStart e.2.start])).getD []
      ++ bannerField banner⟩

/-- The role face of a door plate whose space is known (R76, R79, R80). -/
def doorFaceOf (s : State) (p : Space) (banner : Option Clip) : Face :=
  if p.closed then ⟨.doorClosed, [.spaceName (s.textOf p.name 64)]⟩
  else
    let c := candidates s p.sections
    match currentOf s c, nextOf s c with
    | none, none => ⟨.doorIdle, [.spaceName (s.textOf p.name 64)] ++ moreField p.more ++ bannerField banner⟩
    | cur, nxt => doorSessionFace s p c cur nxt banner

/-- The role face of a door plate. A door plate always finds its space (R76); a name that reads empty stands in where a
state no run reaches has none (log 21). -/
def doorFace (s : State) (index : Nat) (banner : Option Clip) : Face :=
  match spaceHolding s.lu.spaces index with
  | some p => doorFaceOf s p banner
  | none => ⟨.doorIdle, [.spaceName ⟨[], false⟩] ++ bannerField banner⟩

/-! ## Directory signs -/

/-- A listed session with its home space (R83). -/
structure Listed where
  number : Nat
  session : Session
  space : Space
deriving DecidableEq, Repr

/-- Is a session of the clock's day within what a sign shows of it (R83, the last bullet)? -/
def shownOnSign (clock : Clock) (horizon : Nat) (r : Session) : Bool :=
  if r.cancelled then clock.minute < r.start && r.start ≤ clock.minute + horizon
  else warnedPhase r.phase || (r.phase = .upcoming && r.start ≤ clock.minute + horizon)

/-- A session is listed on a sign whose window is first … first + count − 1 (R83). -/
def listedOn (s : State) (first count : Nat) (e : Nat × Session) : Option Listed :=
  match e.2.homeSpace s.lu.spaces with
  | none => none
  | some p =>
    if s.clock.mode ≠ .unset && e.2.day = s.clock.day && !e.2.withheld && first ≤ p.anchor && p.anchor < first + count
        && !p.closed && shownOnSign s.clock s.ps.options.horizon e.2 then some ⟨e.1, e.2, p⟩
    else none

/-- The line list's order: start, anchor of the home space, session number (R84). -/
def lineBefore (x y : Listed) : Bool :=
  if x.session.start ≠ y.session.start then x.session.start < y.session.start
  else if x.space.anchor ≠ y.space.anchor then x.space.anchor < y.space.anchor
  else x.number < y.number

/-- The line list of a sign (R84). -/
def lineList (s : State) (first count : Nat) : List Listed :=
  sortBy lineBefore (s.sessions.filterMap (listedOn s first count))

/-- One LINE with its number (R84). -/
def lineOf (s : State) (cls : PanelClass) (number : Nat) (e : Listed) : Line :=
  let space := s.textOf e.space.name (lineSpaceWidth cls)
  let title := s.textOf e.session.title (lineTitleWidth cls)
  { number, space, title, start := e.session.start, stop := e.session.effectiveEnd, phase := e.session.phase
    marks := { layout := !e.session.placed, more := false, cancelled := e.session.cancelled
               clipped := space.clipped || title.clipped } }

/-- The page count: max(1, ceil(n / lines per page)) (R85). -/
def pageCount (cls : PanelClass) (n : Nat) : Nat := max 1 ((n + linesPerPage cls - 1) / linesPerPage cls)

/-- The page index kept below the page count (R87). -/
def pageKept (index count : Nat) : Nat := if index < count then index else 0

/-- The lines of a list numbered from a number on. -/
def numberLines (s : State) (cls : PanelClass) : Nat → List Listed → List Field
  | _, [] => []
  | k, e :: l => .line (lineOf s cls k e) :: numberLines s cls (k + 1) l

/-- The DIRECTORY face at a page index (R85). -/
def directoryFace (s : State) (cls : PanelClass) (first count index : Nat) (heading : TextRef) (banner : Option Clip) : Face :=
  let list := lineList s first count
  let per := linesPerPage cls
  ⟨.directory,
    [.heading (s.textOf heading 64), .page (index + 1) (pageCount cls list.length)]
      ++ numberLines s cls (index * per + 1) ((list.drop (index * per)).take per) ++ bannerField banner⟩

/-! ## The face of a slot -/

/-- A role face with, for a directory, its page count and the page index it shows (R76, R83, R87). -/
structure RoleFace where
  face : Face
  pages : Option Nat
  index : Nat
deriving DecidableEq, Repr

/-- The role face of a slot bound to a record of a class, at a page index (R73, R85, R87). -/
def roleFaceOf (s : State) (p : PanelSlot) (cls : PanelClass) (index : Nat) : RoleFace :=
  let banner := bannerOf s p.zones
  match p.role with
  | .door sec => ⟨doorFace s sec banner, none, 0⟩
  | .directory first count heading =>
    let pages := pageCount cls (lineList s first count).length
    let kept := pageKept index pages
    ⟨directoryFace s cls first count kept heading banner, some pages, kept⟩

/-- What FR holds for a slot, from its inputs (R70, R73): NOTICE before pin before role. -/
def resolveFace (s : State) (slot : Nat) (p : PanelSlot) (role : RoleFace) : FaceRec :=
  let roleBytes := role.face.encode
  match winningNotice s p.zones, Table.get s.nu.pins slot with
  | some e, _ =>
    let f := noticeFace s e
    { wanted := f.encode, digest := fletcher16 f.encode, template := .notice, source := .notice, role := roleBytes, pages := role.pages }
  | none, some pin =>
    { wanted := pin.copy, digest := pin.digest, template := Template.ofCode (pin.copy.headD 0), source := .pin
      role := roleBytes, pages := role.pages }
  | none, none =>
    { wanted := roleBytes, digest := fletcher16 roleBytes, template := role.face.template, source := .role
      role := roleBytes, pages := role.pages }

end Sys2Proof.Machine
end

