-- ==== Sys2Proof/Machine/Refresh.lean ====
section
/-! DEFINITION. SC0–SC3: panel records, refresh queue, kinds, draws, durations, and the ends of transfers and refreshes
(R114–R121, R146–R170). -/

namespace Sys2Proof.Machine

/-! ## Classes, draws, durations -/

/-- The ghost limit of a class (R114, R151). -/
def ghostLimit : PanelClass → Nat
  | .s => 8 | .m => 6 | .l => 4

/-- The draw of a refresh in mA (R153). -/
def drawOf : PanelClass → RefreshKind → Nat
  | .s, .full => 45 | .s, .part => 25
  | .m, .full => 90 | .m, .part => 50
  | .l, .full => 150 | .l, .part => 85

/-- The reference duration in centiseconds (R157). -/
def refDuration : PanelClass → RefreshKind → Nat
  | .s, .full => 180 | .s, .part => 40
  | .m, .full => 260 | .m, .part => 55
  | .l, .full => 420 | .l, .part => 80

/-- The factor at the breakpoint −10 + 10 i °C (R157). -/
def breakFactor : Nat → Int
  | 0 => 1024
  | 1 => 640
  | 2 => 384
  | 3 => 272
  | 4 => 240
  | 5 => 224
  | 6 => 224
  | _ => 240

/-- The temperature factor in 256ths (R157), the division truncated toward zero. -/
def tempFactor (t : Int) : Int :=
  if t < -10 then 1024
  else if 60 ≤ t then 240
  else
    let i := ((t + 10) / 10).toNat
    let base : Int := 10 * i - 10
    breakFactor i + Int.tdiv ((breakFactor (i + 1) - breakFactor i) * (t - base)) 10

/-- The duration D: ref × F / 256 rounded up (R158). -/
def durationOf (cls : PanelClass) (kind : RefreshKind) (t : Int) : Nat :=
  (refDuration cls kind * (tempFactor t).toNat + 255) / 256

/-- The grace: the greater of 50 and D / 4 rounded up (R158). -/
def graceOf (d : Nat) : Nat := max 50 ((d + 3) / 4)

/-- The kind chosen for a record when a scan considers its entry (R151). -/
def kindOf (r : Rec) : RefreshKind :=
  if r.shown = none ∨ ghostLimit r.cls ≤ r.ghost ∨ r.lastTemplate ≠ some r.wantedTemplate ∨ r.forcedFull = true then .full
  else .part

/-! ## Need, class and queue -/

/-- The shown digest is unknown or differs from the wanted one. -/
def Rec.differs (r : Rec) : Bool := r.shown ≠ some r.wantedDigest

/-- Needs a refresh, but for the state the record is in (R148). -/
def Rec.needs (r : Rec) : Bool := !r.cold && (r.differs || r.forcedFull)

/-- The derived class (R149). -/
def Rec.derived (r : Rec) : QueueClass :=
  if r.differs then (if r.wantedTemplate = .notice then .alert else .normal) else .maint

/-- ALERT before NORMAL before MAINT (R146). -/
def classRank : QueueClass → Nat
  | .alert => 0 | .normal => 1 | .maint => 2

/-- The higher of two classes. -/
def higher (a b : QueueClass) : QueueClass := if classRank a ≤ classRank b then a else b

/-- Queue order: by class, then by sequence compared as plain numbers (R146, R147). -/
def Entry.before (x y : Entry) : Bool :=
  if classRank x.cls ≠ classRank y.cls then classRank x.cls < classRank y.cls else x.sequence < y.sequence

/-- An entry put in its place in the queue, after those that stand before it or level with it. -/
def enterQueue (e : Entry) : List Entry → List Entry
  | [] => [e]
  | x :: q => if e.before x then e :: x :: q else x :: enterQueue e q

/-- The queue without a record's entry. -/
def leaveQueue (a : Nat) (q : List Entry) : List Entry := q.filter (fun e => e.address ≠ a)

/-- The record's entry. -/
def entryOf (a : Nat) (q : List Entry) : Option Entry := q.find? (fun e => e.address = a)

/-- The queue with a record's entry raised to a class at least; sequence and pass count kept (R149). -/
def raiseEntry (a : Nat) (c : QueueClass) (q : List Entry) : List Entry :=
  match entryOf a q with
  | some e => enterQueue { e with cls := higher e.cls c } (leaveQueue a q)
  | none => q

/-- The sequence counter after one is taken (R147). -/
def nextSequence (n : Nat) : Nat := (n + 1) % 4294967296

/-- One more miss, saturating at 255 (R118). -/
def missed (n : Nat) : Nat := min (n + 1) 255

/-- The segment with a record enqueued from ONLINE (R147, R150). -/
def Seg.enqueue (g : Seg) (a : Nat) (r : Rec) (c : QueueClass) : Seg :=
  { g with
    recs := Table.put g.recs a { r with state := .queued }
    queue := enterQueue { address := a, cls := c, sequence := g.sequence, pass := 0 } g.queue
    sequence := nextSequence g.sequence }

/-- The segment with a record put back in the queue with an old sequence, pass count 0 (R160, R161, R163). -/
def Seg.requeue (g : Seg) (a : Nat) (r : Rec) (c : QueueClass) (sequence : Nat) : Seg :=
  { g with
    recs := Table.put g.recs a { r with state := .queued }
    queue := enterQueue { address := a, cls := c, sequence, pass := 0 } g.queue }

/-- The segment with a record set to ONLINE and out of the queue. -/
def Seg.setOnline (g : Seg) (a : Nat) (r : Rec) : Seg :=
  { g with recs := Table.put g.recs a { r with state := .online }, queue := leaveQueue a g.queue }

/-- The segment with a record LOST and out of the queue (R118). -/
def Seg.setLost (g : Seg) (a : Nat) (r : Rec) : Seg :=
  { g with recs := Table.put g.recs a { r with state := .lost }, queue := leaveQueue a g.queue }

/-- A record's need evaluated (R150). `least` is the class an enqueued entry takes at least: NORMAL for REFRESH-PANEL
(R127, R149), else MAINT. -/
def Seg.evaluate (g : Seg) (a : Nat) (least : QueueClass) : Seg :=
  match Table.get g.recs a with
  | none => g
  | some r =>
    match r.state with
    | .online => if r.needs then g.enqueue a r (higher least r.derived) else g
    | .queued => if r.needs then { g with queue := raiseEntry a (higher least r.derived) g.queue } else g.setOnline a r
    | .loading => g
    | .refreshing _ => g
    | .lost => g

/-- Need evaluated on a segment of the part. -/
def evaluate (ix : SegIx) (a : Nat) (s : State) : State := s.setSeg ix ((s.seg ix).evaluate a .maint)

/-- The miss limit in force (R118). -/
def State.missLimit (s : State) : Nat := s.ps.options.missLimit

/-- A record goes LOST and PANEL is raised (R118, R170). -/
def loseRecord (ix : SegIx) (a : Nat) (r : Rec) (s : State) : State :=
  raise .panel (s.setSeg ix ((s.seg ix).setLost a r))

/-- A record leaves LOADING with its transfer ended: LOST at the miss limit, else re-queued with the transfer's sequence when
it still needs a refresh, else ONLINE (R160 steps 3 and 4, R161, R163, R170). -/
def leaveLoading (ix : SegIx) (a : Nat) (t : Transfer) (r : Rec) (s : State) : State :=
  let s := s.setSeg ix { s.seg ix with transfer := none }
  if s.missLimit ≤ r.miss then loseRecord ix a r s
  else if r.needs then s.setSeg ix ((s.seg ix).requeue a r (higher t.cls r.derived) t.sequence)
  else s.setSeg ix ((s.seg ix).setOnline a r)

/-- A record leaves REFRESHING: LOST at the miss limit, else ONLINE with its need evaluated (R170). -/
def leaveRefreshing (ix : SegIx) (a : Nat) (r : Rec) (s : State) : State :=
  if s.missLimit ≤ r.miss then loseRecord ix a r s
  else evaluate ix a (s.setSeg ix ((s.seg ix).setOnline a r))

/-- The SHOW exchange of a record is in progress. -/
def showing (g : Seg) (a : Nat) : Bool :=
  match g.bus with
  | some (.showFace b _ _ _) => a = b
  | _ => false

/-- A LOAD exchange of a record is in progress. -/
def loadRuns (g : Seg) (a : Nat) : Bool :=
  match g.bus with
  | some (.load b _ _ _) => a = b
  | _ => false

/-- A segment's transfer marked abandoned; it ends with the LOAD in progress (R161). -/
def Seg.abandon (g : Seg) (t : Transfer) : Seg := { g with transfer := some { t with abandoned := true } }

/-- A wanted-face change reaches a record's controller (R72, R148): the wanted digest and template are replaced. In LOADING
the transfer is abandoned unless its SHOW has begun: at the end of its LOAD when one is in progress, else at once (R161,
log 32). In the other states the need is evaluated (R150, R165). -/
def wantedFaceChange (ix : SegIx) (a : Nat) (digest : Half) (template : Template) (s : State) : State :=
  match s.rec? ix a with
  | none => s
  | some r =>
    let r := { r with wantedDigest := digest, wantedTemplate := template }
    let s := s.putRec ix a r
    match r.state, (s.seg ix).transfer with
    | .loading, some t =>
      if showing (s.seg ix) a then s
      else if loadRuns (s.seg ix) a then s.setSeg ix ((s.seg ix).abandon t)
      else leaveLoading ix a t r s
    | _, _ => evaluate ix a s

/-! ## Temperature and cold flag -/

/-- A reported temperature taken: valid in −40…+85, else the effective one is kept (R120). -/
def takeTemp (reported held : Int) : Int := if -40 ≤ reported ∧ reported ≤ 85 then reported else held

/-- The cold flag judged against the refresh floor (R121). -/
def Rec.judgeCold (refreshFloor : Int) (r : Rec) : Rec := { r with cold := r.temp < refreshFloor }

/-- A judgement set the flag where it was clear. -/
def newlyCold (before after : Rec) : Bool := !before.cold && after.cold

/-- One record's cold flag judged, COLD raised when it becomes set, and its need evaluated on a change (R121, R150). -/
def judgeColdAt (ix : SegIx) (a : Nat) (s : State) : State :=
  match s.rec? ix a with
  | none => s
  | some r =>
    let r' := r.judgeCold s.ps.options.refreshFloor
    if r'.cold = r.cold then s
    else evaluate ix a (raiseIf (newlyCold r r') .cold (s.putRec ix a r'))

/-- Every record of a segment judged, in an order left open. -/
def judgeColdSeg (ix : SegIx) (s : State) : State :=
  forEach (Table.keys (s.seg ix).recs) (judgeColdAt ix) s

/-- A change of the refresh floor: every record on all four segments judged (R121). -/
def judgeColdAll (s : State) : State := forEach allSegs judgeColdSeg s

/-! ## Quiet-minute maintenance -/

/-- One record marked for maintenance: ONLINE or QUEUED with a ghost count above 0 (R171). -/
def markMaintenance (ix : SegIx) (a : Nat) (s : State) : State :=
  match s.rec? ix a with
  | none => s
  | some r =>
    if (r.state = .online ∨ r.state = .queued) ∧ 0 < r.ghost then evaluate ix a (s.putRec ix a { r with forcedFull := true })
    else s

/-- A segment's quiet-minute maintenance. -/
def maintainSeg (ix : SegIx) (s : State) : State := forEach (Table.keys (s.seg ix).recs) (markMaintenance ix) s

/-- One segment controller takes a natural minute turnover, on its own: at the quiet minute, maintenance (R23, R171). -/
def quietMinute (minute : Nat) (ix : SegIx) (s : State) : State :=
  if s.ps.options.quiet = some minute then maintainSeg ix s else s

end Sys2Proof.Machine
end

