-- ==== Sys2Proof/Machine/Resolver.lean ====
section
/-! DEFINITION. FR at work: recomputation, wanted-face changes, page indices and the carousel (R70–R72, R86, R87), and LU's
and ST's deliveries to it (R17, R37, R38, R52). -/

namespace Sys2Proof.Machine

/-! ## Recomputation -/

/-- The page index FR holds for a slot; 0 where none is held. -/
def State.pageIndex (s : State) (slot : Nat) : Nat := (Table.get s.fr.pages slot).getD 0

/-- A slot's page index and face put in place. The index is held for DIRECTORY slots only (R70). -/
def State.storeFace (s : State) (slot : Nat) (role : RoleFace) (f : FaceRec) : State :=
  { s with fr :=
    { faces := Table.put s.fr.faces slot f
      pages := if role.pages.isSome then Table.put s.fr.pages slot role.index else s.fr.pages } }

/-- A slot's wanted face discarded. -/
def State.dropFace (s : State) (slot : Nat) : State := { s with fr := { s.fr with faces := Table.del s.fr.faces slot } }

/-- One slot recomputed from the present inputs; a face whose encoding differs from the one held is delivered to the segment
controller of the bound record (R71, R72, R87). -/
def recomputeSlot (slot : Nat) (s : State) : State :=
  match Table.get s.ps.panels slot, s.holder slot with
  | some p, some h =>
    let role := roleFaceOf s p h.rec_.cls (s.pageIndex slot)
    let f := resolveFace s slot p role
    let old := Table.get s.fr.faces slot
    let s := s.storeFace slot role f
    if old.any (fun o => o.wanted = f.wanted) then s
    else wantedFaceChange h.seg h.address f.digest f.template s
  | _, _ => s.dropFace slot

/-- The slots bound to a record. -/
def State.boundSlots (s : State) : List Nat := (Table.keys s.ps.panels).filter (fun slot => (s.holder slot).isSome)

/-- Every bound slot recomputed, in an order left open. The narrower scopes of R71 give the same faces (log 3). -/
def recomputeAll (s : State) : State := forEach s.boundSlots recomputeSlot s

/-- The bound slots whose mask holds a zone recomputed: a notice change (R71). -/
def recomputeZone (zone : Nat) (s : State) : State :=
  forEach (s.boundSlots.filter (fun slot => (Table.get s.ps.panels slot).any (fun p => inZone p.zones zone))) recomputeSlot s

/-! ## The carousel -/

/-- A slot's index stepped by the page count FR holds for it; a slot without a page count takes no step (R86). -/
def stepPage (faces : Table FaceRec) (slot index : Nat) : Nat :=
  match (Table.get faces slot).bind (·.pages) with
  | some count => if index + 1 = count then 0 else index + 1
  | none => index

/-- The carousel step of every DIRECTORY slot, when the minute is a multiple of the carousel period (R86). -/
def carouselStep (minute : Nat) (s : State) : State :=
  if minute % s.ps.options.carousel = 0 then
    { s with fr := { s.fr with pages := s.fr.pages.map (fun e => (e.1, stepPage s.fr.faces e.1 e.2)) } }
  else s

/-- FR takes a natural minute turnover (R71, R86). -/
def resolverMinute (minute : Nat) (s : State) : State := recomputeAll (carouselStep minute s)

/-! ## Sessions re-evaluated -/

/-- One record re-evaluated at the present clock, spaces and door lead, its warning judged (R38, R51). -/
def State.evalSession (s : State) (r : Session) : Session := r.update s.clock s.ps.options.doorLead s.lu.spaces

/-- Every record brought up to date; LAYOUT raised where R51 says. -/
def updateSessions (s : State) : State :=
  let now := Table.mapVals s.evalSession s.sessions
  raiseIf (now.any (fun e => e.2.warns)) .layout { s with sessions := Table.mapVals Session.judgeWarning now }

/-- Would a re-evaluation deliver a session change? -/
def sessionsMove (s : State) : Bool := s.sessions.any (fun e => e.2.moved (s.evalSession e.2))

/-- ST re-evaluates every record and delivers the session changes to FR (R38), those of the event before the re-evaluation
among them (`changed`). Every record is brought up to date before FR recomputes, once for all the session changes of the event
(R72 leaves open whether FR takes them one by one; DESIGN CHOICE, log 31). -/
def reevaluateAll (changed : Bool) (s : State) : State :=
  if changed || sessionsMove s then recomputeAll (updateSessions s) else updateSessions s

/-- A re-evaluation alone (R38). -/
def reevaluateSessions (s : State) : State := reevaluateAll false s

/-- ST takes a minute turnover: every record re-evaluated. FR then works every page count from the new line lists before a
carousel step it has still to make, whether or not a session changed (R86, ST first; DEDUCED, log 34). -/
def sessionsMinute (s : State) : State := recomputeAll (updateSessions s)

/-- The record a request leaves under one number stored and re-evaluated (R38, R41). A session change is delivered when the
request changed the record (`changed`) or the re-evaluation moves it, and none otherwise (R37). -/
def reevaluateOne (changed : Bool) (number : Nat) (r : Session) (s : State) : State :=
  let now := s.evalSession r
  let s' := raiseIf now.warns .layout { s with sessions := Table.put s.sessions number now.judgeWarning }
  if changed || r.moved now then recomputeAll s' else s'

/-- Is a record of a day before the one given held? -/
def State.holdsEarlier (day : Nat) (s : State) : Bool := s.sessions.any (fun e => e.2.day < day)

/-- The session map without the records of days before the one given (R52). -/
def State.withoutEarlier (day : Nat) (s : State) : State :=
  { s with sessions := s.sessions.filter (fun e => day ≤ e.2.day) }

/-- The purge of a day turnover: every record whose day is less than the day given leaves the map (R52). -/
def purge (day : Nat) (s : State) : State :=
  if s.holdsEarlier day then recomputeAll (s.withoutEarlier day) else s.withoutEarlier day

/-! ## Spaces re-derived -/

/-- The space list derived afresh and replaced whole; when it differs, one space change to ST and one to FR (R17). -/
def rederive (s : State) : State :=
  let list := deriveSpaces s.lu
  if list = s.lu.spaces then s
  else deliver [reevaluateSessions, recomputeAll] { s with lu := { s.lu with spaces := list } }

end Sys2Proof.Machine
end

