-- ==== Sys2Proof/Machine/Bindings.lean ====
section
/-! DEFINITION. Bindings of panel records to plan slots, their changes, and the pins that fall with them (R100, R112–R116,
R131, R141). -/

namespace Sys2Proof.Machine

/-- The page index of a slot becomes 0 (R71, R87). -/
def resetPage (slot : Nat) (s : State) : State :=
  match Table.get s.fr.pages slot with
  | some _ => { s with fr := { s.fr with pages := Table.put s.fr.pages slot 0 } }
  | none => s

/-- NU takes the loss of a slot's binding: its pin is removed (R100). FR's recomputation of the pin change finds nothing to
resolve. -/
def loseBinding (slot : Nat) (s : State) : State := { s with nu := { s.nu with pins := Table.del s.nu.pins slot } }

/-- FR takes the loss of a slot: its wanted face is discarded and its page index becomes 0 (R70, R72). -/
def resolverLoses (slot : Nat) (s : State) : State := resetPage slot (s.dropFace slot)

/-- A record becomes bound to a slot; FR resolves the slot's face and delivers it (R72, R116). -/
def bindRecord (ix : SegIx) (a slot : Nat) (s : State) : State :=
  match s.rec? ix a with
  | none => s
  | some r => recomputeSlot slot (resetPage slot ((s.putRec ix a { r with binding := some slot }).dropFace slot))

/-- A bound record becomes a stray: STRAY is raised, FR and NU take the loss, and the record has the BLANK face (R72, R115,
R116). -/
def makeStray (ix : SegIx) (a : Nat) (s : State) : State :=
  match s.rec? ix a with
  | none => s
  | some r =>
    match r.binding with
    | none => s
    | some slot =>
      let s := raise .stray (s.putRec ix a { r with binding := none })
      wantedFaceChange ix a blankDigest .blank (loseBinding slot (resolverLoses slot s))

/-- The draw a record has reserved. -/
def Rec.reservedDraw (r : Rec) : Nat :=
  match r.state with
  | .refreshing f => f.draw
  | .online => 0
  | .queued => 0
  | .loading => 0
  | .lost => 0

/-- The segment without a record: out of the queue, its transfer and its draw gone with it (R114). -/
def Seg.delete (g : Seg) (a : Nat) (r : Rec) : Seg :=
  { g with
    recs := Table.del g.recs a
    queue := leaveQueue a g.queue
    transfer := if g.transfer.any (fun t => t.address = a) then none else g.transfer
    reserved := g.reserved - r.reservedDraw }

/-- A record deleted; when it was bound, FR and NU take the loss (R114, R116). -/
def deleteRecord (ix : SegIx) (a : Nat) (s : State) : State :=
  match s.rec? ix a with
  | none => s
  | some r =>
    let s := s.setSeg ix ((s.seg ix).delete a r)
    match r.binding with
    | none => s
    | some slot => loseBinding slot (resolverLoses slot s)

/-- A DROP marked pending for an address of a segment (R122). -/
def markDrop (ix : SegIx) (a : Nat) (s : State) : State :=
  s.setSeg ix { s.seg ix with drops := if (s.seg ix).drops.contains a then (s.seg ix).drops else insertNat a (s.seg ix).drops }

/-- The values of a record at creation (R114, R131, R141). -/
def Rec.fresh (serial : Serial) (cls : PanelClass) (shown : Option Half) : Rec :=
  { serial, cls, binding := none, state := .online, shown, lastTemplate := none, ghost := ghostLimit cls, temp := 25
    cold := false, miss := 0, forcedFull := false, wantedDigest := blankDigest, wantedTemplate := .blank }

/-- A record created, its binding worked and its need evaluated (R115, R131): bound when a defined slot holds its serial and
no record holds the slot; else a stray with STRAY, and with PANEL when another record holds the slot. -/
def createRecord (ix : SegIx) (a : Nat) (serial : Serial) (cls : PanelClass) (shown : Option Half) (s : State) : State :=
  let s := s.putRec ix a (Rec.fresh serial cls shown)
  let s := match s.slotOf serial with
    | none => raise .stray s
    | some slot =>
      match s.holder slot with
      | none => bindRecord ix a slot s
      | some _ => raise .panel (raise .stray s)
  evaluate ix a s

/-- The records that carry a serial, lowest segment first, lowest address first. -/
def State.carriers (s : State) (serial : Serial) : List Place := s.allRecs.filter (fun p => p.rec_.serial = serial)

/-- The binding of a slot worked for the records that carry its serial: the first is bound, each other raises PANEL (R115). -/
def bindSlot (slot : Nat) (serial : Serial) (s : State) : State :=
  match s.carriers serial with
  | [] => s
  | p :: others => bindRecord p.seg p.address slot (raiseIf (!others.isEmpty) .panel s)

end Sys2Proof.Machine
end

