-- ==== Sys2Proof/Machine/Bus.lean ====
section
/-! DEFINITION. The use of a sign bus: admission, the choice of the next exchange, its frame, draining and the start of roll
call and search steps (R107, R109, R117, R122, R129, R134–R139, R143, R154–R156, R159, R166). -/

namespace Sys2Proof.Machine

/-! ## Admission -/

/-- A segment's budget in mA (R153). -/
def State.budget (s : State) : SegIx → Nat
  | .sc0 => s.ps.options.budget0
  | .sc1 => s.ps.options.budget1
  | .sc2 => s.ps.options.budget2
  | .sc3 => s.ps.options.budget3

/-- What an admission scan found: the entry, the kind and draw chosen for it, and the addresses skipped on the way. -/
structure Found where
  entry : Entry
  kind : RefreshKind
  draw : Nat
  skipped : List Nat
deriving DecidableEq, Repr

/-- The scan of R155 from the head of the queue. While the hold is HELD it ends at the first entry that is not ALERT. -/
def scanQueue (recs : Table Rec) (held : Bool) (budget reserved passLimit : Nat) : List Entry → Option Found
  | [] => none
  | e :: q =>
    if held && e.cls ≠ .alert then none
    else
      match Table.get recs e.address with
      | none => scanQueue recs held budget reserved passLimit q
      | some r =>
        let kind := kindOf r
        let draw := drawOf r.cls kind
        if draw + reserved ≤ budget ∨ reserved = 0 then some { entry := e, kind, draw, skipped := [] }
        else if e.cls = .alert then none
        else if passLimit ≤ e.pass then none
        else
          match scanQueue recs held budget reserved passLimit q with
          | none => none
          | some f => some { f with skipped := e.address :: f.skipped }

/-- The pass counts of the skipped entries raised by 1 (R155). -/
def passOver (skipped : List Nat) (q : List Entry) : List Entry :=
  q.map (fun e => if skipped.contains e.address then { e with pass := e.pass + 1 } else e)

/-- The face a transfer carries: what FR holds for the record's slot; BLANK for a stray, and where FR holds none (R156). -/
def State.faceFor (s : State) (r : Rec) : List Byte × Half × Template :=
  match r.binding.bind (Table.get s.fr.faces) with
  | some f => (f.wanted, f.digest, f.template)
  | none => (blankBytes, blankDigest, .blank)

/-- The transfer set up at admission (R156). -/
def State.transferFor (s : State) (r : Rec) (f : Found) : Transfer :=
  let face := s.faceFor r
  { address := f.entry.address, kind := f.kind, draw := f.draw, cls := f.entry.cls, sequence := f.entry.sequence
    encoding := face.1, digest := face.2.1, template := face.2.2, total := (face.1.length + 63) / 64
    next := 0, sends := 0, ready := true, abandoned := false }

/-- Chunk `i` of an encoding (R159). -/
def chunkOf (encoding : List Byte) (i : Nat) : List Byte := (encoding.drop (64 * i)).take 64

/-- The LOAD of a transfer's present chunk begins (R159). -/
def Seg.startLoad (g : Seg) (t : Transfer) : Seg :=
  { g with
    bus := some (.load t.address t.next t.total (chunkOf t.encoding t.next))
    transfer := some { t with sends := t.sends + 1, ready := false } }

/-- The SHOW of a transfer begins; its duration is worked from the record as it stands now (R157, R158, R162). -/
def Seg.startShow (g : Seg) (t : Transfer) (r : Rec) : Seg :=
  { g with
    bus := some (.showFace t.address t.kind t.digest (durationOf r.cls t.kind r.temp))
    transfer := some { t with ready := false } }

/-- A record is admitted: it leaves the queue and enters LOADING, the entries skipped gain a pass, and its first LOAD is the
exchange (R155, R156). -/
def admitEntry (ix : SegIx) (f : Found) (r : Rec) (s : State) : State :=
  let g := s.seg ix
  let g := { g with
    recs := Table.put g.recs f.entry.address { r with state := .loading }
    queue := passOver f.skipped (leaveQueue f.entry.address g.queue) }
  s.setSeg ix (g.startLoad (s.transferFor r f))

/-! ## The use order -/

/-- The completion poll that is due first, ties by lowest address: its time and address (R122). -/
def firstDue : Table Rec → Option (Nat × Nat)
  | [] => none
  | (a, r) :: t =>
    let mine := match r.state with
      | .refreshing f => f.due.map (fun d => (d, a))
      | .online => none
      | .queued => none
      | .loading => none
      | .lost => none
    match mine, firstDue t with
    | none, x => x
    | some m, none => some m
    | some m, some x => if x.1 < m.1 then some x else some m

/-- The record polled next: at the pointer or the first above it, wrapping (R117). -/
def roundRobin (recs : Table Rec) (pointer : Nat) : Option (Nat × Rec) :=
  match recs.find? (fun e => pointer ≤ e.1) with
  | some e => some e
  | none => recs.head?

/-- A completion poll is sent: its due time is taken off (R166). -/
def Seg.startCompletion (g : Seg) (a : Nat) : Seg :=
  { g with
    bus := some (.completion a)
    recs := g.recs.map (fun e => if e.1 = a then
      (e.1, match e.2.state with
        | .refreshing f => { e.2 with state := .refreshing { f with due := none } }
        | .online => e.2
        | .queued => e.2
        | .loading => e.2
        | .lost => e.2) else e) }

/-- The next round-robin exchange: POLL, or IDENT for a LOST record (R117, order 5 of R122). -/
def Seg.startRoundRobin (g : Seg) : Seg :=
  match roundRobin g.recs g.pointer with
  | none => g
  | some (a, r) => { g with bus := some (if r.state = .lost then .probe a else .poll a) }

/-- The admission attempt of order 4: in RUN, no transfer in flight (R154, R155). -/
def admission (ix : SegIx) (s : State) : Option (Found × Rec) :=
  let g := s.seg ix
  if g.mode = .run ∧ g.transfer = none then
    match scanQueue g.recs s.nu.held (s.budget ix) g.reserved s.ps.options.passLimit g.queue with
    | some f => (Table.get g.recs f.entry.address).map (fun r => (f, r))
    | none => none
  else none

/-- The next frame of the transfer in flight, when it is ready: a LOAD, or SHOW after the last chunk (order 3 of R122). -/
def Seg.startTransferFrame (g : Seg) : Option Seg :=
  match g.transfer with
  | none => none
  | some t =>
    if t.ready then
      if t.next < t.total then some (g.startLoad t)
      else (Table.get g.recs t.address).map (fun r => g.startShow t r)
    else none

/-- The choice of the next exchange in RUN and DRAINING: the first use of R122 that waits. -/
def chooseByUse (ix : SegIx) (s : State) : State :=
  let g := s.seg ix
  match g.drops with
  | a :: _ => s.setSeg ix { g with bus := some (.drop a) }
  | [] =>
    match firstDue g.recs with
    | some (_, a) => s.setSeg ix (g.startCompletion a)
    | none =>
      match g.startTransferFrame with
      | some g' => s.setSeg ix g'
      | none =>
        match admission ix s with
        | some (f, r) => admitEntry ix f r s
        | none => s.setSeg ix g.startRoundRobin

/-! ## Draining, keying, searching -/

/-- Nothing in flight, no DROP pending, no exchange in progress (R134). -/
def Seg.drained (g : Seg) : Bool :=
  g.bus.isNone && g.drops.isEmpty && g.recs.all (fun e => match e.2.state with
    | .loading => false
    | .refreshing _ => false
    | .online => true
    | .queued => true
    | .lost => true)

/-- A segment enters KEYING and sends KEY (R134, R137). -/
def Seg.enterKeying (g : Seg) : Seg := { g with mode := .keying, bus := some .key }

/-- The end of an enrolment: stack and waiting stop cleared, the result stored, ENROL raised, the segment in RUN (R143). -/
def endEnrolment (ix : SegIx) (result : EnrolResult) (s : State) : State :=
  let g := s.seg ix
  raise .enrol (s.setSeg ix
    { g with stack := [], stopWaiting := false, lastEnrol := some (result, g.enrolCount), mode := .run })

/-- The next choice of a segment whose bus is quiet, by its state: the use order in RUN and DRAINING, with the drain judged
first in DRAINING (R122, R134); KEY in KEYING (R137); in SEARCHING the end of the enrolment or the next ASK (R139, R143,
R144); in STARTING roll call's IDENT, once the load has ended (R129). -/
def chooseNext (ix : SegIx) (s : State) : State :=
  let g := s.seg ix
  match g.mode with
  | .run => chooseByUse ix s
  | .draining => if g.drained then s.setSeg ix g.enterKeying else chooseByUse ix s
  | .keying => s.setSeg ix { g with bus := some .key }
  | .searching =>
    if g.stopWaiting then chooseByUse ix (endEnrolment ix .stopped s)
    else
      match g.stack with
      | [] => chooseByUse ix (endEnrolment ix .done s)
      | stem :: rest => s.setSeg ix { g with stack := rest, bus := some (.ask stem) }
  | .starting => if s.ps.plan = .loading then s else s.setSeg ix { g with bus := some (.rollIdent g.rollAddr) }

/-- The exchange in progress ends and the next is chosen (R122). When it was not a LOAD, the next frame of a transfer in
flight becomes ready (R159). -/
def endExchange (ix : SegIx) (s : State) : State :=
  let g := s.seg ix
  let readied := match g.bus with
    | some (.load ..) => g.transfer
    | _ => g.transfer.map (fun t => { t with ready := true })
  chooseNext ix (s.setSeg ix { g with bus := none, transfer := readied })

/-- A drain judged outside the end of an exchange: at a final deadline and when ENROL is taken (R134). -/
def judgeDrain (ix : SegIx) (s : State) : State :=
  let g := s.seg ix
  if g.mode = .draining ∧ g.drained = true then s.setSeg ix g.enterKeying else s

/-! ## The wake key -/

/-- One shift of the key register (R135). -/
def keyShift (r : Half) : Half :=
  (r <<< 1) ||| (BitVec.ofBool (Bool.xor (Bool.xor (r.getLsbD 15) (r.getLsbD 13)) (Bool.xor (r.getLsbD 12) (r.getLsbD 10)))).setWidth 16

/-- Eight shifts. -/
def keyShift8 (r : Half) : Half := keyShift (keyShift (keyShift (keyShift (keyShift (keyShift (keyShift (keyShift r)))))))

/-- The seed of a segment (R135). -/
def keySeed (ix : SegIx) : Half := 0x5A3C ^^^ (BitVec.ofNat 16 ix.number * 0x0101)

/-- `n` key bytes from a register value: after each eight shifts, its low byte. -/
def keyFrom : Nat → Half → List Byte
  | 0, _ => []
  | n + 1, r => (keyShift8 r).extractLsb' 0 8 :: keyFrom n (keyShift8 r)

/-- A segment's 12-byte wake key (R135). -/
def wakeKey (ix : SegIx) : List Byte := keyFrom 12 (keySeed ix)

/-- The frame an exchange sends (R109, spec 12). -/
def Exchange.frame (ix : SegIx) : Exchange → List Byte
  | .poll a => busFrame (byte a) 0x01 []
  | .completion a => busFrame (byte a) 0x01 []
  | .load a index total data => busFrame (byte a) 0x02 ([byte index, byte total] ++ data)
  | .showFace a kind digest d => busFrame (byte a) 0x03 ([kind.code] ++ halfBytes digest ++ two d)
  | .probe a => busFrame (byte a) 0x04 []
  | .rollIdent a => busFrame (byte a) 0x04 []
  | .key => busFrame broadcast 0x05 (wakeKey ix)
  | .ask stem => busFrame enrolSlot 0x06 (byte stem.length :: stemBytes stem)
  | .give serial a => busFrame enrolSlot 0x07 (serialBytes serial ++ [byte a])
  | .drop a => busFrame (byte a) 0x08 []
  | .rollDrop a => busFrame (byte a) 0x08 []
  | .giveDrop a => busFrame (byte a) 0x08 []

end Sys2Proof.Machine
end

