-- ==== Sys2Proof/Machine/Outcomes.lean ====
section
/-! DEFINITION. How a meaning answers: always with a next state. While RESET is asserted every block holds its reset values
and no event has an effect (R204). -/

namespace Sys2Proof.Machine

/-- The outcome of a command. -/
abbrev Out := Host.Outcome State Fault Refusal

/-- A command's effect, taken unless RESET is asserted. -/
def whenUp (f : State → State) (s : State) : Out := .next (if s.resetPin then s else f s)

/-- Something done `n` times. -/
def times (f : State → State) : Nat → State → State
  | 0, s => s
  | n + 1, s => times f n (f s)

end Sys2Proof.Machine
end

