-- ==== Sys2Proof/Machine/Polling.lean ====
section
/-! DEFINITION. CHOOSE_EXCHANGE, ROUND_ROBIN_POLL, RETURN_PROBE, DROP_EXCHANGE (R117–R122, R126, R130, R140). An exchange that
is not in progress on the bus has no end: the command then changes nothing (log 5). -/

namespace Sys2Proof.Machine

/-! ## Round-robin polls -/

/-- The address after one polled, with 96 followed by 1 (R117). -/
def nextPointer (a : Nat) : Nat := if Config.addresses ≤ a then 1 else a + 1

/-- The round-robin pointer moved past the address polled (R117). -/
def movePointer (ix : SegIx) (a : Nat) (s : State) : State :=
  s.setSeg ix { s.seg ix with pointer := nextPointer a }

/-- ONLINE or QUEUED. -/
def RecState.idle : RecState → Bool
  | .online => true
  | .queued => true
  | .loading => false
  | .refreshing _ => false
  | .lost => false

/-- A record with a STATE reply's temperature and a miss count of 0 taken, its cold flag judged (R118, R120, R121). -/
def Rec.heardState (refreshFloor : Int) (rep : StateReport) (r : Rec) : Rec :=
  Rec.judgeCold refreshFloor { r with miss := 0, temp := takeTemp rep.temp r.temp }

/-- A VALID STATE reply to a round-robin POLL (R118). A record that went LOST at its final deadline while the poll was in
progress stays LOST and keeps its shown digest, but takes the miss count, the temperature and the cold flag (R120; DESIGN
CHOICE, log 33). -/
def pollAnswered (ix : SegIx) (a : Nat) (r : Rec) (rep : StateReport) (s : State) : State :=
  let r' := (r.heardState s.ps.options.refreshFloor rep)
  let r' := { r' with shown := if r.state.idle then rep.shown else r.shown }
  evaluate ix a (raiseIf (newlyCold r r') .cold (s.putRec ix a r'))

/-- A round-robin POLL missed: at the miss limit an ONLINE or QUEUED record goes LOST (R118). -/
def pollMissed (ix : SegIx) (a : Nat) (r : Rec) (s : State) : State :=
  let r' := { r with miss := missed r.miss }
  if r.state.idle ∧ s.missLimit ≤ r'.miss then loseRecord ix a r' s else s.putRec ix a r'

/-- The outcome of a round-robin POLL acts on the record, if it still stands (R118). -/
def pollOutcome (ix : SegIx) (a : Nat) (heard : Heard) (s : State) : State :=
  match s.rec? ix a with
  | none => s
  | some r =>
    match readState s.lateBytes a heard with
    | .valid rep => pollAnswered ix a r rep s
    | .silent => pollMissed ix a r s
    | .garbled => pollMissed ix a r s

/-- The end of a round-robin POLL exchange. -/
def endPoll (ix : SegIx) (heard : Heard) (s : State) : State :=
  match (s.seg ix).bus with
  | some (.poll a) => endExchange ix (movePointer ix a (pollOutcome ix a heard s))
  | _ => s

/-! ## Return probes -/

/-- The record a return leaves: ONLINE, its class as reported (R119). -/
def Rec.returned (r : Rec) (c : PanelClass) (shown : Option Half) : Rec :=
  { r with
    state := .online, miss := 0, shown := shown, lastTemplate := none, cls := c
    ghost := if c = r.cls then r.ghost else ghostLimit c }

/-- A LOST record returns (R119): PANEL, a class change to FR when the class of a bound record changed, and its need
evaluated. -/
def recordReturns (ix : SegIx) (a : Nat) (r : Rec) (c : PanelClass) (shown : Option Half) (s : State) : State :=
  let s := raise .panel (s.putRec ix a (r.returned c shown))
  let s := match r.binding with
    | some slot => if c = r.cls then s else recomputeSlot slot s
    | none => s
  evaluate ix a s

/-- Another panel, or a bad class, answers at the address: the record is deleted, a DROP pends, PANEL is raised (R119). -/
def recordReplaced (ix : SegIx) (a : Nat) (s : State) : State :=
  raise .panel (markDrop ix a (deleteRecord ix a s))

/-- The outcome of a return probe (R119). -/
def probeOutcome (ix : SegIx) (a : Nat) (heard : Heard) (s : State) : State :=
  match s.rec? ix a with
  | none => s
  | some r =>
    match readIdent s.lateBytes a heard with
    | .silent => s.putRec ix a { r with miss := missed r.miss }
    | .garbled => s.putRec ix a { r with miss := missed r.miss }
    | .valid id =>
      if id.serial = r.serial then
        match PanelClass.ofCode id.cls with
        | some c => recordReturns ix a r c id.shown s
        | none => recordReplaced ix a s
      else recordReplaced ix a s

/-- The end of a return probe. -/
def endProbe (ix : SegIx) (heard : Heard) (s : State) : State :=
  match (s.seg ix).bus with
  | some (.probe a) => endExchange ix (movePointer ix a (probeOutcome ix a heard s))
  | _ => s

/-! ## Drops -/

/-- Roll call moves on: to the next address, or after 96 to RUN (R130, R132). -/
def rollAdvance (ix : SegIx) (s : State) : State :=
  let g := s.seg ix
  if Config.addresses ≤ g.rollAddr then chooseNext ix (s.setSeg ix { g with bus := none, mode := .run })
  else s.setSeg ix { g with rollAddr := g.rollAddr + 1, bus := some (.rollIdent (g.rollAddr + 1)) }

/-- The reply window of a DROP closes: a pending DROP is done and its address free (R122, R126); roll call's DROP ends the
turn of its address (R130); the DROP of a failed or refused GIVE ends its step (R140, R141). -/
def endDrop (ix : SegIx) (s : State) : State :=
  match (s.seg ix).bus with
  | some (.drop a) => endExchange ix (s.setSeg ix { s.seg ix with drops := (s.seg ix).drops.filter (· ≠ a) })
  | some (.rollDrop a) => rollAdvance ix (deleteRecord ix a s)
  | some (.giveDrop _) => endExchange ix s
  | _ => s

/-- A choice of exchange on a quiet bus (R122). -/
def chooseIfQuiet (ix : SegIx) (s : State) : State :=
  match (s.seg ix).bus with
  | none => chooseNext ix s
  | some _ => s

/-! ## Meanings -/

/-- CHOOSE_EXCHANGE. -/
def execChooseExchange (ix : SegIx) (s : State) : Out := whenUp (chooseIfQuiet ix) s

/-- ROUND_ROBIN_POLL. -/
def execRoundRobinPoll (ix : SegIx) (heard : Heard) (s : State) : Out := whenUp (endPoll ix heard) s

/-- RETURN_PROBE. -/
def execReturnProbe (ix : SegIx) (heard : Heard) (s : State) : Out := whenUp (endProbe ix heard) s

/-- DROP_EXCHANGE. -/
def execDropExchange (ix : SegIx) (s : State) : Out := whenUp (endDrop ix) s

end Sys2Proof.Machine
end

