-- ==== Sys2Proof/Machine/Transfers.lean ====
section
/-! DEFINITION. LOAD_EXCHANGE, SHOW_EXCHANGE, COMPLETION_POLL_DUE, COMPLETION_POLL, FINAL_DEADLINE (R158–R170). -/

namespace Sys2Proof.Machine

/-! ## Chunks -/

/-- The chunk was acknowledged: the next is the present one, with its sends at 0 (R159). -/
def chunkAcked (ix : SegIx) (t : Transfer) (s : State) : State :=
  s.setSeg ix { s.seg ix with transfer := some { t with next := t.next + 1, sends := 0, ready := false } }

/-- The chunk failed: after its third send the transfer is abandoned with a miss (R160); before, it waits to be repeated. -/
def chunkFailed (ix : SegIx) (t : Transfer) (s : State) : State :=
  if t.sends < 3 then s
  else
    match s.rec? ix t.address with
    | none => s.setSeg ix { s.seg ix with transfer := none }
    | some r => leaveLoading ix t.address t { r with miss := missed r.miss } s

/-- A transfer abandoned while its LOAD ran ends with that LOAD, without a miss; its record is judged as it then stands
(R161). -/
def endAbandoned (ix : SegIx) (t : Transfer) (s : State) : State :=
  match s.rec? ix t.address with
  | none => s.setSeg ix { s.seg ix with transfer := none }
  | some r => leaveLoading ix t.address t r s

/-- The outcome of a LOAD of chunk `index` (R159); discarded when the transfer was abandoned meanwhile (R161) or is gone
(log 19). -/
def loadOutcome (ix : SegIx) (a index : Nat) (heard : Heard) (s : State) : State :=
  match (s.seg ix).transfer with
  | none => s
  | some t =>
    if t.abandoned then endAbandoned ix t s
    else
      match readAck s.lateBytes a heard with
      | .valid i => if i = index then chunkAcked ix t s else chunkFailed ix t s
      | .silent => chunkFailed ix t s
      | .garbled => chunkFailed ix t s

/-- The end of a LOAD exchange. -/
def endLoad (ix : SegIx) (heard : Heard) (s : State) : State :=
  match (s.seg ix).bus with
  | some (.load a index _ _) => endExchange ix (loadOutcome ix a index heard s)
  | _ => s

/-! ## SHOW -/

/-- The refresh in flight that a SHOW starts: deadlines are counted from the end of its exchange (R158, R162, R164). -/
def refreshFrom (t : Transfer) (duration now : Nat) (confirmed : Bool) : Refresh :=
  { kind := t.kind, draw := t.draw, digest := t.digest, template := t.template, duration
    deadline := now + duration, final := now + duration + graceOf duration, confirmed
    due := none, nextPoll := now + duration, finalWaits := false }

/-- The record enters REFRESHING, its draw is reserved and the transfer ends (R162, R164). -/
def enterRefreshing (ix : SegIx) (a : Nat) (t : Transfer) (r : Rec) (duration : Nat) (confirmed : Bool) (s : State) : State :=
  let g := s.seg ix
  s.setSeg ix { g with
    recs := Table.put g.recs a { r with state := .refreshing (refreshFrom t duration s.time confirmed) }
    reserved := g.reserved + t.draw
    transfer := none }

/-- The outcome of a SHOW (R162, R163, R164). -/
def showOutcome (ix : SegIx) (a duration : Nat) (heard : Heard) (s : State) : State :=
  match (s.seg ix).transfer, s.rec? ix a with
  | some t, some r =>
    match readShow s.lateBytes a heard with
    | .valid true => enterRefreshing ix a t r duration true s
    | .valid false => leaveLoading ix a t { r with lastTemplate := none } s
    | .silent => enterRefreshing ix a t { r with miss := missed r.miss } duration false s
    | .garbled => enterRefreshing ix a t { r with miss := missed r.miss } duration false s
  | _, _ => s

/-- The end of a SHOW exchange. -/
def endShow (ix : SegIx) (heard : Heard) (s : State) : State :=
  match (s.seg ix).bus with
  | some (.showFace a _ _ duration) => endExchange ix (showOutcome ix a duration heard s)
  | _ => s

/-! ## Completion -/

/-- A record's refresh put in place of the one it holds. -/
def setRefresh (ix : SegIx) (a : Nat) (r : Rec) (f : Refresh) (s : State) : State :=
  s.putRec ix a { r with state := .refreshing f }

/-- A completion-poll time comes: not at or after the final deadline; a poll delayed past the next time is sent once, and the
grid goes on every 10 cs (R166). The event says that its time has come (log 6). -/
def pollDue (ix : SegIx) (a : Nat) (s : State) : State :=
  match s.rec? ix a with
  | some r =>
    match r.state with
    | .refreshing f =>
      if f.nextPoll < f.final then
        setRefresh ix a r { f with due := some (f.due.getD f.nextPoll), nextPoll := f.nextPoll + 10 }
          { s with time := max s.time f.nextPoll }
      else s
    | .online => s
    | .queued => s
    | .loading => s
    | .lost => s
  | none => s

/-- The segment with a draw released (R153). -/
def releaseDraw (ix : SegIx) (draw : Nat) (s : State) : State :=
  s.setSeg ix { s.seg ix with reserved := (s.seg ix).reserved - draw }

/-- What a completed refresh leaves in its record: steps 1, 3, 4 and 5 of R167. -/
def Rec.completed (r : Rec) (refreshFloor : Int) (f : Refresh) (rep : StateReport) : Rec :=
  let r := { r.heardState refreshFloor rep with shown := rep.shown }
  if f.confirmed || rep.shown = some f.digest then
    { r with
      lastTemplate := some f.template, forcedFull := false
      ghost := match f.kind with
        | .full => 0
        | .part => r.ghost + 1 }
  else { r with lastTemplate := none }

/-- A refresh completes (R167). -/
def completeRefresh (ix : SegIx) (a : Nat) (r : Rec) (f : Refresh) (rep : StateReport) (s : State) : State :=
  let r' := r.completed s.ps.options.refreshFloor f rep
  leaveRefreshing ix a r' (releaseDraw ix f.draw (raiseIf (newlyCold r r') .cold s))

/-- The final deadline gives up waiting (R169). -/
def giveUp (ix : SegIx) (a : Nat) (r : Rec) (f : Refresh) (s : State) : State :=
  leaveRefreshing ix a { r with shown := none, lastTemplate := none, miss := missed r.miss } (releaseDraw ix f.draw s)

/-- A final deadline that came during the poll is taken after it, if the refresh still runs (R168). -/
def finalAfterPoll (ix : SegIx) (a : Nat) (s : State) : State :=
  match s.rec? ix a with
  | some r =>
    match r.state with
    | .refreshing f => if f.finalWaits then giveUp ix a r f s else s
    | .online => s
    | .queued => s
    | .loading => s
    | .lost => s
  | none => s

/-- The outcome of a completion poll (R166): not busy completes; busy takes temperature and a miss count of 0; no good reply
changes nothing. -/
def completionOutcome (ix : SegIx) (a : Nat) (heard : Heard) (s : State) : State :=
  match s.rec? ix a with
  | some r =>
    match r.state, readState s.lateBytes a heard with
    | .refreshing f, .valid rep =>
      if rep.busy then
        let r' := r.heardState s.ps.options.refreshFloor rep
        raiseIf (newlyCold r r') .cold (s.putRec ix a r')
      else completeRefresh ix a r f rep s
    | _, _ => s
  | none => s

/-- The end of a completion poll. -/
def endCompletion (ix : SegIx) (heard : Heard) (s : State) : State :=
  match (s.seg ix).bus with
  | some (.completion a) => endExchange ix (finalAfterPoll ix a (completionOutcome ix a heard s))
  | _ => s

/-- A final deadline comes: it waits for a completion poll of its record in progress (R168), else it is taken (R169) and a
drain is judged (R134). -/
def finalComes (ix : SegIx) (a : Nat) (s : State) : State :=
  match s.rec? ix a with
  | some r =>
    match r.state with
    | .refreshing f =>
      let s := { s with time := max s.time f.final }
      if (s.seg ix).bus = some (.completion a) then setRefresh ix a r { f with finalWaits := true } s
      else judgeDrain ix (giveUp ix a r f s)
    | .online => s
    | .queued => s
    | .loading => s
    | .lost => s
  | none => s

/-! ## Meanings -/

/-- LOAD_EXCHANGE. -/
def execLoadExchange (ix : SegIx) (heard : Heard) (s : State) : Out := whenUp (endLoad ix heard) s

/-- SHOW_EXCHANGE. -/
def execShowExchange (ix : SegIx) (heard : Heard) (s : State) : Out := whenUp (endShow ix heard) s

/-- COMPLETION_POLL_DUE. -/
def execCompletionPollDue (ix : SegIx) (address : Nat) (s : State) : Out := whenUp (pollDue ix address) s

/-- COMPLETION_POLL. -/
def execCompletionPoll (ix : SegIx) (heard : Heard) (s : State) : Out := whenUp (endCompletion ix heard) s

/-- FINAL_DEADLINE. -/
def execFinalDeadline (ix : SegIx) (address : Nat) (s : State) : Out := whenUp (finalComes ix address) s

end Sys2Proof.Machine
end

