-- ==== Sys2Proof/Machine/Enrolment.lean ====
section
/-! DEFINITION. ROLL_CALL_IDENT, DRAIN_COMPLETE, KEY_EXCHANGE, ASK_EXCHANGE, GIVE_EXCHANGE (R129–R145). -/

namespace Sys2Proof.Machine

/-- The exchange that follows inside a roll-call turn or a search step. -/
def follow (ix : SegIx) (e : Exchange) (s : State) : State := s.setSeg ix { s.seg ix with bus := some e }

/-! ## Roll call -/

/-- The end of a roll-call IDENT to an address (R130). -/
def endRollIdent (ix : SegIx) (heard : Heard) (s : State) : State :=
  match (s.seg ix).bus with
  | some (.rollIdent a) =>
    match readIdent s.lateBytes a heard with
    | .valid id =>
      match PanelClass.ofCode id.cls with
      | some c => rollAdvance ix (createRecord ix a id.serial c id.shown s)
      | none => follow ix (.rollDrop a) (raise .panel s)
    | .garbled => follow ix (.rollDrop a) (raise .panel s)
    | .silent => rollAdvance ix s
  | _ => s

/-! ## The search -/

/-- The KEY exchange's window closes: SEARCHING with the empty bit string on the stack (R137), whence the first step begins;
a waiting stop takes effect instead (R144). -/
def endKey (ix : SegIx) (s : State) : State :=
  match (s.seg ix).bus with
  | some .key => endExchange ix (s.setSeg ix { s.seg ix with mode := .searching, stack := [[]] })
  | _ => s

/-- The lowest address that no record holds and no DROP pends for (R140). -/
def freeAddress (g : Seg) : Option Nat :=
  ((List.range Config.addresses).map (· + 1)).find? (fun a => (Table.get g.recs a).isNone && !g.drops.contains a)

/-- A collision: the stem is split, the branch of 0 on top, and at 48 bits PANEL is raised (R139, R142). -/
def askCollided (ix : SegIx) (stem : Bits) (s : State) : State :=
  if stem.length < 48 then
    s.setSeg ix { s.seg ix with stack := (stem ++ [false]) :: (stem ++ [true]) :: (s.seg ix).stack }
  else raise .panel s

/-- One panel answered: no GIVE when a stop waits (R144); FULL when no address is free; else GIVE (R140). -/
def askAnswered (ix : SegIx) (serial : Serial) (s : State) : State :=
  if (s.seg ix).stopWaiting then endExchange ix s
  else
    match freeAddress (s.seg ix) with
    | none => endExchange ix (endEnrolment ix .full s)
    | some a => follow ix (.give serial a) s

/-- The end of an ASK exchange (R139). -/
def endAsk (ix : SegIx) (heard : Heard) (s : State) : State :=
  match (s.seg ix).bus with
  | some (.ask stem) =>
    match readAsk s.lateBytes heard with
    | .silent => endExchange ix s
    | .garbled => endExchange ix (askCollided ix stem s)
    | .valid serial => if stemOf stem serial then askAnswered ix serial s else endExchange ix (askCollided ix stem s)
  | _ => s

/-- The enrolment count raised by 1 (R141). -/
def countEnrolled (ix : SegIx) (s : State) : State :=
  s.setSeg ix { s.seg ix with enrolCount := (s.seg ix).enrolCount + 1 }

/-- A record created by enrolment, counted, and the step ended (R141). -/
def enrolRecord (ix : SegIx) (a : Nat) (serial : Serial) (c : PanelClass) (s : State) : State :=
  endExchange ix (countEnrolled ix (createRecord ix a serial c none s))

/-- A LOST holder displaced: deleted, a DROP pending for its address on its own segment (R141). -/
def displace (p : Place) (s : State) : State := markDrop p.seg p.address (deleteRecord p.seg p.address s)

/-- A good GIVE-ACK: the four cases of R141. -/
def giveAccepted (ix : SegIx) (a : Nat) (serial : Serial) (c : PanelClass) (s : State) : State :=
  match (s.slotOf serial).bind s.holder with
  | none => enrolRecord ix a serial c s
  | some p =>
    if p.rec_.state = .lost then enrolRecord ix a serial c (raise .panel (displace p s))
    else follow ix (.giveDrop a) (raise .panel s)

/-- The end of a GIVE exchange (R140). -/
def endGive (ix : SegIx) (heard : Heard) (s : State) : State :=
  match (s.seg ix).bus with
  | some (.give serial a) =>
    match readGive s.lateBytes heard with
    | .valid k =>
      match PanelClass.ofCode k with
      | some c => giveAccepted ix a serial c s
      | none => follow ix (.giveDrop a) (raise .panel s)
    | .silent => follow ix (.giveDrop a) s
    | .garbled => follow ix (.giveDrop a) s
  | _ => s

/-! ## Meanings -/

/-- ROLL_CALL_IDENT. -/
def execRollCallIdent (ix : SegIx) (heard : Heard) (s : State) : Out := whenUp (endRollIdent ix heard) s

/-- DRAIN_COMPLETE. -/
def execDrainComplete (ix : SegIx) (s : State) : Out := whenUp (judgeDrain ix) s

/-- KEY_EXCHANGE. -/
def execKeyExchange (ix : SegIx) (s : State) : Out := whenUp (endKey ix) s

/-- ASK_EXCHANGE. -/
def execAskExchange (ix : SegIx) (heard : Heard) (s : State) : Out := whenUp (endAsk ix heard) s

/-- GIVE_EXCHANGE. -/
def execGiveExchange (ix : SegIx) (heard : Heard) (s : State) : Out := whenUp (endGive ix heard) s

end Sys2Proof.Machine
end

