-- ==== Sys2Proof/Machine/Replies.lean ====
section
/-! DEFINITION. What an owner answers: a refusal code that changes nothing, or a new state with the items of its OK reply
(R177–R179), and the encodings of shared reply items (R205). -/

namespace Sys2Proof.Machine

/-- An owner's answer to a request. -/
abbrev Taken := Except Result (State × List Byte)

/-- A request taken, with the items of its reply. -/
def taken (s : State) (items : List Byte) : Taken := .ok (s, items)

/-- A request refused. -/
def refuse (r : Result) : Taken := .error r

/-- FREE VALUE (log 7): the `w` bytes of an absent value, item `item` of the reply to the request being served. -/
def absentBytes (s : State) (item w : Nat) : List Byte :=
  (List.range w).map (fun i => Config.absentByte s.li.served (16 * item + i))

/-- A value that may be absent or unknown: a presence byte, then the value's bytes, sent whatever the presence (R205). -/
def optItem (s : State) (item w : Nat) : Option (List Byte) → List Byte
  | some bs => 1 :: bs
  | none => 0 :: absentBytes s item w

/-- The clock's time in four bytes (R205). -/
def clockBytes (c : Clock) : List Byte := [byte c.day] ++ two c.minute ++ [byte c.second]

end Sys2Proof.Machine
end

