-- ==== Sys2Proof/Machine/LayoutRequests.lean ====
section
/-! DEFINITION. LU's requests and the wall scan (R1–R19). -/

namespace Sys2Proof.Machine

/-! ## Sections -/

/-- DEFINE-SECTION (R2). -/
def defineSection (index : Byte) (name : TextRef) (code : ShortCode) (s : State) : Taken :=
  if Config.sections ≤ index.toNat ∨ name.bad then refuse .range
  else
    let closed := (Table.get s.lu.sections index.toNat).any (·.closed)
    taken (rederive { s with lu := { s.lu with sections := Table.put s.lu.sections index.toNat { name, code, closed } } }) []

/-- A section is referenced by a wall, a combination, a session, a door plate or the start of a directory window (R3). -/
def sectionInUse (s : State) (i : Nat) : Bool :=
  s.lu.walls.any (fun w => w.2.a = i || w.2.b = i)
    || s.lu.combos.any (fun c => c.2.set.contains i)
    || s.sessions.any (fun e => e.2.sections.contains i)
    || s.ps.panels.any (fun p => match p.2.role with
        | .door sec => sec = i
        | .directory first _ _ => first = i)

/-- REMOVE-SECTION (R3). -/
def removeSection (index : Byte) (s : State) : Taken :=
  if Config.sections ≤ index.toNat then refuse .range
  else if (Table.get s.lu.sections index.toNat).isNone then refuse .notFound
  else if sectionInUse s index.toNat then refuse .inUse
  else taken (rederive { s with lu := { s.lu with sections := Table.del s.lu.sections index.toNat } }) []

/-- A section's closed flag set or cleared; an unchanged flag changes nothing (R4). -/
def setClosed (index : Byte) (closed : Bool) (s : State) : Taken :=
  if Config.sections ≤ index.toNat then refuse .range
  else
    match Table.get s.lu.sections index.toNat with
    | none => refuse .notFound
    | some sec =>
      if sec.closed = closed then taken s []
      else taken (rederive { s with lu := { s.lu with sections := Table.put s.lu.sections index.toNat { sec with closed } } }) []

/-- CLOSE-SECTION (R4). -/
def closeSection (index : Byte) (s : State) : Taken := setClosed index true s

/-- OPEN-SECTION (R4). -/
def openSection (index : Byte) (s : State) : Taken := setClosed index false s

/-! ## Walls -/

/-- A wall joins a pair of sections, in either order. -/
def Wall.joins (w : Wall) (x y : Nat) : Bool := (w.a = x && w.b = y) || (w.a = y && w.b = x)

/-- DEFINE-WALL (R6): the lower section first, forced position and filter state kept on a redefinition. -/
def defineWall (wall first second : Byte) (s : State) : Taken :=
  if Config.walls ≤ wall.toNat ∨ Config.sections ≤ first.toNat ∨ Config.sections ≤ second.toNat ∨ first = second then refuse .range
  else if (Table.get s.lu.sections first.toNat).isNone ∨ (Table.get s.lu.sections second.toNat).isNone then refuse .notFound
  else if s.lu.walls.any (fun e => e.1 ≠ wall.toNat && e.2.joins first.toNat second.toNat) then refuse .clash
  else
    let a := min first.toNat second.toNat
    let b := max first.toNat second.toNat
    let w := match Table.get s.lu.walls wall.toNat with
      | some w => { w with a, b }
      | none => Wall.fresh a b
    taken (rederive { s with lu := { s.lu with walls := Table.put s.lu.walls wall.toNat w } }) []

/-- REMOVE-WALL (R7). -/
def removeWall (wall : Byte) (s : State) : Taken :=
  if Config.walls ≤ wall.toNat then refuse .range
  else if (Table.get s.lu.walls wall.toNat).isNone then refuse .notFound
  else taken (rederive { s with lu := { s.lu with walls := Table.del s.lu.walls wall.toNat } }) []

/-- A wall replaced, and the spaces re-derived when its effective position changes (R12, R17). -/
def putWall (i : Nat) (before after : Wall) (s : State) : State :=
  let s := { s with lu := { s.lu with walls := Table.put s.lu.walls i after } }
  if before.effective = after.effective then s else rederive s

/-- FORCE-WALL (R11). -/
def forceWall (wall position : Byte) (s : State) : Taken :=
  match Forced.ofCode position with
  | none => refuse .range
  | some p =>
    if Config.walls ≤ wall.toNat then refuse .range
    else
      match Table.get s.lu.walls wall.toNat with
      | none => refuse .notFound
      | some w =>
        let w' := { w with forced := p }
        taken (putWall wall.toNat w w' s) [w'.effective.code]

/-- One wall's sample: R9, then the judgement of R10, WALL raised on a change of filtered state. -/
def sampleWall (contacts : BitVec 96) (i : Nat) (s : State) : State :=
  match Table.get s.lu.walls i with
  | none => s
  | some w =>
    let sampled := w.sample (readingOf (contacts.getLsbD (2 * i)) (contacts.getLsbD (2 * i + 1)))
    let f := sampled.judged s.ps.options.settle s.ps.options.travel
    putWall i w { sampled with filtered := f } (raiseIf (f ≠ w.filtered) .wall s)

/-- A scan: one sample for every defined wall, in chain order (R8). The scan is stopped while the plan is LOADING. -/
def scanWalls (contacts : BitVec 96) (s : State) : State :=
  if s.ps.plan = .loading then s
  else (Table.keys s.lu.walls).foldl (fun s i => sampleWall contacts i s) s

/-- WALL_SCAN. -/
def execWallScan (contacts : BitVec 96) (s : State) : Out := whenUp (scanWalls contacts) s

/-! ## Combinations -/

/-- DEFINE-COMBINATION (R13). -/
def defineCombination (index : Byte) (name : TextRef) (sections : List Byte) (s : State) : Taken :=
  let list := sections.map (·.toNat)
  let set := sortNat list
  if Config.combos ≤ index.toNat ∨ name.bad ∨ list.length < 2 ∨ 12 < list.length ∨ list.any (fun i => Config.sections ≤ i)
      ∨ hasRepeat list then refuse .range
  else if list.any (fun i => (Table.get s.lu.sections i).isNone) then refuse .notFound
  else if s.lu.combos.any (fun e => e.1 ≠ index.toNat && e.2.set = set) then refuse .clash
  else taken (rederive { s with lu := { s.lu with combos := Table.put s.lu.combos index.toNat { set, name } } }) []

/-- REMOVE-COMBINATION (R14). -/
def removeCombination (index : Byte) (s : State) : Taken :=
  if Config.combos ≤ index.toNat then refuse .range
  else if (Table.get s.lu.combos index.toNat).isNone then refuse .notFound
  else taken (rederive { s with lu := { s.lu with combos := Table.del s.lu.combos index.toNat } }) []

/-! ## Reading the layout -/

/-- One wall in READ-WALLS (R18). -/
def wallItem (e : Nat × Wall) : List Byte :=
  [byte e.1, byte e.2.a, byte e.2.b, e.2.last.code, e.2.filtered.code, e.2.forced.code, e.2.effective.code]

/-- READ-WALLS (R18). -/
def readWalls (s : State) : Taken := taken s (byte s.lu.walls.length :: s.lu.walls.flatMap wallItem)

/-- One section in a READ-SPACES entry: index, short code, closed flag (R19). -/
def spaceSectionItem (lu : Layout) (i : Nat) : List Byte :=
  match Table.get lu.sections i with
  | some sec => byte i :: (codeBytes sec.code ++ [markCode sec.closed])
  | none => byte i :: (codeBytes 0 ++ [0])

/-- One space in READ-SPACES (R19). -/
def spaceItem (lu : Layout) (p : Space) : List Byte :=
  [byte p.anchor, markCode p.closed, byte p.more, p.source.code] ++ p.name.bytes
    ++ (byte p.sections.length :: p.sections.flatMap (spaceSectionItem lu))

/-- The whole entries that fit in a room, from the first on (R19). -/
def wholeEntries : Nat → List (List Byte) → List (List Byte)
  | _, [] => []
  | room, e :: l => if e.length ≤ room then e :: wholeEntries (room - e.length) l else []

/-- READ-SPACES (R19): the reply body is a result code, the two counts, and as many whole entries as fit in 1,024 bytes. R205
gives the number of spaces no width; it is sent in one byte (DEDUCED, log 8). -/
def readSpaces (first : Byte) (s : State) : Taken :=
  if Config.sections ≤ first.toNat then refuse .range
  else
    let entries := wholeEntries (Config.bodyBytes - 3)
      ((s.lu.spaces.filter (fun p => first.toNat ≤ p.anchor)).map (spaceItem s.lu))
    taken s ([byte s.lu.spaces.length, byte entries.length] ++ entries.flatten)

end Sys2Proof.Machine
end

