-- ==== Sys2Proof/Machine/ClockRequests.lean ====
section
/-! DEFINITION. EC: ticks, turnovers, clock changes and the clock requests; NU's expiry and hold timer (R20–R30, R96,
R101–R104). -/

namespace Sys2Proof.Machine

/-! ## Receivers of clock events -/

/-- A notice is due at a day and minute (R92, R96). -/
def Notice.due (day minute : Nat) (n : Notice) : Bool :=
  match n.expiry with
  | some (d, m) => d < day || (d = day && m ≤ minute)
  | none => false

/-- NU removes the notices that are due, delivers a notice change for each zone emptied, and raises EXPIRE once (R96). -/
def expireNotices (day minute : Nat) (s : State) : State :=
  let gone := s.nu.notices.filter (fun e => e.2.due day minute)
  let kept := s.nu.notices.filter (fun e => !e.2.due day minute)
  if gone.isEmpty then s
  else forEach (Table.keys gone) recomputeZone (raise .expire { s with nu := { s.nu with notices := kept } })

/-- ST takes a clock change: purge first when the mark is set, then every record (R38, R52). FR recomputes once, after both,
for the session changes of the purge and of the re-evaluation (R72 leaves that open; DESIGN CHOICE, log 31). -/
def sessionsClockChange (purgeMark : Bool) (s : State) : State :=
  if purgeMark then reevaluateAll (s.holdsEarlier s.clock.day) (s.withoutEarlier s.clock.day) else reevaluateSessions s

/-- A clock change delivered to ST, NU and FR (R27). -/
def clockChange (purgeMark : Bool) (s : State) : State :=
  deliver [sessionsClockChange purgeMark, expireNotices s.clock.day s.clock.minute, recomputeAll] s

/-- A natural minute turnover delivered to ST, NU, FR, SC0, SC1, SC2 and SC3, each on its own; with a day turnover ST also
purges and EC raises CLOCK (R23, R24). The order is read from `orders`, each receiver's part whole (DESIGN CHOICE, log 1). -/
def turnover (day minute : Nat) (dayToo : Bool) (s : State) : State :=
  let receivers := [sessionsMinute, expireNotices day minute, resolverMinute minute] ++ allSegs.map (quietMinute minute)
  deliver (if dayToo then receivers ++ [purge day] else receivers) (raiseIf dayToo .clock s)

/-! ## Counting -/

/-- The clock with a new time. -/
def State.setTime (s : State) (day minute second : Nat) : State :=
  { s with clock := { s.clock with day, minute, second } }

/-- The last time the clock can show (R20, R25). -/
def Clock.atEnd (c : Clock) : Bool := c.day = 15 && c.minute = 1439 && c.second = 59

/-- The clock expires: the time is held and CLOCK is raised (R25). -/
def expireClock (s : State) : State := raise .clock { s with clock := { s.clock with mode := .expired } }

/-- The clock passes from second 59 to 0 (R22). -/
def passMinute (s : State) : State :=
  if s.clock.minute = 1439 then turnover (s.clock.day + 1) 0 true (s.setTime (s.clock.day + 1) 0 0)
  else turnover s.clock.day (s.clock.minute + 1) false (s.setTime s.clock.day (s.clock.minute + 1) 0)

/-- A second tick reaches the clock (R22, R25). -/
def tickClock (s : State) : State :=
  if s.clock.mode = .running then
    if s.clock.atEnd then expireClock s
    else if s.clock.second = 59 then passMinute s
    else s.setTime s.clock.day s.clock.minute (s.clock.second + 1)
  else s

/-- The hold runs out: RELEASED, timer 0, HOLD raised, the segments free to admit (R104, R105). -/
def holdRunsOut (s : State) : State := raise .hold { s with nu := { s.nu with held := false, timer := 0 } }

/-- A second tick reaches NU (R101). -/
def tickHold (s : State) : State :=
  if s.nu.held then
    if s.nu.timer ≤ 1 then holdRunsOut s
    else { s with nu := { s.nu with timer := s.nu.timer - 1 } }
  else s

/-- SECOND_TICK: the tick goes to EC and to NU (R21). -/
def execSecondTick (s : State) : Out := whenUp (fun s => tickHold (tickClock s)) s

/-- HOLD_TIMEOUT: NU's part of the tick that brings the timer from 1 to 0 (R104, log 11). -/
def execHoldTimeout (s : State) : Out := whenUp (fun s => if s.nu.held ∧ s.nu.timer ≤ 1 then holdRunsOut s else s) s

/-- CLOCK_EXPIRE: EC's part of a tick at 15.23:59:59 (R25, log 11). -/
def execClockExpire (s : State) : Out :=
  whenUp (fun s => if s.clock.mode = .running ∧ s.clock.atEnd then expireClock s else s) s

/-- MINUTE_TURNOVER: EC's part of a tick at second 59 short of the last time (R22, R23, log 11). -/
def execMinuteTurnover (s : State) : Out :=
  whenUp (fun s => if s.clock.mode = .running ∧ ¬ s.clock.atEnd ∧ s.clock.second = 59 then passMinute s else s) s

/-! ## Requests -/

/-- Seconds from 0.00:00:00. -/
def Clock.seconds (c : Clock) : Nat := (c.day * 1440 + c.minute) * 60 + c.second

/-- SET-CLOCK (R26). -/
def setClock (day : Byte) (minute : Half) (second : Byte) (s : State) : Taken :=
  if 15 < day.toNat ∨ 1439 < minute.toNat ∨ 59 < second.toNat then refuse .range
  else
    let mark := s.clock.mode = .unset || s.clock.day < day.toNat
    taken (clockChange mark
      { s with clock := { mode := .running, day := day.toNat, minute := minute.toNat, second := second.toNat } }) []

/-- The clock moved back by seconds, stopping at 0.00:00:00; a clock change when the minute is an earlier one (R28). -/
def moveBack (k : Nat) (s : State) : State :=
  let n := s.clock.seconds - k
  let s' := s.setTime (n / 86400) (n / 60 % 1440) (n % 60)
  if n / 60 = s.clock.seconds / 60 then s' else clockChange false s'

/-- ADJUST-CLOCK (R28): forward as counting would, backward by `moveBack`; the reply carries the seconds applied. -/
def adjustClock (seconds : Byte) (s : State) : Taken :=
  let k := seconds.toInt
  if k < -30 ∨ 30 < k then refuse .range
  else if s.clock.mode ≠ .running then refuse .notReady
  else
    let s' := if 0 ≤ k then times tickClock k.toNat s else moveBack (-k).toNat s
    taken s' ([signedByte ((s'.clock.seconds : Int) - s.clock.seconds), s'.clock.mode.code] ++ clockBytes s'.clock)

/-- READ-CLOCK (R29). -/
def readClock (s : State) : Taken := taken s (s.clock.mode.code :: clockBytes s.clock)

end Sys2Proof.Machine
end

