-- ==== Sys2Proof/Machine/SessionRequests.lean ====
section
/-! DEFINITION. ST's requests (R31–R52). -/

namespace Sys2Proof.Machine

/-- The record STORE-SESSION builds (R32, R41): sections ascending, no extension, no early end, layout-warned clear. -/
def recordOf (p : StoreSpec) : Session :=
  { day := p.day.toNat, start := p.start.toNat, stop := p.stop.toNat, sections := sortNat (p.sections.map (·.toNat))
    title := p.title, speaker := if p.flags.getLsbD 2 then some p.speaker else none
    lead := if p.lead = 0xFF then none else some p.lead.toNat, track := p.track.toNat
    withheld := p.flags.getLsbD 0, cancelled := p.flags.getLsbD 1, extension := 0, earlyEnd := none, warned := false
    phase := .future, home := 0, placed := false }

/-- The RANGE checks of R40. -/
def storeOutOfRange (p : StoreSpec) : Bool :=
  p.number.toNat = 0 || 15 < p.day.toNat || 1439 < p.start.toNat || p.stop.toNat ≤ p.start.toNat || 1440 < p.stop.toNat
    || p.sections.length < 1 || 12 < p.sections.length || p.sections.any (fun i => Config.sections ≤ i.toNat)
    || hasRepeat (p.sections.map (·.toNat)) || p.title.bad || (p.flags.getLsbD 2 && p.speaker.bad)
    || (p.lead ≠ 0xFF && 60 < p.lead.toNat) || 15 < p.track.toNat

/-- STORE-SESSION (R40, R41). -/
def storeSession (p : StoreSpec) (s : State) : Taken :=
  let r := recordOf p
  let n := p.number.toNat
  if storeOutOfRange p then refuse .range
  else if r.sections.any (fun i => (Table.get s.lu.sections i).isNone) then refuse .notFound
  else if !r.cancelled && clashes s.sessions n r.day r.sections r.start r.stop then refuse .clash
  else if (Table.get s.sessions n).isNone ∧ Config.sessions ≤ s.sessions.length then refuse .full
  else taken (reevaluateOne true n r s) []

/-- The record a session request names: RANGE for 0, NOT-FOUND when absent. -/
def withSession (number : Half) (s : State) (f : Session → Taken) : Taken :=
  if number.toNat = 0 then refuse .range
  else
    match Table.get s.sessions number.toNat with
    | none => refuse .notFound
    | some r => f r

/-- DROP-SESSION (R42). -/
def dropSession (number : Half) (s : State) : Taken :=
  withSession number s (fun _ => taken (recomputeAll { s with sessions := Table.del s.sessions number.toNat }) [])

/-- CANCEL-SESSION (R43). -/
def cancelSession (number : Half) (s : State) : Taken :=
  withSession number s (fun r =>
    if r.cancelled then taken s [] else taken (reevaluateOne true number.toNat { r with cancelled := true } s) [])

/-- RESTORE-SESSION (R44). -/
def restoreSession (number : Half) (s : State) : Taken :=
  withSession number s (fun r =>
    if !r.cancelled then taken s []
    else if clashes s.sessions number.toNat r.day r.sections r.start r.effectiveEnd then refuse .clash
    else taken (reevaluateOne true number.toNat { r with cancelled := false } s) [])

/-- EXTEND-SESSION (R45, R46). -/
def extendSession (number : Half) (minutes : Byte) (s : State) : Taken :=
  let k := minutes.toNat
  if k = 0 ∨ 180 < k then refuse .range
  else withSession number s (fun r =>
    if s.clock.mode ≠ .running then refuse .notReady
    else if r.phase = .done ∨ r.phase = .cancelled ∨ r.earlyEnd.isSome then refuse .wrongState
    else
      let g := grant s.sessions number.toNat r k
      let r' := { r with extension := r.extension + g }
      taken (if g = 0 then s else reevaluateOne true number.toNat r' s) (byte g :: two r'.effectiveEnd))

/-- END-SESSION (R47). An early end set to the value it had leaves the record as it was, and is no session change (R37). The
reply carries the early end in two bytes, with no presence byte (DEDUCED, log 8). -/
def endSession (number : Half) (s : State) : Taken :=
  withSession number s (fun r =>
    if s.clock.mode ≠ .running then refuse .notReady
    else if r.phase ≠ .live ∧ r.phase ≠ .overrun then refuse .wrongState
    else
      let e := if r.start < s.clock.minute then s.clock.minute else r.start + 1
      taken (reevaluateOne (r.earlyEnd ≠ some e) number.toNat { r with earlyEnd := some e } s) (two e))

/-- The stored fields of a record in the order of R32; the extension in one byte (DEDUCED, log 8). -/
def sessionItems (s : State) (number : Nat) (r : Session) : List Byte :=
  two number ++ [byte r.day] ++ two r.start ++ two r.stop ++ (byte r.sections.length :: r.sections.map byte)
    ++ r.title.bytes ++ optItem s 0 3 (r.speaker.map (·.bytes))
    ++ [match r.lead with
        | some n => byte n
        | none => 0xFF]
    ++ [byte r.track, markCode r.withheld, markCode r.cancelled, byte r.extension] ++ optItem s 1 2 (r.earlyEnd.map two)
    ++ [markCode r.warned]

/-- READ-SESSION (R48). The visible mark is sent for every session, 0 for one not cancelled (DEDUCED, log 8). -/
def readSession (number : Half) (s : State) : Taken :=
  withSession number s (fun r =>
    let lead := s.ps.options.doorLead
    taken s (sessionItems s number.toNat r
      ++ [byte (r.leadInForce lead)] ++ two (r.opening lead) ++ two r.effectiveEnd
      ++ [r.phase.code, markCode (visibleAt s.clock lead r), byte r.home, placementCode r.placed, markCode r.warned]))

/-- LIST-SESSIONS (R49). -/
def listSessions (position : Half) (count : Byte) (s : State) : Taken :=
  if 511 < position.toNat ∨ count.toNat = 0 ∨ 16 < count.toNat then refuse .range
  else
    let found := ((sortBy listedBefore s.sessions).drop position.toNat).take count.toNat
    taken s (two s.sessions.length ++ (byte found.length :: found.flatMap (fun e => two e.1)))

end Sys2Proof.Machine
end

