-- ==== Sys2Proof/Machine/TextRequests.lean ====
section
/-! DEFINITION. TP's requests (R55–R64). -/

namespace Sys2Proof.Machine

/-- The bytes of a write that fall inside the page (R60). -/
def writeCount (offset count : Nat) : Nat := min count (Config.pageBytes - offset)

/-- One page write delivered to FR after the bytes are in place (R64). -/
def pageWrite (text : TextMem) (s : State) : State := recomputeAll { s with text }

/-- PUT-TEXT, once the common checks have passed (R59, R60). -/
def putText (page offset : Byte) (data : List Byte) (s : State) : Taken :=
  if Config.pages ≤ page.toNat then refuse .range
  else
    let n := writeCount offset.toNat data.length
    taken (pageWrite (s.text.writeAll (textAddress page.toNat offset.toNat) (data.take n)) s) [byte n]

/-- CLEAR-PAGE, once the common checks have passed (R62). -/
def clearPage (page : Byte) (s : State) : Taken :=
  if Config.pages ≤ page.toNat then refuse .range else taken (pageWrite (s.text.clearPage page.toNat) s) []

/-- READ-TEXT (R63). -/
def readText (page offset count : Byte) (s : State) : Taken :=
  if Config.pages ≤ page.toNat ∨ 240 < count.toNat then refuse .range
  else
    let n := writeCount offset.toNat count.toNat
    taken s (byte n :: s.text.readMany (textAddress page.toNat offset.toNat) n)

end Sys2Proof.Machine
end

