-- ==== Sys2Proof/Machine/NoticeRequests.lean ====
section
/-! DEFINITION. NU's requests and READ-FACE (R89, R92–R103). -/

namespace Sys2Proof.Machine

/-! ## Notices -/

/-- POST-NOTICE carries an expiry. -/
def expiryOf (p : NoticeSpec) : Option (Nat × Nat) :=
  if p.expiryPresent = 1 then some (p.day.toNat, p.minute.toNat) else none

/-- The first RANGE check of R93, the level apart. -/
def noticeOutOfRange (p : NoticeSpec) : Bool :=
  15 < p.zone.toNat || p.text.bad || 1 < p.expiryPresent.toNat
    || (expiryOf p).any (fun e => 15 < e.1 || 1439 < e.2)

/-- A zone's entry replaced or emptied, and the notice change delivered (R94, R95). -/
def changeNotices (zone : Nat) (notices : Table Notice) (s : State) : State :=
  recomputeZone zone { s with nu := { s.nu with notices } }

/-- POST-NOTICE (R93, R94). -/
def postNotice (p : NoticeSpec) (s : State) : Taken :=
  match Level.ofCode p.level with
  | none => refuse .range
  | some level =>
    let n : Notice := { level, text := p.text, expiry := expiryOf p }
    if noticeOutOfRange p then refuse .range
    else if level = .evacuate ∧ n.expiry.isSome then refuse .range
    else if n.expiry.isSome ∧ s.clock.mode = .unset then refuse .notReady
    else if n.due s.clock.day s.clock.minute then refuse .range
    else
      let z := p.zone.toNat
      taken (changeNotices z (Table.put s.nu.notices z n) s) [Level.optCode ((Table.get s.nu.notices z).map (·.level))]

/-- WITHDRAW-NOTICE (R95). -/
def withdrawNotice (zone : Byte) (s : State) : Taken :=
  if 15 < zone.toNat then refuse .range
  else
    match Table.get s.nu.notices zone.toNat with
    | none => refuse .notFound
    | some n => taken (changeNotices zone.toNat (Table.del s.nu.notices zone.toNat) s) [n.level.code]

/-! ## Pins -/

/-- The role face FR holds for a bound slot, with its banner (R98). FR holds one for every bound slot (R70); where a state
no run reaches has none, it is resolved now (log 21). -/
def heldRole (s : State) (slot : Nat) (p : PanelSlot) (cls : PanelClass) : List Byte :=
  match Table.get s.fr.faces slot with
  | some f => f.role
  | none => (roleFaceOf s p cls (s.pageIndex slot)).face.encode

/-- A slot's pin set or removed, and the pin change delivered (R98, R99). -/
def changePins (slot : Nat) (pins : Table Pin) (s : State) : State :=
  recomputeSlot slot { s with nu := { s.nu with pins } }

/-- PIN-PANEL (R98). -/
def pinPanel (slot : Half) (s : State) : Taken :=
  let n := slot.toNat
  if Config.slots ≤ n then refuse .range
  else
    match Table.get s.ps.panels n with
    | none => refuse .notFound
    | some p =>
      match s.holder n with
      | none => refuse .wrongState
      | some h =>
        if (Table.get s.nu.pins n).isNone ∧ Config.pins ≤ s.nu.pins.length then refuse .full
        else
          let copy := heldRole s n p h.rec_.cls
          let digest := fletcher16 copy
          taken (changePins n (Table.put s.nu.pins n { copy, digest }) s) (halfBytes digest)

/-- UNPIN-PANEL (R99). -/
def unpinPanel (slot : Half) (s : State) : Taken :=
  if Config.slots ≤ slot.toNat then refuse .range
  else if (Table.get s.nu.pins slot.toNat).isNone then refuse .notFound
  else taken (changePins slot.toNat (Table.del s.nu.pins slot.toNat) s) []

/-! ## Publish hold -/

/-- HOLD-PUBLISH (R102). The segments read the hold at each admission attempt (R105). -/
def holdPublish (s : State) : Taken :=
  let t := s.ps.options.holdTimeout
  taken { s with nu := { s.nu with held := true, timer := t } } (markCode s.nu.held :: two t)

/-- RELEASE-PUBLISH (R103). -/
def releasePublish (s : State) : Taken :=
  taken { s with nu := { s.nu with held := false, timer := 0 } } (markCode s.nu.held :: two s.nu.timer)

/-! ## Reading a face -/

/-- The bytes a READ-FACE reply returns: up to 960 from a position on (R89). -/
def faceBytesFrom (encoding : List Byte) (position : Nat) : List Byte := (encoding.drop position).take 960

/-- READ-FACE (R89). -/
def readFace (slot position : Half) (s : State) : Taken :=
  let n := slot.toNat
  if Config.slots ≤ n ∨ 2047 < position.toNat then refuse .range
  else
    match Table.get s.ps.panels n, s.holder n, Table.get s.fr.faces n with
    | some _, some _, some f =>
      let part := faceBytesFrom f.wanted position.toNat
      taken s ([f.source.code] ++ halfBytes f.digest ++ two f.wanted.length
        ++ (match f.pages with
            | some count => [byte (s.pageIndex n), byte count]
            | none => [])
        ++ two part.length ++ part)
    | _, _, _ => refuse .notFound

end Sys2Proof.Machine
end

