-- ==== Sys2Proof/Machine/PanelRequests.lean ====
section
/-! DEFINITION. DEFINE-PANEL and REMOVE-PANEL (R110–R113). -/

namespace Sys2Proof.Machine

/-- The role a DEFINE-PANEL names, when its code and fields pass the RANGE check of R111. -/
def roleOf (p : PanelSpec) : Option Role :=
  match p.role.toNat with
  | 1 => if p.first.toNat < Config.sections then some (.door p.first.toNat) else none
  | 2 =>
    if p.first.toNat < Config.sections ∧ 1 ≤ p.count.toNat ∧ p.first.toNat + p.count.toNat ≤ 96 ∧ ¬ p.heading.bad then
      some (.directory p.first.toNat p.count.toNat p.heading)
    else none
  | _ => none

/-- The section a role stands on. -/
def roleBase : Role → Nat
  | .door sec => sec
  | .directory first _ _ => first

/-- FR's page index for a slot after a plan edit: 0 for a DIRECTORY slot, none for a DOOR slot (R70, R71). -/
def setPages (slot : Nat) (role : Role) (s : State) : State :=
  match role with
  | .directory _ _ _ => { s with fr := { s.fr with pages := Table.put s.fr.pages slot 0 } }
  | .door _ => { s with fr := { s.fr with pages := Table.del s.fr.pages slot } }

/-- The bindings worked after a slot is defined (R112): a holder under the serial kept stays bound and its face is
recomputed; a holder under another serial becomes a stray, and the binding of R115 is worked for the new serial. -/
def workBinding (slot : Nat) (before : Option Serial) (serial : Serial) (s : State) : State :=
  match s.holder slot with
  | some h =>
    if before = some serial then recomputeSlot slot s else bindSlot slot serial (makeStray h.seg h.address s)
  | none => bindSlot slot serial s

/-- DEFINE-PANEL (R111, R112). -/
def definePanel (p : PanelSpec) (s : State) : Taken :=
  let n := p.slot.toNat
  match roleOf p with
  | none => refuse .range
  | some role =>
    if Config.slots ≤ n then refuse .range
    else if (Table.get s.lu.sections (roleBase role)).isNone then refuse .notFound
    else if s.ps.panels.any (fun e => e.1 ≠ n && e.2.serial = p.serial) then refuse .clash
    else
      let before := (Table.get s.ps.panels n).map (·.serial)
      let slot : PanelSlot := { serial := p.serial, role, zones := p.zones }
      taken (workBinding n before p.serial
        (setPages n role { s with ps := { s.ps with panels := Table.put s.ps.panels n slot } })) []

/-- The record bound to a slot, if any, becomes a stray (R113, R115). -/
def strayHolder (slot : Nat) (s : State) : State :=
  match s.holder slot with
  | some h => makeStray h.seg h.address s
  | none => s

/-- FR discards a slot's page index (R113). -/
def discardPages (slot : Nat) (s : State) : State := { s with fr := { s.fr with pages := Table.del s.fr.pages slot } }

/-- REMOVE-PANEL (R113). -/
def removePanel (slot : Half) (s : State) : Taken :=
  let n := slot.toNat
  if Config.slots ≤ n then refuse .range
  else if (Table.get s.ps.panels n).isNone then refuse .notFound
  else taken (discardPages n (strayHolder n { s with ps := { s.ps with panels := Table.del s.ps.panels n } })) []

end Sys2Proof.Machine
end

