-- ==== Sys2Proof/Machine/SegmentRequests.lean ====
section
/-! DEFINITION. The requests of the segment controllers (R123–R127, R133, R144). -/

namespace Sys2Proof.Machine

/-! ## Naming a segment and a record -/

/-- The segment a request names; RANGE above 3. -/
def withSegment (n : Byte) (f : SegIx → Taken) : Taken :=
  match SegIx.named n with
  | some ix => f ix
  | none => refuse .range

/-- The segment and address a request names; RANGE for a segment above 3 and an address of 0 or above 96. -/
def withAddress (n a : Byte) (f : SegIx → Nat → Taken) : Taken :=
  withSegment n (fun ix => if a.toNat = 0 ∨ Config.addresses < a.toNat then refuse .range else f ix a.toNat)

/-! ## Reading a panel -/

def RecState.code : RecState → Byte
  | .online => 0
  | .queued => 1
  | .loading => 2
  | .refreshing _ => 3
  | .lost => 4

/-- The fields of R114, in its order. -/
def recItems (s : State) (a : Nat) (r : Rec) : List Byte :=
  [byte a] ++ serialBytes r.serial ++ [r.cls.code] ++ optItem s 0 2 (r.binding.map two) ++ [r.state.code]
    ++ optItem s 1 2 (r.shown.map halfBytes) ++ optItem s 2 1 (r.lastTemplate.map (fun t => [t.code]))
    ++ [byte r.ghost, signedByte r.temp, markCode r.cold, byte r.miss, markCode r.forcedFull]

/-- The wanted digest of a slot as FR holds it (R123). -/
def wantedDigestOf (s : State) (slot : Nat) (r : Rec) : Half :=
  ((Table.get s.fr.faces slot).map (·.digest)).getD r.wantedDigest

/-- The plan slot with its wanted digest, when bound (R123). For a stray the slot is sent as absent, two free bytes after its
presence byte (R205, log 7), and the digest is not sent: R123 lists both only when bound (DEDUCED, log 8). -/
def boundItems (s : State) (r : Rec) : List Byte :=
  optItem s 3 2 (r.binding.map two)
    ++ (match r.binding with
        | some slot => halfBytes (wantedDigestOf s slot r)
        | none => [])

/-- The entry of a QUEUED record: class, sequence, pass count (R123). -/
def entryItems (e : Entry) : List Byte := [e.cls.code] ++ four e.sequence ++ [byte e.pass]

/-- The chunks of a transfer that have been sent at least once (R123). -/
def Transfer.chunksSent (t : Transfer) : Nat := t.next + (if 0 < t.sends then 1 else 0)

/-- What READ-PANEL adds for the record's state (R123). -/
def stateItems (s : State) (g : Seg) (a : Nat) : RecState → List Byte
  | .queued => ((entryOf a g.queue).map entryItems).getD []
  | .refreshing f => [f.kind.code] ++ two (f.deadline - s.time) ++ two (f.final - s.time)
  | .loading => (g.transfer.map (fun t => [byte t.chunksSent, byte t.total])).getD []
  | .online => []
  | .lost => []

/-- READ-PANEL (R123). -/
def readPanel (segment address : Byte) (s : State) : Taken :=
  withAddress segment address (fun ix a =>
    match s.rec? ix a with
    | none => refuse .notFound
    | some r => taken s (recItems s a r ++ boundItems s r ++ stateItems s (s.seg ix) a r.state))

/-! ## Reading a segment -/

/-- How many records of a segment satisfy a test. -/
def Seg.count (g : Seg) (p : Rec → Bool) : Nat := (g.recs.filter (fun e => p e.2)).length

/-- Records in LOST. -/
def Rec.isLost (r : Rec) : Bool := r.state = .lost

/-- Records in REFRESHING. -/
def Rec.isRefreshing (r : Rec) : Bool :=
  match r.state with
  | .refreshing _ => true
  | .online => false
  | .queued => false
  | .loading => false
  | .lost => false

/-- The length of the queue in one class. -/
def Seg.queueLength (g : Seg) (c : QueueClass) : Nat := (g.queue.filter (fun e => e.cls = c)).length

/-- The queue lengths, ALERT, NORMAL, MAINT. -/
def queueItems (g : Seg) : List Byte :=
  [byte (g.queueLength .alert), byte (g.queueLength .normal), byte (g.queueLength .maint)]

/-- The last enrolment: its result and count; 0 none since reset (R143, R205). That a count byte follows the result 0 is
the model's reading (DEDUCED, log 8): R205 does not list the last enrolment among absent values. The byte is free (log 7). -/
def lastEnrolItems (s : State) (g : Seg) : List Byte :=
  match g.lastEnrol with
  | some (result, count) => [result.code, byte count]
  | none => 0 :: absentBytes s 5 1

/-- A set of addresses: a one-byte count, then the addresses rising (DEDUCED, log 8). -/
def addressList (l : List Nat) : List Byte := byte l.length :: l.map byte

/-- READ-SEGMENT (R124); the address map and the pending DROPs are sent as lists of addresses (log 8). -/
def readSegment (segment : Byte) (s : State) : Taken :=
  withSegment segment (fun ix =>
    let g := s.seg ix
    taken s ([g.mode.code, byte (g.count (fun r => !r.isLost)), byte (g.count Rec.isLost),
        byte (g.count (fun r => r.binding.isNone)), byte (g.count (·.cold))]
      ++ queueItems g ++ optItem s 4 2 (g.transfer.map (fun t => [byte t.address, t.kind.code]))
      ++ two g.reserved ++ [byte (g.count Rec.isRefreshing)] ++ two (s.budget ix) ++ four g.sequence ++ [byte g.pointer]
      ++ addressList g.drops ++ lastEnrolItems s g ++ addressList (Table.keys g.recs)))

/-- A segment in STATUS (R185). -/
def segmentSummary (g : Seg) : List Byte :=
  [g.mode.code, byte (g.count (fun r => !r.isLost)), byte (g.count Rec.isLost)] ++ queueItems g ++ two g.reserved

/-! ## Enrolment -/

/-- ENROL (R133, R134). -/
def enrol (segment : Byte) (s : State) : Taken :=
  withSegment segment (fun ix =>
    if (s.seg ix).mode ≠ .run then refuse .busy
    else taken (judgeDrain ix (s.setSeg ix { s.seg ix with mode := .draining, enrolCount := 0 })) [])

/-- A stop set to wait for the end of the exchange or step in progress (R144). -/
def holdStop (ix : SegIx) (s : State) : State := s.setSeg ix { s.seg ix with stopWaiting := true }

/-- A stop takes effect by the segment's state (R144): at once in DRAINING and before KEY has gone out, else later. -/
def stopEnrolment (ix : SegIx) (s : State) : State :=
  match (s.seg ix).mode with
  | .draining => endEnrolment ix .stopped s
  | .keying => if (s.seg ix).bus.isNone then endEnrolment ix .stopped s else holdStop ix s
  | .searching => holdStop ix s
  | .starting => s
  | .run => s

/-- STOP-ENROL (R144). The reply's segment state, "as it stands", is the state the request found, before a stop that takes
effect at once (DEDUCED, log 36). -/
def stopEnrol (segment : Byte) (s : State) : Taken :=
  withSegment segment (fun ix =>
    let mode := (s.seg ix).mode
    if mode = .starting ∨ mode = .run then refuse .wrongState else taken (stopEnrolment ix s) [mode.code])

/-! ## Forgetting and refreshing -/

/-- FORGET-PANEL (R125). -/
def forgetPanel (segment address : Byte) (s : State) : Taken :=
  withAddress segment address (fun ix a =>
    if (s.seg ix).mode ≠ .run then refuse .busy
    else
      match s.rec? ix a with
      | none => refuse .notFound
      | some r =>
        if r.state = .loading ∨ r.isRefreshing then refuse .busy else taken (markDrop ix a (deleteRecord ix a s)) [])

/-- The state of a record after a request. -/
def recStateAfter (s : State) (ix : SegIx) (a : Nat) : List Byte :=
  match s.rec? ix a with
  | some r => [r.state.code]
  | none => []

/-- A record's forced-full mark set by REFRESH-PANEL, and its need evaluated with NORMAL at least (R127, R149). -/
def forceFull (ix : SegIx) (a : Nat) (r : Rec) (s : State) : State :=
  let s := s.putRec ix a { r with forcedFull := true }
  s.setSeg ix ((s.seg ix).evaluate a .normal)

/-- REFRESH-PANEL (R127). -/
def refreshPanel (segment address : Byte) (s : State) : Taken :=
  withAddress segment address (fun ix a =>
    match s.rec? ix a with
    | none => refuse .notFound
    | some r =>
      if r.state = .loading ∨ r.isRefreshing then refuse .busy
      else if r.isLost then refuse .wrongState
      else
        let s' := forceFull ix a r s
        taken s' (recStateAfter s' ix a))

end Sys2Proof.Machine
end

