-- ==== Sys2Proof/Machine/OptionRequests.lean ====
section
/-! DEFINITION. The option table (R201), SET-OPTION and READ-OPTION (R202, R203). -/

namespace Sys2Proof.Machine

/-- The value of one of options 0–14 as a number, OFF as −1. -/
def Options.value (o : Options) : Nat → Int
  | 0 => o.settle
  | 1 => o.travel
  | 2 => o.doorLead
  | 3 => o.nextWindow
  | 4 => o.horizon
  | 5 => o.carousel
  | 6 => match o.quiet with
    | some m => m
    | none => -1
  | 7 => o.budget0
  | 8 => o.budget1
  | 9 => o.budget2
  | 10 => o.budget3
  | 11 => o.refreshFloor
  | 12 => o.missLimit
  | 13 => o.holdTimeout
  | _ => o.passLimit

/-- The option table with one of options 0–14 replaced. -/
def Options.put (o : Options) (n : Nat) (v : Int) : Options :=
  match n with
  | 0 => { o with settle := v.toNat }
  | 1 => { o with travel := v.toNat }
  | 2 => { o with doorLead := v.toNat }
  | 3 => { o with nextWindow := v.toNat }
  | 4 => { o with horizon := v.toNat }
  | 5 => { o with carousel := v.toNat }
  | 6 => { o with quiet := if v = -1 then none else some v.toNat }
  | 7 => { o with budget0 := v.toNat }
  | 8 => { o with budget1 := v.toNat }
  | 9 => { o with budget2 := v.toNat }
  | 10 => { o with budget3 := v.toNat }
  | 11 => { o with refreshFloor := v }
  | 12 => { o with missLimit := v.toNat }
  | 13 => { o with holdTimeout := v.toNat }
  | _ => { o with passLimit := v.toNat }

/-- The low and high ends of the range of options 0–14 (R201). -/
def optionRange : Nat → Int × Int
  | 0 => (2, 32)
  | 1 => (8, 1200)
  | 2 => (0, 60)
  | 3 => (15, 480)
  | 4 => (15, 480)
  | 5 => (1, 15)
  | 6 => (0, 1439)
  | 7 => (100, 1000)
  | 8 => (100, 1000)
  | 9 => (100, 1000)
  | 10 => (100, 1000)
  | 11 => (-20, 10)
  | 12 => (2, 8)
  | 13 => (10, 600)
  | _ => (1, 15)

/-- A value clamped to a range. -/
def clampTo (range : Int × Int) (v : Int) : Int := if v < range.1 then range.1 else if range.2 < v then range.2 else v

/-- The value applied for a value sent (R202): clamped; −1 is OFF for the quiet minute. -/
def appliedValue (n : Nat) (v : Int) : Int := if n = 6 ∧ v = -1 then -1 else clampTo (optionRange n) v

/-- A value is in the range of its option, as an image must hold it (R194, R201). -/
def optionInRange (n : Nat) (v : Int) : Bool := appliedValue n v = v

/-- An option change delivered to the block that reads it (R201). The other options are read when they are next used. -/
def optionChanged (n : Nat) (s : State) : State :=
  match n with
  | 2 => reevaluateSessions s
  | 3 => recomputeAll s
  | 4 => recomputeAll s
  | 11 => judgeColdAll s
  | 15 => recomputeAll s
  | _ => s

/-- The option table replaced. -/
def State.setOptions (s : State) (o : Options) : State := { s with ps := { s.ps with options := o } }

/-- An option's value applied, and its change delivered when the value differs (R201, R202). -/
def applyOption (n : Nat) (o : Options) (s : State) : State :=
  if o = s.ps.options then s else optionChanged n (s.setOptions o)

/-- SET-OPTION (R202). -/
def setOption (number : Byte) (v : OptionValue) (s : State) : Taken :=
  let n := number.toNat
  let o := s.ps.options
  if 15 < n then refuse .range
  else if n = 15 then
    let r : TextRef := ⟨v.first, v.second, v.third⟩
    if r.bad then refuse .range else taken (applyOption n { o with privateText := r } s) (number :: r.bytes)
  else
    let a := appliedValue n (half v.first v.second).toInt
    taken (applyOption n (o.put n a) s) (number :: signedTwo a)

/-- READ-OPTION (R203). -/
def readOption (number : Byte) (s : State) : Taken :=
  let n := number.toNat
  let o := s.ps.options
  if 15 < n then refuse .range
  else if n = 15 then taken s (number :: (o.privateText.bytes ++ Options.default.privateText.bytes))
  else
    taken s (number :: (signedTwo (o.value n) ++ signedTwo (optionRange n).1 ++ signedTwo (optionRange n).2
      ++ signedTwo (Options.default.value n)))

end Sys2Proof.Machine
end

