-- ==== Sys2Proof/Machine/Image.lean ====
section
/-! DEFINITION. The plan image: its bytes (R192 and spec 12), its reading and its content check (R193, R194). -/

namespace Sys2Proof.Machine

/-- A section of an image: name and short code. -/
structure ImageSection where
  name : TextRef
  code : ShortCode
deriving DecidableEq, Repr

/-- What an image holds. -/
structure Image where
  sections : Table ImageSection
  walls : Table (Nat × Nat)
  combos : Table Combo
  panels : Table PanelSlot
  options : Options
  text : List Byte
deriving DecidableEq, Repr

/-! ## Writing -/

/-- A block: the 2-byte length of the rest, and the rest. -/
def block (bs : List Byte) : List Byte := two bs.length ++ bs

/-- A role with its fields: role 1, section or first 1, count 1, heading 3. The manual gives the
unused count and heading of a DOOR slot no value in the image; a save writes 0 there (DESIGN CHOICE, log 37). -/
def roleBytes : Role → List Byte
  | .door sec => [1, byte sec, 0, 0, 0, 0]
  | .directory first count heading => [2, byte first, byte count] ++ heading.bytes

/-- The 16 option values. -/
def optionBytes (o : Options) : List Byte := (List.range 15).flatMap (fun n => signedTwo (o.value n)) ++ o.privateText.bytes

/-- The bytes of text pages 0–15. -/
def planText (m : TextMem) : List Byte := m.readMany 0 (Config.planPages * Config.pageBytes)

/-- The image of the plan held (R192, R197). -/
def imageOf (s : State) : Image :=
  { sections := Table.mapVals (fun x => { name := x.name, code := x.code }) s.lu.sections
    walls := Table.mapVals (fun w => (w.a, w.b)) s.lu.walls
    combos := s.lu.combos, panels := s.ps.panels, options := s.ps.options, text := planText s.text }

/-- The body of an image: six blocks, the entries of each in rising number (R192 leaves their order open; DESIGN CHOICE,
log 35). -/
def imageBody (i : Image) : List Byte :=
  block (byte i.sections.length :: i.sections.flatMap (fun e => byte e.1 :: (e.2.name.bytes ++ codeBytes e.2.code)))
    ++ block (byte i.walls.length :: i.walls.flatMap (fun e => [byte e.1, byte e.2.1, byte e.2.2]))
    ++ block (byte i.combos.length :: i.combos.flatMap (fun e =>
        byte e.1 :: (e.2.name.bytes ++ (byte e.2.set.length :: e.2.set.map byte))))
    ++ block (two i.panels.length ++ i.panels.flatMap (fun e =>
        two e.1 ++ serialBytes e.2.serial ++ roleBytes e.2.role ++ halfBytes e.2.zones))
    ++ block (optionBytes i.options) ++ block i.text

/-- The marker of a good header. -/
def marker : List Byte := [0xC4, 0x4B, 0x4E, 0x50]

/-- The header over a body (spec 12, Image). -/
def imageHeader (revision : Nat) (body : List Byte) : List Byte :=
  marker ++ [1, 0] ++ two revision ++ four body.length ++ four (crc32 body).toNat

/-! ## Reading -/

/-- A number from two bytes. -/
def num2 (a b : Byte) : Nat := (half a b).toNat

/-- A number from four bytes. -/
def num4 (a b c d : Byte) : Nat := (code4 a b c d).toNat

/-- A block and what follows it. -/
def takeBlock : List Byte → Option (List Byte × List Byte)
  | a :: b :: rest => if num2 a b ≤ rest.length then some (rest.take (num2 a b), rest.drop (num2 a b)) else none
  | _ => none

/-- A number of entries, no byte left over. -/
def readEntries {α : Type} (one : List Byte → Option (α × List Byte)) : Nat → List Byte → Option (List α)
  | 0, [] => some []
  | 0, _ :: _ => none
  | n + 1, bs =>
    match one bs with
    | some (x, rest) => (readEntries one n rest).map (x :: ·)
    | none => none

/-- A block whose entries are counted in one byte. -/
def readCounted {α : Type} (one : List Byte → Option (α × List Byte)) : List Byte → Option (List α)
  | n :: rest => readEntries one n.toNat rest
  | [] => none

def sectionEntry : List Byte → Option ((Nat × ImageSection) × List Byte)
  | i :: p :: o :: l :: a :: b :: c :: d :: rest => some ((i.toNat, { name := ⟨p, o, l⟩, code := code4 a b c d }), rest)
  | _ => none

def wallEntry : List Byte → Option ((Nat × (Nat × Nat)) × List Byte)
  | i :: a :: b :: rest => some ((i.toNat, (a.toNat, b.toNat)), rest)
  | _ => none

def comboEntry : List Byte → Option ((Nat × Combo) × List Byte)
  | i :: p :: o :: l :: n :: rest =>
    if n.toNat ≤ rest.length then
      some ((i.toNat, { set := (rest.take n.toNat).map (·.toNat), name := ⟨p, o, l⟩ }), rest.drop n.toNat)
    else none
  | _ => none

/-- A panel-plan entry: none when its role code is neither DOOR nor DIRECTORY (R194). -/
def panelEntry : List Byte → Option ((Nat × PanelSlot) × List Byte)
  | s :: s' :: a :: b :: c :: d :: e :: f :: role :: first :: count :: p :: o :: l :: z :: z' :: rest =>
    let slot (r : Role) : Nat × PanelSlot := (num2 s s', { serial := serial6 a b c d e f, role := r, zones := half z z' })
    match role.toNat with
    | 1 => some (slot (.door first.toNat), rest)
    | 2 => some (slot (.directory first.toNat count.toNat ⟨p, o, l⟩), rest)
    | _ => none
  | _ => none

/-- A panel block: its count is 2 bytes. -/
def readPanels : List Byte → Option (List (Nat × PanelSlot))
  | a :: b :: rest => readEntries panelEntry (num2 a b) rest
  | _ => none

/-- Options 0–14 read from number `n` on, each in its range. -/
def readOptionValues : Nat → Nat → List Byte → Options → Option (Options × List Byte)
  | 0, _, bs, o => some (o, bs)
  | k + 1, n, a :: b :: rest, o =>
    let v := (half a b).toInt
    if optionInRange n v then readOptionValues k (n + 1) rest (o.put n v) else none
  | _ + 1, _, _, _ => none

/-- The option block. -/
def readOptions (bs : List Byte) : Option Options :=
  match readOptionValues 15 0 bs Options.default with
  | some (o, [p, off, l]) => if TextRef.bad ⟨p, off, l⟩ then none else some { o with privateText := ⟨p, off, l⟩ }
  | _ => none

/-- A list of numbered entries as a table, rising. -/
def toTable {α : Type} (l : List (Nat × α)) : Table α := l.foldl (fun t e => Table.put t e.1 e.2) []

/-! ## The content check (R194) -/

/-- Numbers in range, none twice. -/
def numbersGood (limit : Nat) (numbers : List Nat) : Bool := numbers.all (· < limit) && !hasRepeat numbers

def sectionsGood (l : List (Nat × ImageSection)) : Bool :=
  numbersGood Config.sections (l.map Prod.fst) && l.all (fun e => !e.2.name.bad)

/-- No pair of walls joins the same two sections. -/
def pairsDistinct : List (Nat × Nat) → Bool
  | [] => true
  | p :: l => l.all (fun q => q ≠ p && q ≠ (p.2, p.1)) && pairsDistinct l

def wallsGood (present : List Nat) (l : List (Nat × (Nat × Nat))) : Bool :=
  numbersGood Config.walls (l.map Prod.fst)
    && l.all (fun e => present.contains e.2.1 && present.contains e.2.2 && e.2.1 ≠ e.2.2)
    && pairsDistinct (l.map Prod.snd)

/-- No set stands twice. -/
def setsDistinct : List (List Nat) → Bool
  | [] => true
  | x :: l => !l.contains x && setsDistinct l

def combosGood (present : List Nat) (l : List (Nat × Combo)) : Bool :=
  numbersGood Config.combos (l.map Prod.fst)
    && l.all (fun e => 2 ≤ e.2.set.length && e.2.set.length ≤ 12 && !hasRepeat e.2.set && e.2.set.all present.contains
        && !e.2.name.bad)
    && setsDistinct (l.map (fun e => sortNat e.2.set))

/-- A role's section or window is good. -/
def roleGood (present : List Nat) : Role → Bool
  | .door sec => present.contains sec
  | .directory first count heading => present.contains first && 1 ≤ count && first + count ≤ 96 && !heading.bad

/-- No serial stands twice. -/
def serialsDistinct : List Serial → Bool
  | [] => true
  | x :: l => !l.contains x && serialsDistinct l

def panelsGood (present : List Nat) (l : List (Nat × PanelSlot)) : Bool :=
  numbersGood Config.slots (l.map Prod.fst) && l.all (fun e => roleGood present e.2.role)
    && serialsDistinct (l.map (fun e => e.2.serial))

/-- The six blocks of a body and nothing after them (log 20). -/
def sixBlocks (body : List Byte) : Option (List Byte × List Byte × List Byte × List Byte × List Byte × List Byte) :=
  match takeBlock body with
  | none => none
  | some (b1, r1) =>
    match takeBlock r1 with
    | none => none
    | some (b2, r2) =>
      match takeBlock r2 with
      | none => none
      | some (b3, r3) =>
        match takeBlock r3 with
        | none => none
        | some (b4, r4) =>
          match takeBlock r4 with
          | none => none
          | some (b5, r5) =>
            match takeBlock r5 with
            | some (b6, []) => some (b1, b2, b3, b4, b5, b6)
            | _ => none

/-- The contents of six blocks, when they pass the content check (R194). -/
def readBlocks (b1 b2 b3 b4 b5 b6 : List Byte) : Option Image :=
  match readCounted sectionEntry b1, readCounted wallEntry b2, readCounted comboEntry b3, readPanels b4, readOptions b5 with
  | some secs, some walls, some combos, some panels, some options =>
    let present := secs.map Prod.fst
    if sectionsGood secs && wallsGood present walls && combosGood present combos && panelsGood present panels
        && b6.length = Config.planPages * Config.pageBytes then
      some
        { sections := toTable secs
          walls := toTable (walls.map (fun e => (e.1, (min e.2.1 e.2.2, max e.2.1 e.2.2))))
          combos := toTable (combos.map (fun e => (e.1, { e.2 with set := sortNat e.2.set })))
          panels := toTable panels, options, text := b6 }
    else none
  | _, _, _, _, _ => none

/-- A body read and checked (R194). -/
def readBody (body : List Byte) : Option Image :=
  match sixBlocks body with
  | some (b1, b2, b3, b4, b5, b6) => readBlocks b1 b2 b3 b4 b5 b6
  | none => none

/-- A byte beyond the bytes held: 0xFF where the flash is erased, else free (log 9). -/
def Flash.byteBeyond (f : Flash) (address : Nat) : Byte :=
  match f.beyond with
  | none => 0xFF
  | some n => Config.flashByte n address

/-- `n` bytes of the flash from an address on. -/
def Flash.read (f : Flash) (address n : Nat) : List Byte :=
  let held := (f.bytes.drop address).take n
  held ++ (List.range (n - held.length)).map (fun i => f.byteBeyond (address + held.length + i))

/-- The checks of R193 on header and body, in order; the revision and contents of a good image. -/
def readImage (f : Flash) : Option (Nat × Image) :=
  match f.read 0 16 with
  | [m0, m1, m2, m3, format, _, r, r', l0, l1, l2, l3, c0, c1, c2, c3] =>
    let length := num4 l0 l1 l2 l3
    if [m0, m1, m2, m3] = marker ∧ format = 1 ∧ num2 r r' ≠ 0 ∧ length ≠ 0 ∧ length ≤ 65520 then
      let body := f.read 16 length
      if (crc32 body) = code4 c0 c1 c2 c3 then (readBody body).map (fun i => (num2 r r', i)) else none
    else none
  | _ => none

end Sys2Proof.Machine
end

