-- ==== Sys2Proof/Machine/PlanStore.lean ====
section
/-! DEFINITION. PS: the load, the save and its stages (R191–R200). -/

namespace Sys2Proof.Machine

/-! ## The load -/

/-- The image a load finds: none when the flash does not answer, and none over a header that a reset left partly written
(R193, R200). -/
def State.loadedImage (s : State) (answers : Bool) : Option (Nat × Image) :=
  if answers && !s.ps.flash.torn then readImage s.ps.flash else none

/-- The page index of every DIRECTORY slot at 0 (R70). -/
def freshPages (panels : Table PanelSlot) : Table Nat :=
  panels.filterMap (fun e => match e.2.role with
    | .directory _ _ _ => some (e.1, 0)
    | .door _ => none)

/-- Everything a good image gives placed in its owners' tables (R195). -/
def placeImage (revision : Nat) (i : Image) (s : State) : State :=
  { s with
    lu := { s.lu with
      sections := Table.mapVals (fun x => { name := x.name, code := x.code, closed := false }) i.sections
      walls := Table.mapVals (fun w => Wall.fresh w.1 w.2) i.walls
      combos := i.combos }
    text := s.text.writeAll 0 i.text
    fr := { s.fr with pages := freshPages i.panels }
    ps := { s.ps with plan := .ready, revision, options := i.options, panels := i.panels } }

/-- The load ends with no good image (R195). -/
def placeNothing (s : State) : State := { s with ps := { s.ps with plan := .empty } }

/-- Roll call begins on a segment (R129). -/
def beginRollCall (ix : SegIx) (s : State) : State :=
  match (s.seg ix).mode with
  | .starting => s.setSeg ix { s.seg ix with bus := some (.rollIdent (s.seg ix).rollAddr) }
  | .run => s
  | .draining => s
  | .keying => s
  | .searching => s

/-- The options whose value changed, as option changes to their owners (R201). -/
def optionChanges (before : Options) (s : State) : State :=
  let now := s.ps.options
  let changed := (List.range 15).filter (fun n => now.value n ≠ before.value n)
  (if now.privateText = before.privateText then changed else changed ++ [15]).foldl (fun s n => optionChanged n s) s

/-- The end of the load delivered to LU, TP, the segments and the option owners (R195). -/
def deliverLoadEnd (before : Options) (s : State) : State :=
  deliver [rederive, recomputeAll, fun s => allSegs.foldl (fun s ix => beginRollCall ix s) s, optionChanges before] s

/-- The load ends, when one runs: the plan LOADING and RESET released (R193–R195). -/
def endLoadImage (answers : Bool) (s : State) : State :=
  if s.ps.plan = .loading then
    deliverLoadEnd s.ps.options
      (match s.loadedImage answers with
        | some (revision, i) => placeImage revision i s
        | none => placeNothing s)
  else s

/-- LOAD_END. -/
def execLoadEnd (answers : Bool) (s : State) : Out := whenUp (endLoadImage answers) s

/-! ## The save -/

/-- SAVE-PLAN (R197); LOADING is refused by the common checks. -/
def savePlan (s : State) : Taken :=
  match s.ps.plan with
  | .loading => refuse .notReady
  | .saving => refuse .busy
  | .empty => refuse .wrongState
  | .ready =>
    taken { s with ps := { s.ps with
      plan := .saving
      save := some { stage := .erase, body := imageBody (imageOf s), revision := s.ps.revision } } } (two s.ps.revision)

/-- The end of a save (R199). -/
def endSave (result : SaveResult) (flash : Flash) (s : State) : State :=
  raise .save { s with ps := { s.ps with lastSave := result, plan := .ready, save := none, flash } }

/-- The flash after the erase stage, after the body stage, and with the header written (R198). -/
def flashAfter (v : Save) : Flash :=
  match v.stage with
  | .erase => { bytes := [], beyond := none, torn := false }
  | .body => { bytes := List.replicate 16 0xFF ++ v.body, beyond := none, torn := false }
  | .header => { bytes := imageHeader v.revision v.body ++ v.body, beyond := none, torn := false }

/-- Header bytes that the manual gives no value, from an address to 15 (log 9). -/
def freeHeader (n address : Nat) : List Byte := (List.range (16 - address)).map (fun i => Config.flashByte n (address + i))

/-- The flash after the erase or body stage failed or was stopped: the header is erased, and what stands from address 16 on
is free (R198, R200). -/
def flashUnwritten (n : Nat) : Flash := { bytes := List.replicate 16 0xFF, beyond := some n, torn := false }

/-- The flash after a stage failed. When the header stage fails, PS writes 0x00 over the four marker bytes; the rest of the
header is free (R198). -/
def flashFailed (n : Nat) (v : Save) : Flash :=
  match v.stage with
  | .erase => flashUnwritten n
  | .body => flashUnwritten n
  | .header => { bytes := List.replicate 4 0x00 ++ freeHeader n 4 ++ v.body, beyond := none, torn := false }

/-- The flash after a reset stopped a save at a stage (R200): before the header stage the header is erased, during it the
header is partly written. -/
def flashStopped (n : Nat) (v : Save) : Flash :=
  match v.stage with
  | .erase => flashUnwritten n
  | .body => flashUnwritten n
  | .header => { bytes := freeHeader n 0 ++ v.body, beyond := none, torn := true }

/-- A stage failed: the save ends FAILED (R198, R199). -/
def failSave (v : Save) (s : State) : State := endSave .failed (flashFailed s.li.served v) s

/-- A stage passed: the next begins, or the save ends OK (R198, R199). -/
def passStage (v : Save) (s : State) : State :=
  let next (stage : SaveStage) : State :=
    { s with ps := { s.ps with save := some { v with stage }, flash := flashAfter v } }
  match v.stage with
  | .erase => next .body
  | .body => next .header
  | .header => endSave .ok (flashAfter v) s

/-- A stage of the save under way ends; an event of another stage has no occasion (log 5). -/
def endStage (stage : SaveStage) (passed : Bool) (s : State) : State :=
  match s.ps.save with
  | none => s
  | some v => if v.stage = stage then (if passed then passStage v s else failSave v s) else s

/-- SAVE_ERASE. -/
def execSaveErase (passed : Bool) (s : State) : Out := whenUp (endStage .erase passed) s

/-- SAVE_BODY. -/
def execSaveBody (passed : Bool) (s : State) : Out := whenUp (endStage .body passed) s

/-- SAVE_HEADER. -/
def execSaveHeader (passed : Bool) (s : State) : Out := whenUp (endStage .header passed) s

/-- The flash did not report ready within 5 s: the stage in progress fails (R198); with no save the event has no occasion
(log 5). -/
def flashTimesOut (s : State) : State :=
  match s.ps.save with
  | none => s
  | some v => failSave v s

/-- FLASH_READY_TIMEOUT. -/
def execFlashReadyTimeout (s : State) : Out := whenUp flashTimesOut s

end Sys2Proof.Machine
end

