-- ==== Sys2Proof/Machine/Link.lean ====
section
/-! DEFINITION. LI: its own requests, the common checks, service, the input buffer, the receiver (R173–R190). -/

namespace Sys2Proof.Machine

/-! ## LI's own requests -/

/-- The capacities of R188, each in 2 bytes (log 8). -/
def capacityItems : List Byte :=
  two Config.sections ++ two Config.walls ++ two Config.combos ++ two Config.sessions ++ two Config.pages
    ++ two Config.pageBytes ++ two Config.zones ++ two Config.pins ++ two Config.slots ++ two allSegs.length
    ++ two Config.addresses ++ two Config.faceBytes ++ two Config.bodyBytes

/-- IDENTIFY (R188): the part code in two bytes, the silicon version in one, each capacity in two (DEDUCED, log 8). -/
def identify (s : State) : Taken := taken s (two Config.partCode ++ [1] ++ capacityItems ++ two s.ps.revision)

/-- The items of a STATUS reply (R185); the four segment summaries follow one another with no count (DEDUCED, log 8). -/
def statusItems (s : State) : List Byte :=
  halfBytes s.li.attention ++ halfBytes s.li.mask ++ [s.li.cause.code, s.ps.plan.code] ++ two s.ps.revision
    ++ [s.ps.lastSave.code, s.clock.mode.code] ++ allSegs.flatMap (fun ix => segmentSummary (s.seg ix))

/-- STATUS (R185): the flags it returns are cleared. -/
def status (s : State) : Taken := taken (clearFlags s.li.attention s) (statusItems s)

/-- SET-MASK (R186). -/
def storeMask (mask : Half) (s : State) : Taken := taken (s.setMask mask) (halfBytes mask)

/-- RESTART (R189): the reply goes first; the resets are applied when it has gone. -/
def restart (s : State) : Taken := taken s []

/-! ## The owners -/

/-- A request handed to the block that owns its kind (R177, request catalogue). -/
def owner : Request → State → Taken
  | .identify => identify
  | .status => status
  | .setMask mask => storeMask mask
  | .setOption number value => setOption number value
  | .readOption number => readOption number
  | .restart => restart
  | .savePlan => savePlan
  | .defineSection _ index name code => defineSection index name code
  | .removeSection _ index => removeSection index
  | .defineWall _ wall first second => defineWall wall first second
  | .removeWall _ wall => removeWall wall
  | .defineCombination _ index name sections => defineCombination index name sections
  | .removeCombination _ index => removeCombination index
  | .definePanel _ spec => definePanel spec
  | .removePanel _ slot => removePanel slot
  | .closeSection index => closeSection index
  | .openSection index => openSection index
  | .forceWall wall position => forceWall wall position
  | .readWalls => readWalls
  | .readSpaces first => readSpaces first
  | .setClock day minute second => setClock day minute second
  | .adjustClock seconds => adjustClock seconds
  | .readClock => readClock
  | .storeSession spec => storeSession spec
  | .dropSession number => dropSession number
  | .cancelSession number => cancelSession number
  | .restoreSession number => restoreSession number
  | .extendSession number minutes => extendSession number minutes
  | .endSession number => endSession number
  | .readSession number => readSession number
  | .listSessions position count => listSessions position count
  | .putText _ page offset data => putText page offset data
  | .readText page offset count => readText page offset count
  | .clearPage _ page => clearPage page
  | .postNotice spec => postNotice spec
  | .withdrawNotice zone => withdrawNotice zone
  | .pinPanel slot => pinPanel slot
  | .unpinPanel slot => unpinPanel slot
  | .holdPublish => holdPublish
  | .releasePublish => releasePublish
  | .readFace slot position => readFace slot position
  | .readPanel segment address => readPanel segment address
  | .readSegment segment => readSegment segment
  | .enrol segment => enrol segment
  | .stopEnrol segment => stopEnrol segment
  | .forgetPanel segment address => forgetPanel segment address
  | .refreshPanel segment address => refreshPanel segment address

/-! ## Plan edits -/

/-- The expected revision of a plan edit; none for every other request (R181). -/
def expectedRevision : Request → Option Half
  | .defineSection rev _ _ _ => some rev
  | .removeSection rev _ => some rev
  | .defineWall rev _ _ _ => some rev
  | .removeWall rev _ => some rev
  | .defineCombination rev _ _ _ => some rev
  | .removeCombination rev _ => some rev
  | .definePanel rev _ => some rev
  | .removePanel rev _ => some rev
  | .putText rev page _ _ => if page.toNat < Config.planPages then some rev else none
  | .clearPage rev page => if page.toNat < Config.planPages then some rev else none
  | _ => none

/-- The revision after a taken plan edit (R182). -/
def nextRevision (n : Nat) : Nat := if 65535 ≤ n then 1 else n + 1

/-- The plan state after a taken plan edit (R191). -/
def editedPlan : PlanState → PlanState
  | .empty => .ready
  | .ready => .ready
  | .loading => .loading
  | .saving => .saving

/-- What a taken plan edit does to PS (R182, R191). -/
def commitEdit (s : State) : State :=
  { s with ps := { s.ps with plan := editedPlan s.ps.plan, revision := nextRevision s.ps.revision } }

/-! ## Service -/

/-- The kinds taken while the plan is LOADING (R180 check 3). -/
def takenWhileLoading : Request → Bool
  | .identify => true
  | .status => true
  | _ => false

/-- Why the common checks refuse a request, with the bytes after the result code (R180, R178); none when they pass it. -/
def commonRefusal (r : Request) (s : State) : Option (Result × List Byte) :=
  if !r.fits then some (.length, [])
  else if s.ps.plan = .loading ∧ takenWhileLoading r = false then some (.notReady, [])
  else
    match expectedRevision r with
    | none => none
    | some rev =>
      if s.ps.plan = .saving then some (.busy, [])
      else if rev.toNat ≠ s.ps.revision then some (.stale, two s.ps.revision)
      else none

/-- The owner's answer turned into a state and a reply body; a taken plan edit advances the revision and reports it (R178,
R182). -/
def finish (edit : Bool) (before : State) : Taken → State × List Byte
  | .error r => (before, [r.code])
  | .ok (s, items) =>
    if edit then (commitEdit s, Result.ok.code :: (items ++ two (commitEdit s).ps.revision))
    else (s, Result.ok.code :: items)

/-- A request answered: the state after it and its reply body (R177–R180). -/
def answer (asked : Asked) (s : State) : State × List Byte :=
  match asked with
  | .unknownKind _ => (s, [Result.unknown.code])
  | .badLength _ => (s, [Result.length.code])
  | .request r =>
    match commonRefusal r s with
    | some (result, more) => (s, result.code :: more)
    | none => finish (expectedRevision r).isSome s (owner r s)

/-- A request in service whose reply is being sent (R176, R177). -/
def State.inService (s : State) (tag : Byte) (asked : Asked) (reply : List Byte) : State :=
  { s with li := { s.li with
    served := s.li.served + 1, service := some { held := { tag, asked }, reply } } }

/-- A request enters service: it is answered, and its reply is being sent from then on (R176, R177). -/
def enterService (held : Held) (s : State) : State :=
  let a := answer held.asked s
  a.1.inService held.tag held.asked a.2

/-- A complete frame is offered to the input buffer (R176). -/
def offer (held : Held) (s : State) : State :=
  match s.li.service, s.li.waiting with
  | none, _ => enterService held s
  | some _, none => { s with li := { s.li with waiting := some held } }
  | some _, some _ => raise .link s

/-- A request reaches LI complete (log 4). -/
def requestArrives (tag : Byte) (asked : Asked) (s : State) : State := offer { tag, asked } s

/-! ## RESTART applied (R189) -/

/-- LU's part: every section open again (R4, R17). -/
def restartLayout (s : State) : State :=
  rederive { s with lu := { s.lu with sections := Table.mapVals (fun x => { x with closed := false }) s.lu.sections } }

/-- EC's part: the clock UNSET, one clock change with its purge mark clear (R20, R27). -/
def restartClock (s : State) : State := clockChange false { s with clock := Clock.atReset }

/-- ST's part: the map emptied, a session change for each record (R54). -/
def restartSessions (s : State) : State := recomputeAll { s with sessions := [] }

/-- TP's part: pages 16–47 cleared, their page writes (R65). -/
def restartText (s : State) : State := pageWrite s.text.clearSchedule s

/-- NU's part: notices, pins and hold at reset, the notice and pin changes to FR, in an order left open (R106, log 1). -/
def restartNotices (s : State) : State :=
  deliver ((Table.keys s.nu.notices).map recomputeZone ++ (Table.keys s.nu.pins).map recomputeSlot)
    { s with nu := NoticeUnit.atReset }

/-- FR's part: every page index 0, every face resolved anew (R87, R90). -/
def restartResolver (s : State) : State :=
  recomputeAll { s with fr := { s.fr with pages := Table.mapVals (fun _ => 0) s.fr.pages } }

/-- LI's part of a RESTART: steps 1–3 of R189. -/
def restartLink (s : State) : State :=
  { s with li := { s.li with
    attention := startAlone, mask := 0xFFFF, cause := .restart, attn := attnOf s.resetPin startAlone 0xFFFF } }

/-- The blocks that a RESTART resets, LI aside. -/
inductive RestartPart where
  | layout | clock | sessions | text | notices | resolver
deriving DecidableEq, Repr

/-- What a RESTART does in one block. -/
def restartBlock : RestartPart → State → State
  | .layout => restartLayout
  | .clock => restartClock
  | .sessions => restartSessions
  | .text => restartText
  | .notices => restartNotices
  | .resolver => restartResolver

/-- How many parts of an order stand after both ST's and NU's. -/
def restartRoom (l : List RestartPart) : Nat := (l.reverse.takeWhile (fun p => p ≠ .sessions && p ≠ .notices)).length

/-- An order of the blocks by two numbers: any order of the others, and EC's clock change at any place after ST and NU have
emptied their tables (R54, R96, log 28). -/
def restartOrder (n m : Nat) : List RestartPart :=
  let l := arrange n [.layout, .sessions, .text, .notices, .resolver]
  (insertAt (m % (restartRoom l + 1)) .clock l.reverse).reverse

/-- RESTART applied: LI's steps, then every other block (R189). PS and the segments keep all they hold. -/
def applyRestart (s : State) : State :=
  (restartOrder s.nextOrder s.dropOrder.nextOrder).foldl (fun s p => restartBlock p s) (restartLink s).dropOrder.dropOrder

/-- A service was a RESTART that was taken. -/
def InService.restarts (v : InService) : Bool := v.held.asked = .request .restart && v.reply = [Result.ok.code]

/-- The service ends, and the waiting frame enters service (R176, R177). -/
def endService (s : State) : State :=
  let s := { s with li := { s.li with service := none } }
  match s.li.waiting with
  | none => s
  | some held => enterService held { s with li := { s.li with waiting := none } }

/-- The stop bit of a reply's last byte has been sent (R177, R189). -/
def replyGone (s : State) : State :=
  match s.li.service with
  | none => s
  | some v => endService (if v.restarts then applyRestart s else s)

/-- REPLY_SENT. -/
def execReplySent (s : State) : Out := whenUp replyGone s

/-! ## The receiver -/

/-- The receiver put in a state. -/
def setReceiver (r : Receiver) (s : State) : State := { s with li := { s.li with receiver := r } }

/-- The body length that the first two bytes after START give. -/
def frameLength : List Byte → Nat
  | a :: b :: _ => num2 a b
  | _ => 0

/-- The bytes of a frame after START: LEN, KIND, TAG, the body, CRC. -/
def frameBytes (got : List Byte) : Nat := 2 + 2 + frameLength got + 2

/-- The last CRC byte of a frame is in: it is discarded, or offered (R175). -/
def checkFrame (got : List Byte) (s : State) : State :=
  let covered := got.take (4 + frameLength got)
  if got.drop (4 + frameLength got) = halfBytes (crc16 covered) then
    match covered with
    | _ :: _ :: kind :: tag :: body => offer { tag, asked := Request.read kind body } (setReceiver .hunting s)
    | _ => setReceiver .resync s
  else setReceiver .resync s

/-- The bytes received of a frame looked at after each one (R175). -/
def takeFrameByte (got : List Byte) (s : State) : State :=
  if got.length = 2 ∧ Config.bodyBytes < frameLength got then setReceiver .resync s
  else if 2 ≤ got.length ∧ got.length = frameBytes got then checkFrame got s
  else setReceiver (.receiving got) s

/-- A byte received (R173, R175). -/
def receiveByte (b : Byte) (s : State) : State :=
  match s.li.receiver with
  | .hunting => if b = startByte then setReceiver (.receiving []) s else s
  | .receiving got => takeFrameByte (got ++ [b]) s
  | .resync => s

/-- Bytes received one after another with no gap over 5 ms. -/
def receiveAll (bytes : List Byte) (s : State) : State := bytes.foldl (fun s b => receiveByte b s) s

/-- A byte with a framing error (R173). -/
def framingError (s : State) : State :=
  match s.li.receiver with
  | .hunting => s
  | .receiving _ => setReceiver .resync s
  | .resync => s

/-- A gap of more than 5 ms in RECEIVING (R174). -/
def receiveGap (s : State) : State :=
  match s.li.receiver with
  | .hunting => s
  | .receiving _ => setReceiver .hunting s
  | .resync => s

/-- A gap of more than 5 ms in RESYNC (R173). -/
def resyncGap (s : State) : State :=
  match s.li.receiver with
  | .hunting => s
  | .receiving _ => s
  | .resync => setReceiver .hunting s

/-- HOST_FRAME_RECEIVED. -/
def execHostFrameReceived (bytes : List Byte) (s : State) : Out := whenUp (receiveAll bytes) s

/-- FRAME_START_BYTE. -/
def execFrameStartByte (byte : Byte) (s : State) : Out := whenUp (receiveByte byte) s

/-- LEN_BYTES_IN. -/
def execLenBytesIn (high low : Byte) (s : State) : Out := whenUp (receiveAll [high, low]) s

/-- FRAMING_ERROR_BYTE. -/
def execFramingErrorByte (s : State) : Out := whenUp framingError s

/-- RECEIVE_GAP_TIMEOUT. -/
def execReceiveGapTimeout (s : State) : Out := whenUp receiveGap s

/-- RESYNC_GAP_TIMEOUT. -/
def execResyncGapTimeout (s : State) : Out := whenUp resyncGap s

/-! ## Power-on and pin reset (R187, R190, R196, R204) -/

/-- The flash as a reset leaves it: a save under way stops at its stage (R200). -/
def flashAtReset (s : State) : Flash :=
  match s.ps.save with
  | none => s.ps.flash
  | some v => flashStopped s.li.served v

/-- Every block at its reset values. The queue of commands, the flash, and the model's own fields are kept. -/
def resetBlocks (cause : ResetCause) (pin : Bool) (s : State) : State :=
  { State.reset with
    pending := s.pending, resetPin := pin, li := Link.atReset cause pin s.li.served
    ps := PlanStore.atReset (flashAtReset s), time := s.time, orders := s.orders }

/-- POWER_ON: the load begins, once RESET is released (R196, R204). -/
def execPowerOn (s : State) : Out := .next (resetBlocks .power s.resetPin s)

/-- PIN_RESET_ASSERT: nothing further while the input is asserted (R196, R204). -/
def execPinResetAssert (s : State) : Out := .next (if s.resetPin then s else resetBlocks .pin true s)

/-- PIN_RESET_RELEASE: the cause is PIN, or POWER when the reset was part of a power-on; the load begins (R187, R204). -/
def execPinResetRelease (s : State) : Out := .next (if s.resetPin then resetBlocks s.li.cause false s else s)

end Sys2Proof.Machine
end

