-- ==== Sys2Proof/Machine/HostRequests.lean ====
section
/-! DEFINITION. The meanings of the request rows: each is that request reaching LI complete, with its tag (R176, R177, log 4). -/

namespace Sys2Proof.Machine

/-- IDENTIFY (R188). -/
def execIdentify (tag : Byte) (s : State) : Out :=
  whenUp (requestArrives tag (.request Request.identify)) s

/-- STATUS (R185). -/
def execStatus (tag : Byte) (s : State) : Out :=
  whenUp (requestArrives tag (.request Request.status)) s

/-- SET-MASK (R186). -/
def execSetMask (tag : Byte) (mask : Half) (s : State) : Out :=
  whenUp (requestArrives tag (.request (Request.setMask mask))) s

/-- SET-OPTION (R202). -/
def execSetOption (tag : Byte) (number : Byte) (value : OptionValue) (s : State) : Out :=
  whenUp (requestArrives tag (.request (Request.setOption number value))) s

/-- READ-OPTION (R203). -/
def execReadOption (tag : Byte) (number : Byte) (s : State) : Out :=
  whenUp (requestArrives tag (.request (Request.readOption number))) s

/-- RESTART (R189). -/
def execRestart (tag : Byte) (s : State) : Out :=
  whenUp (requestArrives tag (.request Request.restart)) s

/-- SAVE-PLAN (R197). -/
def execSavePlan (tag : Byte) (s : State) : Out :=
  whenUp (requestArrives tag (.request Request.savePlan)) s

/-- DEFINE-SECTION (R2). -/
def execDefineSection (tag : Byte) (rev : Half) (index : Byte) (name : TextRef) (code : ShortCode) (s : State) : Out :=
  whenUp (requestArrives tag (.request (Request.defineSection rev index name code))) s

/-- REMOVE-SECTION (R3). -/
def execRemoveSection (tag : Byte) (rev : Half) (index : Byte) (s : State) : Out :=
  whenUp (requestArrives tag (.request (Request.removeSection rev index))) s

/-- DEFINE-WALL (R6). -/
def execDefineWall (tag : Byte) (rev : Half) (wall : Byte) (first : Byte) (second : Byte) (s : State) : Out :=
  whenUp (requestArrives tag (.request (Request.defineWall rev wall first second))) s

/-- REMOVE-WALL (R7). -/
def execRemoveWall (tag : Byte) (rev : Half) (wall : Byte) (s : State) : Out :=
  whenUp (requestArrives tag (.request (Request.removeWall rev wall))) s

/-- DEFINE-COMBINATION (R13). -/
def execDefineCombination (tag : Byte) (rev : Half) (index : Byte) (name : TextRef) (sections : List Byte) (s : State) : Out :=
  whenUp (requestArrives tag (.request (Request.defineCombination rev index name sections))) s

/-- REMOVE-COMBINATION (R14). -/
def execRemoveCombination (tag : Byte) (rev : Half) (index : Byte) (s : State) : Out :=
  whenUp (requestArrives tag (.request (Request.removeCombination rev index))) s

/-- DEFINE-PANEL (R111). -/
def execDefinePanel (tag : Byte) (rev : Half) (spec : PanelSpec) (s : State) : Out :=
  whenUp (requestArrives tag (.request (Request.definePanel rev spec))) s

/-- REMOVE-PANEL (R113). -/
def execRemovePanel (tag : Byte) (rev : Half) (slot : Half) (s : State) : Out :=
  whenUp (requestArrives tag (.request (Request.removePanel rev slot))) s

/-- CLOSE-SECTION (R4). -/
def execCloseSection (tag : Byte) (index : Byte) (s : State) : Out :=
  whenUp (requestArrives tag (.request (Request.closeSection index))) s

/-- OPEN-SECTION (R4). -/
def execOpenSection (tag : Byte) (index : Byte) (s : State) : Out :=
  whenUp (requestArrives tag (.request (Request.openSection index))) s

/-- FORCE-WALL (R11). -/
def execForceWall (tag : Byte) (wall : Byte) (position : Byte) (s : State) : Out :=
  whenUp (requestArrives tag (.request (Request.forceWall wall position))) s

/-- READ-WALLS (R18). -/
def execReadWalls (tag : Byte) (s : State) : Out :=
  whenUp (requestArrives tag (.request Request.readWalls)) s

/-- READ-SPACES (R19). -/
def execReadSpaces (tag : Byte) (first : Byte) (s : State) : Out :=
  whenUp (requestArrives tag (.request (Request.readSpaces first))) s

/-- SET-CLOCK (R26). -/
def execSetClock (tag : Byte) (day : Byte) (minute : Half) (second : Byte) (s : State) : Out :=
  whenUp (requestArrives tag (.request (Request.setClock day minute second))) s

/-- ADJUST-CLOCK (R28). -/
def execAdjustClock (tag : Byte) (seconds : Byte) (s : State) : Out :=
  whenUp (requestArrives tag (.request (Request.adjustClock seconds))) s

/-- READ-CLOCK (R29). -/
def execReadClock (tag : Byte) (s : State) : Out :=
  whenUp (requestArrives tag (.request Request.readClock)) s

/-- STORE-SESSION (R41). -/
def execStoreSession (tag : Byte) (spec : StoreSpec) (s : State) : Out :=
  whenUp (requestArrives tag (.request (Request.storeSession spec))) s

/-- DROP-SESSION (R42). -/
def execDropSession (tag : Byte) (number : Half) (s : State) : Out :=
  whenUp (requestArrives tag (.request (Request.dropSession number))) s

/-- CANCEL-SESSION (R43). -/
def execCancelSession (tag : Byte) (number : Half) (s : State) : Out :=
  whenUp (requestArrives tag (.request (Request.cancelSession number))) s

/-- RESTORE-SESSION (R44). -/
def execRestoreSession (tag : Byte) (number : Half) (s : State) : Out :=
  whenUp (requestArrives tag (.request (Request.restoreSession number))) s

/-- EXTEND-SESSION (R46). -/
def execExtendSession (tag : Byte) (number : Half) (minutes : Byte) (s : State) : Out :=
  whenUp (requestArrives tag (.request (Request.extendSession number minutes))) s

/-- END-SESSION (R47). -/
def execEndSession (tag : Byte) (number : Half) (s : State) : Out :=
  whenUp (requestArrives tag (.request (Request.endSession number))) s

/-- READ-SESSION (R48). -/
def execReadSession (tag : Byte) (number : Half) (s : State) : Out :=
  whenUp (requestArrives tag (.request (Request.readSession number))) s

/-- LIST-SESSIONS (R49). -/
def execListSessions (tag : Byte) (position : Half) (count : Byte) (s : State) : Out :=
  whenUp (requestArrives tag (.request (Request.listSessions position count))) s

/-- PUT-TEXT (R60). -/
def execPutText (tag : Byte) (rev : Half) (page : Byte) (offset : Byte) (data : List Byte) (s : State) : Out :=
  whenUp (requestArrives tag (.request (Request.putText rev page offset data))) s

/-- READ-TEXT (R63). -/
def execReadText (tag : Byte) (page : Byte) (offset : Byte) (count : Byte) (s : State) : Out :=
  whenUp (requestArrives tag (.request (Request.readText page offset count))) s

/-- CLEAR-PAGE (R62). -/
def execClearPage (tag : Byte) (rev : Half) (page : Byte) (s : State) : Out :=
  whenUp (requestArrives tag (.request (Request.clearPage rev page))) s

/-- POST-NOTICE (R94). -/
def execPostNotice (tag : Byte) (spec : NoticeSpec) (s : State) : Out :=
  whenUp (requestArrives tag (.request (Request.postNotice spec))) s

/-- WITHDRAW-NOTICE (R95). -/
def execWithdrawNotice (tag : Byte) (zone : Byte) (s : State) : Out :=
  whenUp (requestArrives tag (.request (Request.withdrawNotice zone))) s

/-- PIN-PANEL (R98). -/
def execPinPanel (tag : Byte) (slot : Half) (s : State) : Out :=
  whenUp (requestArrives tag (.request (Request.pinPanel slot))) s

/-- UNPIN-PANEL (R99). -/
def execUnpinPanel (tag : Byte) (slot : Half) (s : State) : Out :=
  whenUp (requestArrives tag (.request (Request.unpinPanel slot))) s

/-- HOLD-PUBLISH (R102). -/
def execHoldPublish (tag : Byte) (s : State) : Out :=
  whenUp (requestArrives tag (.request Request.holdPublish)) s

/-- RELEASE-PUBLISH (R103). -/
def execReleasePublish (tag : Byte) (s : State) : Out :=
  whenUp (requestArrives tag (.request Request.releasePublish)) s

/-- READ-FACE (R89). -/
def execReadFace (tag : Byte) (slot : Half) (position : Half) (s : State) : Out :=
  whenUp (requestArrives tag (.request (Request.readFace slot position))) s

/-- READ-PANEL (R123). -/
def execReadPanel (tag : Byte) (segment : Byte) (address : Byte) (s : State) : Out :=
  whenUp (requestArrives tag (.request (Request.readPanel segment address))) s

/-- READ-SEGMENT (R124). -/
def execReadSegment (tag : Byte) (segment : Byte) (s : State) : Out :=
  whenUp (requestArrives tag (.request (Request.readSegment segment))) s

/-- ENROL (R133). -/
def execEnrol (tag : Byte) (segment : Byte) (s : State) : Out :=
  whenUp (requestArrives tag (.request (Request.enrol segment))) s

/-- STOP-ENROL (R144). -/
def execStopEnrol (tag : Byte) (segment : Byte) (s : State) : Out :=
  whenUp (requestArrives tag (.request (Request.stopEnrol segment))) s

/-- FORGET-PANEL (R125). -/
def execForgetPanel (tag : Byte) (segment : Byte) (address : Byte) (s : State) : Out :=
  whenUp (requestArrives tag (.request (Request.forgetPanel segment address))) s

/-- REFRESH-PANEL (R127). -/
def execRefreshPanel (tag : Byte) (segment : Byte) (address : Byte) (s : State) : Out :=
  whenUp (requestArrives tag (.request (Request.refreshPanel segment address))) s

/-- UNKNOWN_KIND (R180): a frame whose kind and body are read as any other. -/
def execUnknownKind (tag : Byte) (kind : Byte) (body : List Byte) (s : State) : Out :=
  whenUp (requestArrives tag (Request.read kind body)) s

end Sys2Proof.Machine
end

