-- ==== Sys2Proof/Machine/Dispatch.lean ====
section
/-! DEFINITION. One arm per command. -/

namespace Sys2Proof.Machine

def exec (i : Instr) (s : State) : Host.Outcome State Fault Refusal :=
  match i with
  | .identify tag => Sys2Proof.Machine.execIdentify tag s
  | .status tag => Sys2Proof.Machine.execStatus tag s
  | .setMask tag mask => Sys2Proof.Machine.execSetMask tag mask s
  | .setOption tag number value => Sys2Proof.Machine.execSetOption tag number value s
  | .readOption tag number => Sys2Proof.Machine.execReadOption tag number s
  | .restart tag => Sys2Proof.Machine.execRestart tag s
  | .savePlan tag => Sys2Proof.Machine.execSavePlan tag s
  | .defineSection tag rev index name code => Sys2Proof.Machine.execDefineSection tag rev index name code s
  | .removeSection tag rev index => Sys2Proof.Machine.execRemoveSection tag rev index s
  | .defineWall tag rev wall first second => Sys2Proof.Machine.execDefineWall tag rev wall first second s
  | .removeWall tag rev wall => Sys2Proof.Machine.execRemoveWall tag rev wall s
  | .defineCombination tag rev index name sections => Sys2Proof.Machine.execDefineCombination tag rev index name sections s
  | .removeCombination tag rev index => Sys2Proof.Machine.execRemoveCombination tag rev index s
  | .definePanel tag rev spec => Sys2Proof.Machine.execDefinePanel tag rev spec s
  | .removePanel tag rev slot => Sys2Proof.Machine.execRemovePanel tag rev slot s
  | .closeSection tag index => Sys2Proof.Machine.execCloseSection tag index s
  | .openSection tag index => Sys2Proof.Machine.execOpenSection tag index s
  | .forceWall tag wall position => Sys2Proof.Machine.execForceWall tag wall position s
  | .readWalls tag => Sys2Proof.Machine.execReadWalls tag s
  | .readSpaces tag first => Sys2Proof.Machine.execReadSpaces tag first s
  | .setClock tag day minute second => Sys2Proof.Machine.execSetClock tag day minute second s
  | .adjustClock tag seconds => Sys2Proof.Machine.execAdjustClock tag seconds s
  | .readClock tag => Sys2Proof.Machine.execReadClock tag s
  | .storeSession tag spec => Sys2Proof.Machine.execStoreSession tag spec s
  | .dropSession tag number => Sys2Proof.Machine.execDropSession tag number s
  | .cancelSession tag number => Sys2Proof.Machine.execCancelSession tag number s
  | .restoreSession tag number => Sys2Proof.Machine.execRestoreSession tag number s
  | .extendSession tag number minutes => Sys2Proof.Machine.execExtendSession tag number minutes s
  | .endSession tag number => Sys2Proof.Machine.execEndSession tag number s
  | .readSession tag number => Sys2Proof.Machine.execReadSession tag number s
  | .listSessions tag position count => Sys2Proof.Machine.execListSessions tag position count s
  | .putText tag rev page offset data => Sys2Proof.Machine.execPutText tag rev page offset data s
  | .readText tag page offset count => Sys2Proof.Machine.execReadText tag page offset count s
  | .clearPage tag rev page => Sys2Proof.Machine.execClearPage tag rev page s
  | .postNotice tag spec => Sys2Proof.Machine.execPostNotice tag spec s
  | .withdrawNotice tag zone => Sys2Proof.Machine.execWithdrawNotice tag zone s
  | .pinPanel tag slot => Sys2Proof.Machine.execPinPanel tag slot s
  | .unpinPanel tag slot => Sys2Proof.Machine.execUnpinPanel tag slot s
  | .holdPublish tag => Sys2Proof.Machine.execHoldPublish tag s
  | .releasePublish tag => Sys2Proof.Machine.execReleasePublish tag s
  | .readFace tag slot position => Sys2Proof.Machine.execReadFace tag slot position s
  | .readPanel tag segment address => Sys2Proof.Machine.execReadPanel tag segment address s
  | .readSegment tag segment => Sys2Proof.Machine.execReadSegment tag segment s
  | .enrol tag segment => Sys2Proof.Machine.execEnrol tag segment s
  | .stopEnrol tag segment => Sys2Proof.Machine.execStopEnrol tag segment s
  | .forgetPanel tag segment address => Sys2Proof.Machine.execForgetPanel tag segment address s
  | .refreshPanel tag segment address => Sys2Proof.Machine.execRefreshPanel tag segment address s
  | .unknownKind tag kind body => Sys2Proof.Machine.execUnknownKind tag kind body s
  | .hostFrameReceived bytes => Sys2Proof.Machine.execHostFrameReceived bytes s
  | .receiveGapTimeout => Sys2Proof.Machine.execReceiveGapTimeout s
  | .resyncGapTimeout => Sys2Proof.Machine.execResyncGapTimeout s
  | .replySent => Sys2Proof.Machine.execReplySent s
  | .powerOn => Sys2Proof.Machine.execPowerOn s
  | .pinResetAssert => Sys2Proof.Machine.execPinResetAssert s
  | .pinResetRelease => Sys2Proof.Machine.execPinResetRelease s
  | .loadEnd answers => Sys2Proof.Machine.execLoadEnd answers s
  | .secondTick => Sys2Proof.Machine.execSecondTick s
  | .holdTimeout => Sys2Proof.Machine.execHoldTimeout s
  | .clockExpire => Sys2Proof.Machine.execClockExpire s
  | .minuteTurnover => Sys2Proof.Machine.execMinuteTurnover s
  | .wallScan contacts => Sys2Proof.Machine.execWallScan contacts s
  | .chooseExchange seg => Sys2Proof.Machine.execChooseExchange seg s
  | .roundRobinPoll seg heard => Sys2Proof.Machine.execRoundRobinPoll seg heard s
  | .returnProbe seg heard => Sys2Proof.Machine.execReturnProbe seg heard s
  | .loadExchange seg heard => Sys2Proof.Machine.execLoadExchange seg heard s
  | .showExchange seg heard => Sys2Proof.Machine.execShowExchange seg heard s
  | .completionPollDue seg address => Sys2Proof.Machine.execCompletionPollDue seg address s
  | .completionPoll seg heard => Sys2Proof.Machine.execCompletionPoll seg heard s
  | .finalDeadline seg address => Sys2Proof.Machine.execFinalDeadline seg address s
  | .dropExchange seg => Sys2Proof.Machine.execDropExchange seg s
  | .rollCallIdent seg heard => Sys2Proof.Machine.execRollCallIdent seg heard s
  | .drainComplete seg => Sys2Proof.Machine.execDrainComplete seg s
  | .keyExchange seg => Sys2Proof.Machine.execKeyExchange seg s
  | .askExchange seg heard => Sys2Proof.Machine.execAskExchange seg heard s
  | .giveExchange seg heard => Sys2Proof.Machine.execGiveExchange seg heard s
  | .saveErase passed => Sys2Proof.Machine.execSaveErase passed s
  | .saveBody passed => Sys2Proof.Machine.execSaveBody passed s
  | .saveHeader passed => Sys2Proof.Machine.execSaveHeader passed s
  | .flashReadyTimeout => Sys2Proof.Machine.execFlashReadyTimeout s
  | .frameStartByte byte => Sys2Proof.Machine.execFrameStartByte byte s
  | .lenBytesIn high low => Sys2Proof.Machine.execLenBytesIn high low s
  | .framingErrorByte => Sys2Proof.Machine.execFramingErrorByte s

end Sys2Proof.Machine
end

