-- ==== Sys2Proof/Safety.lean ====
section
/-! DEFINITION. What statements about the part are made of: what a delivery inside a command leaves as it was, the state of a
request in service, and the invariants of the manual. -/

namespace Sys2Proof.Machine

/-! ## What stands beside the deliveries -/

/-- A session record without what ST works out for it: phase, home space, placement, layout-warned (R37, R51). -/
def Session.stored (r : Session) : Session := { r with warned := false, phase := .future, home := 0, placed := false }

/-- A record state as far as a wanted-face change must leave it: a refresh in flight (R165). -/
def RecState.inFlight : RecState → RecState
  | .online => .online
  | .queued => .online
  | .loading => .online
  | .refreshing f => .refreshing f
  | .lost => .online

/-- A panel record without what a wanted-face change may touch: its place in the queue and its wanted face (R148, R150). -/
def Rec.kept (r : Rec) : Rec := { r with state := r.state.inFlight, wantedDigest := 0, wantedTemplate := .blank }

/-- A segment without its queue and its transfer. -/
def Seg.kept (g : Seg) : Seg :=
  { g with recs := Table.mapVals Rec.kept g.recs, queue := [], sequence := 0, transfer := none }

/-- The four segments so. -/
def Segs.kept (g : Segs) : Segs := { sc0 := g.sc0.kept, sc1 := g.sc1.kept, sc2 := g.sc2.kept, sc3 := g.sc3.kept }

/-- LI without its attention set and ATTN. -/
def Link.kept (l : Link) : Link := { l with attention := 0, attn := false }

/-- The part without what deliveries to ST, FR and SC0–SC3 may change: the attention set, the sessions' phases and
placements, the faces and page indices, the refresh queues and transfers, and the orders read. -/
def State.kept (s : State) : State :=
  { s with
    li := s.li.kept, sessions := Table.mapVals Session.stored s.sessions, fr := { faces := [], pages := [] }
    sc := s.sc.kept, orders := [] }

/-- Flags 12–15 do not exist, and ATTN is judged (R183, R184). -/
def FlagsGood (s : State) : Prop :=
  s.li.attention &&& 0xF000 = 0 ∧ s.li.attn = attnOf s.resetPin s.li.attention s.li.mask

/-- `t` is `s` after deliveries to ST, FR and the segment controllers: all else is as it was, flags were at most raised, and
the attention set stays good. -/
structure Follows (s t : State) : Prop where
  kept : t.kept = s.kept
  grow : s.li.attention &&& t.li.attention = s.li.attention
  good : FlagsGood s → FlagsGood t

/-- `t` is `s` after work on one sign bus: that segment aside, `t` is `s` after deliveries. -/
structure FollowsSeg (ix : SegIx) (s t : State) : Prop where
  kept : (t.setSeg ix Seg.atReset).kept = (s.setSeg ix Seg.atReset).kept
  grow : s.li.attention &&& t.li.attention = s.li.attention
  good : FlagsGood s → FlagsGood t

/-- The part as `kept`, with the records of the segments seen through `f`. -/
def State.keptThrough (f : Rec → Rec) (s : State) : State :=
  let seg (ix : SegIx) : Seg := { (s.seg ix).kept with recs := Table.mapVals f (s.seg ix).recs }
  { s.kept with sc := { sc0 := seg .sc0, sc1 := seg .sc1, sc2 := seg .sc2, sc3 := seg .sc3 } }

/-- `t` is `s` after deliveries, and the records of `t` are those of `s` as far as `f` shows them. -/
structure FollowsThrough (f : Rec → Rec) (s t : State) : Prop where
  kept : t.keptThrough f = s.keptThrough f
  grow : s.li.attention &&& t.li.attention = s.li.attention
  good : FlagsGood s → FlagsGood t

/-- A panel record without its binding. -/
def Rec.unbound (r : Rec) : Rec := { r.kept with binding := none }

/-- A panel record without its forced-full mark. -/
def Rec.unmarked (r : Rec) : Rec := { r.kept with forcedFull := false }

/-- What ST holds for a record stands as the clock, the door lead and the spaces now give it (R34, R50, R51). -/
def Current (s : State) (r : Session) : Prop :=
  r.phase = phaseAt s.clock s.ps.options.doorLead r
    ∧ r.home = ((r.homeSpace s.lu.spaces).map Space.anchor).getD r.lowest
    ∧ r.placed = (r.homeSpace s.lu.spaces).any (fun p => p.sections = r.sections)
    ∧ r.warned = (warnedPhase r.phase && !r.placed)

/-- Every record of the session map so (R38). -/
def AllCurrent (s : State) : Prop := ∀ e, e ∈ s.sessions → Current s e.2

/-- What FR holds for every bound slot is what its present inputs give, at the page index it holds, which is below the page
count (R71–R73, R87). -/
def FacesNow (s : State) : Prop :=
  ∀ slot p h, Table.get s.ps.panels slot = some p → s.holder slot = some h →
    let role := roleFaceOf s p h.rec_.cls (s.pageIndex slot)
    Table.get s.fr.faces slot = some (resolveFace s slot p role) ∧ (role.pages.isSome = true → role.index = s.pageIndex slot)

/-- The part once NU has taken the loss of the binding of a record, if it was bound (R100). -/
def unpinned (ix : SegIx) (a : Nat) (s : State) : State :=
  match (s.rec? ix a).bind (·.binding) with
  | some slot => loseBinding slot s
  | none => s

/-- A flag is set. -/
def flagSet (s : State) (f : Flag) : Bool := s.li.attention.getLsbD f.number

/-- ST and FR have taken the space change of a command, if it made one (R17, R38, R51, R71): every session stands as the new
spaces give it, LAYOUT is raised for each new warning, and every bound slot's face is the one its inputs give. -/
structure SpacesTaken (s t : State) : Prop where
  sessions : t.lu.spaces ≠ s.lu.spaces ∨ AllCurrent s → AllCurrent t
  warned : ∀ n x y, Table.get s.sessions n = some x → Table.get t.sessions n = some y → x.warned = false → y.warned = true →
    flagSet t .layout = true
  faces : t.lu.spaces ≠ s.lu.spaces ∨ FacesNow s → FacesNow t

/-! ## One record of a segment -/

/-- A segment without one of its records: out of the queue, and without the counters, the transfer and the draws that an
event of that record moves. -/
def Seg.beside (a : Nat) (g : Seg) : Seg :=
  { g with recs := Table.del g.recs a, queue := leaveQueue a g.queue, sequence := 0, transfer := none, pointer := 0, reserved := 0 }

/-- Work on one record of one sign bus: the other records of its segment, their queue entries, the segment's state, exchange,
drops and enrolment, the other segments, the sessions and the orders stand as they were; `t` is `s` after it. -/
structure OnlyRecord (ix : SegIx) (a : Nat) (s t : State) : Prop where
  follows : FollowsSeg ix s t
  beside : (t.seg ix).beside a = (s.seg ix).beside a
  others : ∀ j, j ≠ ix → t.seg j = s.seg j
  sessions : t.sessions = s.sessions
  orders : t.orders = s.orders

/-- The record at an address stands as `x` but LOST, out of the queue, with PANEL raised (R118, R170). -/
def IsLost (ix : SegIx) (a : Nat) (x : Rec) (t : State) : Prop :=
  t.rec? ix a = some { x with state := .lost } ∧ (∀ e, e ∈ (t.seg ix).queue → e.address ≠ a) ∧ flagSet t .panel = true

/-- The need of a record that stands as `x`, ONLINE or QUEUED, is evaluated (R147, R149, R150): enqueued from ONLINE with the
counter's sequence, its entry raised in QUEUED, else ONLINE and out of the queue. -/
def NeedJudged (ix : SegIx) (a : Nat) (least : QueueClass) (x : Rec) (s t : State) : Prop :=
  (x.needs = true → x.state = .online → t.rec? ix a = some { x with state := .queued }
      ∧ { address := a, cls := higher least x.derived, sequence := (s.seg ix).sequence, pass := 0 } ∈ (t.seg ix).queue
      ∧ (t.seg ix).sequence = ((s.seg ix).sequence + 1) % 4294967296)
  ∧ (x.needs = true → x.state = .queued → t.rec? ix a = some x ∧ (t.seg ix).sequence = (s.seg ix).sequence
      ∧ ∀ e, entryOf a (s.seg ix).queue = some e →
          { e with cls := higher e.cls (higher least x.derived) } ∈ (t.seg ix).queue)
  ∧ (x.needs = false → t.rec? ix a = some { x with state := .online } ∧ (t.seg ix).sequence = (s.seg ix).sequence
      ∧ (x.state = .queued → ∀ e, e ∈ (t.seg ix).queue → e.address ≠ a))

/-- Pointer, transfer and reserved draw of a segment stand as they were. -/
def FlightsKept (ix : SegIx) (s t : State) : Prop :=
  (t.seg ix).pointer = (s.seg ix).pointer ∧ (t.seg ix).transfer = (s.seg ix).transfer
    ∧ (t.seg ix).reserved = (s.seg ix).reserved

/-- A record leaves LOADING as `x`, its transfer `v` ended: LOST at the miss limit; else back in the queue with the transfer's
sequence when it needs a refresh; else ONLINE (R160, R161, R163, R170). -/
def LeavesLoading (ix : SegIx) (a : Nat) (v : Transfer) (x : Rec) (s t : State) : Prop :=
  OnlyRecord ix a s t ∧ t.fr = s.fr ∧ (t.seg ix).transfer = none ∧ (t.seg ix).pointer = (s.seg ix).pointer
    ∧ (t.seg ix).reserved = (s.seg ix).reserved ∧ (t.seg ix).sequence = (s.seg ix).sequence
    ∧ (s.ps.options.missLimit ≤ x.miss → IsLost ix a x t)
    ∧ (x.miss < s.ps.options.missLimit → x.needs = true → t.rec? ix a = some { x with state := .queued }
        ∧ { address := a, cls := higher v.cls x.derived, sequence := v.sequence, pass := 0 } ∈ (t.seg ix).queue)
    ∧ (x.miss < s.ps.options.missLimit → x.needs = false → t.rec? ix a = some { x with state := .online }
        ∧ ∀ e, e ∈ (t.seg ix).queue → e.address ≠ a)

/-- A record leaves REFRESHING as `x`: LOST at the miss limit, else ONLINE with its need evaluated (R170). -/
def LeavesRefreshing (ix : SegIx) (a : Nat) (draw : Nat) (x : Rec) (s t : State) : Prop :=
  OnlyRecord ix a s t ∧ t.fr = s.fr ∧ (t.seg ix).reserved = (s.seg ix).reserved - draw
    ∧ (t.seg ix).pointer = (s.seg ix).pointer ∧ (t.seg ix).transfer = (s.seg ix).transfer
    ∧ (s.ps.options.missLimit ≤ x.miss → IsLost ix a x t ∧ (t.seg ix).sequence = (s.seg ix).sequence)
    ∧ (x.miss < s.ps.options.missLimit → NeedJudged ix a .maint { x with state := .online } s t)

/-- The segment without a record deleted from it, its drops aside (R114, R126). -/
def Seg.without (a : Nat) (x : Rec) (drops : List Nat) (g : Seg) : Seg :=
  { g with
    recs := Table.del g.recs a, queue := g.queue.filter (fun e => e.address ≠ a), drops
    transfer := if g.transfer.any (fun v => v.address = a) then none else g.transfer
    reserved := g.reserved - x.reservedDraw }

/-! ## Requests in service -/

/-- The row of the table that a request is. -/
def rowOf (tag : Byte) : Request → Instr
  | .identify => .identify tag
  | .status => .status tag
  | .setMask mask => .setMask tag mask
  | .setOption number value => .setOption tag number value
  | .readOption number => .readOption tag number
  | .restart => .restart tag
  | .savePlan => .savePlan tag
  | .defineSection rev index name code => .defineSection tag rev index name code
  | .removeSection rev index => .removeSection tag rev index
  | .defineWall rev wall first second => .defineWall tag rev wall first second
  | .removeWall rev wall => .removeWall tag rev wall
  | .defineCombination rev index name sections => .defineCombination tag rev index name sections
  | .removeCombination rev index => .removeCombination tag rev index
  | .definePanel rev spec => .definePanel tag rev spec
  | .removePanel rev slot => .removePanel tag rev slot
  | .closeSection index => .closeSection tag index
  | .openSection index => .openSection tag index
  | .forceWall wall position => .forceWall tag wall position
  | .readWalls => .readWalls tag
  | .readSpaces first => .readSpaces tag first
  | .setClock day minute second => .setClock tag day minute second
  | .adjustClock seconds => .adjustClock tag seconds
  | .readClock => .readClock tag
  | .storeSession spec => .storeSession tag spec
  | .dropSession number => .dropSession tag number
  | .cancelSession number => .cancelSession tag number
  | .restoreSession number => .restoreSession tag number
  | .extendSession number minutes => .extendSession tag number minutes
  | .endSession number => .endSession tag number
  | .readSession number => .readSession tag number
  | .listSessions position count => .listSessions tag position count
  | .putText rev page offset data => .putText tag rev page offset data
  | .readText page offset count => .readText tag page offset count
  | .clearPage rev page => .clearPage tag rev page
  | .postNotice spec => .postNotice tag spec
  | .withdrawNotice zone => .withdrawNotice tag zone
  | .pinPanel slot => .pinPanel tag slot
  | .unpinPanel slot => .unpinPanel tag slot
  | .holdPublish => .holdPublish tag
  | .releasePublish => .releasePublish tag
  | .readFace slot position => .readFace tag slot position
  | .readPanel segment address => .readPanel tag segment address
  | .readSegment segment => .readSegment tag segment
  | .enrol segment => .enrol tag segment
  | .stopEnrol segment => .stopEnrol tag segment
  | .forgetPanel segment address => .forgetPanel tag segment address
  | .refreshPanel segment address => .refreshPanel tag segment address

/-- LI is free to serve: RESET is released and no request is in service (R176, R204). -/
def Free (s : State) : Prop := s.resetPin = false ∧ s.li.service = none

/-- LI serves the request: it is free and the common checks of R180 pass. -/
def Serves (s : State) (r : Request) : Prop :=
  Free s ∧ r.fits = true ∧ (s.ps.plan = .loading → takenWhileLoading r = true)
    ∧ ∀ rev, expectedRevision r = some rev → s.ps.plan ≠ .saving ∧ rev.toNat = s.ps.revision

/-- The command answers `t`, which is `base` after deliveries, with the request in service and the reply given. -/
def Completes (c : Instr) (s base : State) (tag : Byte) (r : Request) (reply : List Byte) : Prop :=
  ∃ t, exec c s = .next t ∧ Follows (base.inService tag (.request r) reply) t

/-- The command answers `t`, which is `base` after deliveries, and ST and FR have taken the change of the spaces. -/
def CompletesLayout (c : Instr) (s base : State) (tag : Byte) (r : Request) (reply : List Byte) : Prop :=
  ∃ t, exec c s = .next t ∧ Follows (base.inService tag (.request r) reply) t ∧ SpacesTaken s t

/-- The command is answered with a result code alone and changes nothing else (R178, R179). -/
def Refuses (c : Instr) (s : State) (tag : Byte) (r : Request) (result : Result) : Prop :=
  exec c s = .next (s.inService tag (.request r) [result.code])

/-- The reply of a taken plan edit: OK, the owner's items, the revision after it (R178, R182). -/
def editReply (s : State) (items : List Byte) : List Byte := Result.ok.code :: (items ++ two (nextRevision s.ps.revision))

/-- The layout with its space list as derived from its tables (R15–R17). -/
def Layout.derived (lu : Layout) : Layout := { lu with spaces := deriveSpaces lu }

/-! ## Invariants -/

/-- R20: the clock never stands later than 15.23:59:59; UNSET it is zero, EXPIRED it is the last time. -/
def ClockGood (c : Clock) : Prop :=
  c.day ≤ 15 ∧ c.minute ≤ 1439 ∧ c.second ≤ 59
    ∧ (c.mode = .unset → c.day = 0 ∧ c.minute = 0 ∧ c.second = 0)
    ∧ (c.mode = .expired → c.day = 15 ∧ c.minute = 1439 ∧ c.second = 59)

/-- R201: every option is in its range. -/
def OptionsGood (o : Options) : Prop := ∀ n, n < 15 → optionInRange n (o.value n) = true

/-- R101: the hold timer is 0–600, and 0 in RELEASED; the hold timeout in force is in its range. -/
def HoldGood (s : State) : Prop :=
  s.nu.timer ≤ 600 ∧ (s.nu.held = false → s.nu.timer = 0) ∧ (s.nu.held = true → 1 ≤ s.nu.timer)

/-- R191: an EMPTY or LOADING plan is at revision 0, a READY or SAVING plan at 1–65535, and a save runs exactly in SAVING. -/
def PlanGood (ps : PlanStore) : Prop :=
  ((ps.plan = .loading ∨ ps.plan = .empty) → ps.revision = 0)
    ∧ ((ps.plan = .ready ∨ ps.plan = .saving) → 1 ≤ ps.revision ∧ ps.revision ≤ 65535)
    ∧ (ps.save.isSome = true ↔ ps.plan = .saving)

/-- R114: records of a segment hold distinct short addresses, and a plan slot is bound to at most one record. -/
def RecordsGood (s : State) : Prop :=
  (∀ ix, Table.rising (s.seg ix).recs = true)
    ∧ ∀ ix a r jx b q n, s.rec? ix a = some r → s.rec? jx b = some q → r.binding = some n → q.binding = some n →
        ix = jx ∧ a = b

/-- Every table stands with its numbers rising. -/
def TablesGood (s : State) : Prop :=
  Table.rising s.lu.sections = true ∧ Table.rising s.lu.walls = true ∧ Table.rising s.lu.combos = true
    ∧ Table.rising s.sessions = true ∧ Table.rising s.nu.notices = true ∧ Table.rising s.nu.pins = true
    ∧ Table.rising s.ps.panels = true ∧ Table.rising s.fr.faces = true ∧ Table.rising s.fr.pages = true

/-- The text pool is in its canonical form (R55). -/
def TextGood (s : State) : Prop := s.text.wf = true

/-- A session record's fields are in their ranges, its sections rising (R32, R40, R46, R47). -/
def SessionInRange (r : Session) : Prop :=
  r.day ≤ 15 ∧ r.start < r.stop ∧ r.stop + r.extension ≤ 1440 ∧ r.extension ≤ 180
    ∧ 1 ≤ r.sections.length ∧ r.sections.length ≤ 12 ∧ r.sections.Pairwise (· < ·) ∧ (∀ i, i ∈ r.sections → i < 96)
    ∧ (∀ n, r.lead = some n → n ≤ 60) ∧ r.track ≤ 15 ∧ (∀ e, r.earlyEnd = some e → r.start < e)

/-- R31, R32, R38, R39: at most 512 records under the numbers 1–65535, each in range and current; no two that are not
cancelled share a section at one time. -/
structure SessionsGood (s : State) : Prop where
  rising : Table.rising s.sessions = true
  count : s.sessions.length ≤ 512
  ranges : ∀ e, e ∈ s.sessions → 1 ≤ e.1 ∧ e.1 ≤ 65535 ∧ SessionInRange e.2
  current : AllCurrent s
  clash : ∀ e f, e ∈ s.sessions → f ∈ s.sessions → e.1 ≠ f.1 → e.2.cancelled = false → f.2.cancelled = false →
    e.2.day = f.2.day → (∃ i, i ∈ e.2.sections ∧ i ∈ f.2.sections) →
      e.2.effectiveEnd ≤ f.2.start ∨ f.2.effectiveEnd ≤ e.2.start

/-- R15–R17: the space list is the one derived from LU's tables. -/
def SpacesGood (s : State) : Prop := s.lu.spaces = deriveSpaces s.lu

/-- R97, R100, R110, R115, R116: no two slots hold one serial; a record is bound to a defined slot of its own serial only; a
pin and a face stand for bound slots only, at most 16 pins. -/
structure BindingsGood (s : State) : Prop where
  serials : ∀ n m p q, Table.get s.ps.panels n = some p → Table.get s.ps.panels m = some q → p.serial = q.serial → n = m
  bound : ∀ ix a r n, s.rec? ix a = some r → r.binding = some n →
    ∃ p, Table.get s.ps.panels n = some p ∧ p.serial = r.serial
  pins : s.nu.pins.length ≤ 16 ∧ ∀ n, (Table.get s.nu.pins n).isSome = true → (s.holder n).isSome = true
  faces : ∀ n, (Table.get s.fr.faces n).isSome = true → (s.holder n).isSome = true

/-- The segment uses its bus for polls, refreshes and DROPs (R117, R122, R128). -/
def Seg.polls (g : Seg) : Prop := g.mode = .run ∨ g.mode = .draining

/-- The exchange in progress on a segment's bus belongs to the segment's state, and to the record or transfer it works on
(R117, R119, R129, R130, R137–R141, R159, R162, R166). -/
def Exchange.belongs (g : Seg) : Exchange → Prop
  | .poll _ => g.polls
  | .probe a => g.polls ∧ ∀ r, Table.get g.recs a = some r → r.state = .lost
  | .load a index total data => g.polls ∧ ∃ v, g.transfer = some v ∧ v.address = a ∧ v.next = index ∧ v.total = total
      ∧ data = chunkOf v.encoding index ∧ v.ready = false
  | .showFace a kind digest _ => g.polls ∧ ∃ v, g.transfer = some v ∧ v.address = a ∧ v.kind = kind ∧ v.digest = digest
      ∧ v.total ≤ v.next
  | .completion a => g.polls ∧ ∃ r f, Table.get g.recs a = some r ∧ r.state = .refreshing f
  | .drop _ => g.polls
  | .rollIdent a => g.mode = .starting ∧ a = g.rollAddr
  | .rollDrop a => g.mode = .starting ∧ a = g.rollAddr
  | .key => g.mode = .keying
  | .ask _ => g.mode = .searching
  | .give _ a => g.mode = .searching ∧ 1 ≤ a ∧ a ≤ 96 ∧ Table.get g.recs a = none
  | .giveDrop _ => g.mode = .searching

/-- The stems of a search: the one asked for, if an ASK is in progress, then the stack (R138). -/
def Seg.stems (g : Seg) : List Bits :=
  match g.bus with
  | some (.ask stem) => stem :: g.stack
  | _ => g.stack

/-- R138: the empty stem alone, or stems of 1–48 bits, no stem shorter than the ones below it and, the top one aside, each
longer than those below; so at most 49. -/
def StemsGood (l : List Bits) : Prop :=
  l = [[]] ∨ (l.length ≤ 49 ∧ (∀ x, x ∈ l → 1 ≤ x.length ∧ x.length ≤ 48)
    ∧ l.Pairwise (fun x y => y.length ≤ x.length) ∧ l.tail.Pairwise (fun x y => y.length < x.length))

/-- What the manual keeps true of one segment. -/
structure SegGood (g : Seg) : Prop where
  /-- R114, R117, R122, R129, R147: short addresses are 1–96, pending DROPs rising, counters in range. -/
  addresses : (∀ e, e ∈ g.recs → 1 ≤ e.1 ∧ e.1 ≤ 96) ∧ (∀ a, a ∈ g.drops → 1 ≤ a ∧ a ≤ 96) ∧ g.drops.Pairwise (· < ·)
    ∧ 1 ≤ g.pointer ∧ g.pointer ≤ 96 ∧ 1 ≤ g.rollAddr ∧ g.rollAddr ≤ 96 ∧ g.sequence < 4294967296
  /-- R146: an entry for each QUEUED record, once, and for no other; the queue stands in its order. -/
  queue : (g.queue.map (·.address)).Nodup ∧ g.queue.Pairwise (fun x y => y.before x = false)
    ∧ ∀ a, (∃ e, e ∈ g.queue ∧ e.address = a) ↔ ∃ r, Table.get g.recs a = some r ∧ r.state = .queued
  /-- R156: the transfer in flight is the LOADING record's. -/
  loading : ∀ a r, Table.get g.recs a = some r → (r.state = .loading ↔ ∃ v, g.transfer = some v ∧ v.address = a)
  /-- R159–R161: its record stands; a chunk is sent at most three times; it stands abandoned only while a LOAD runs. -/
  carried : ∀ v, g.transfer = some v → (Table.get g.recs v.address).isSome = true ∧ v.sends ≤ 3
    ∧ ((∀ a i n d, g.bus ≠ some (.load a i n d)) → v.sends ≤ 2 ∧ v.abandoned = false)
  /-- R153: the reserved draw is the sum of the draws in flight. -/
  reserved : g.reserved = (g.recs.map (fun e => e.2.reservedDraw)).sum
  /-- R151, R152: the ghost count stays within the class limit, below it while a PARTIAL refresh is on its way. -/
  ghosts : (∀ e, e ∈ g.recs → e.2.ghost ≤ ghostLimit e.2.cls)
    ∧ (∀ e f, e ∈ g.recs → e.2.state = .refreshing f → f.kind = .part → e.2.ghost < ghostLimit e.2.cls)
    ∧ (∀ v r, g.transfer = some v → v.kind = .part → Table.get g.recs v.address = some r → r.ghost < ghostLimit r.cls)
  /-- R107, R122: the exchange in progress belongs to the segment's state. -/
  exchange : ∀ e, g.bus = some e → e.belongs g
  /-- R134: nothing is in flight in KEYING, in SEARCHING and in STARTING. -/
  quiet : ¬ g.polls → ∀ e, e ∈ g.recs → e.2.state ≠ .loading ∧ ∀ f, e.2.state ≠ .refreshing f
  /-- R129: roll call has created records only below its address. -/
  rolled : g.mode = .starting → ∀ e, e ∈ g.recs → e.1 < g.rollAddr
  /-- R138, R143, R144: stems stand in SEARCHING only, a waiting stop in KEYING and SEARCHING only. -/
  search : StemsGood g.stems ∧ (g.mode ≠ .searching → g.stack = [])
    ∧ (g.stopWaiting = true → g.mode = .keying ∨ g.mode = .searching)

/-- Every segment so; while the plan is LOADING, every segment waits in STARTING with no record and a quiet bus (R129). -/
def SegmentsGood (s : State) : Prop :=
  ∀ ix, SegGood (s.seg ix)
    ∧ (s.ps.plan = .loading → (s.seg ix).mode = .starting ∧ (s.seg ix).bus = none ∧ (s.seg ix).recs = [])

/-! ## Spaces -/

/-- Two present sections are joined by one effectively stowed wall (R12, R15). -/
def Joined (lu : Layout) (x y : Nat) : Prop :=
  (Table.get lu.sections x).isSome = true ∧ (Table.get lu.sections y).isSome = true
    ∧ ∃ w, w ∈ lu.walls ∧ w.2.effective = .stowed ∧ ((w.2.a = x ∧ w.2.b = y) ∨ (w.2.a = y ∧ w.2.b = x))

/-- Two sections are joined by a chain of effectively stowed walls (R15). -/
inductive Chained (lu : Layout) (x : Nat) : Nat → Prop where
  | here : Chained lu x x
  | next {y z : Nat} : Chained lu x y → Joined lu y z → Chained lu x z

/-! ## Host frames -/

/-- Does a body fit its kind (R180 check 2, request catalogue, spec 12)? -/
def bodyFits (kind : Byte) (body : List Byte) : Prop :=
  let n := body.length
  match kind.toNat with
  | 0x14 => 7 ≤ n ∧ n = 7 + (body.getD 6 0).toNat
  | 0x30 => 17 ≤ n ∧ n = 17 + (body.getD 16 0).toNat
  | 0x40 => 5 ≤ n ∧ n ≤ 244
  | 0x01 => n = 0 | 0x02 => n = 0 | 0x06 => n = 0 | 0x07 => n = 0 | 0x1B => n = 0 | 0x22 => n = 0 | 0x54 => n = 0 | 0x55 => n = 0
  | 0x05 => n = 1 | 0x18 => n = 1 | 0x19 => n = 1 | 0x1C => n = 1 | 0x21 => n = 1 | 0x51 => n = 1 | 0x61 => n = 1 | 0x62 => n = 1
  | 0x63 => n = 1
  | 0x03 => n = 2 | 0x1A => n = 2 | 0x31 => n = 2 | 0x32 => n = 2 | 0x33 => n = 2 | 0x35 => n = 2 | 0x36 => n = 2 | 0x52 => n = 2
  | 0x53 => n = 2 | 0x60 => n = 2 | 0x64 => n = 2 | 0x65 => n = 2
  | 0x11 => n = 3 | 0x13 => n = 3 | 0x15 => n = 3 | 0x34 => n = 3 | 0x37 => n = 3 | 0x41 => n = 3 | 0x42 => n = 3
  | 0x04 => n = 4 | 0x17 => n = 4 | 0x20 => n = 4 | 0x56 => n = 4
  | 0x12 => n = 5
  | 0x50 => n = 9
  | 0x10 => n = 10
  | 0x16 => n = 18
  | _ => False

/-! ## The plan as an image holds it -/

/-- The plan's tables and options stand as the content check asks of an image (R194). -/
structure PlanSaveable (s : State) : Prop where
  revision : 1 ≤ s.ps.revision ∧ s.ps.revision ≤ 65535
  rising : Table.rising s.lu.sections = true ∧ Table.rising s.lu.walls = true ∧ Table.rising s.lu.combos = true
    ∧ Table.rising s.ps.panels = true
  sections : ∀ e, e ∈ s.lu.sections → e.1 < 96 ∧ e.2.name.page.toNat < 48
  walls : (∀ e, e ∈ s.lu.walls → e.1 < 48 ∧ e.2.a < e.2.b ∧ (Table.get s.lu.sections e.2.a).isSome = true
      ∧ (Table.get s.lu.sections e.2.b).isSome = true)
    ∧ ∀ e f, e ∈ s.lu.walls → f ∈ s.lu.walls → e.2.a = f.2.a → e.2.b = f.2.b → e.1 = f.1
  combos : (∀ e, e ∈ s.lu.combos → e.1 < 32 ∧ e.2.name.page.toNat < 48 ∧ 2 ≤ e.2.set.length ∧ e.2.set.length ≤ 12
      ∧ e.2.set.Pairwise (· < ·) ∧ ∀ i, i ∈ e.2.set → (Table.get s.lu.sections i).isSome = true)
    ∧ ∀ e f, e ∈ s.lu.combos → f ∈ s.lu.combos → e.2.set = f.2.set → e.1 = f.1
  panels : (∀ e, e ∈ s.ps.panels → e.1 < 384 ∧ match e.2.role with
      | .door sec => (Table.get s.lu.sections sec).isSome = true
      | .directory first count heading => (Table.get s.lu.sections first).isSome = true ∧ 1 ≤ count ∧ first + count ≤ 96
          ∧ heading.page.toNat < 48)
    ∧ ∀ e f, e ∈ s.ps.panels → f ∈ s.ps.panels → e.2.serial = f.2.serial → e.1 = f.1
  options : OptionsGood s.ps.options ∧ s.ps.options.privateText.page.toNat < 48

end Sys2Proof.Machine
end

