-- ==== Sys2Proof/Certificates/Slice0/Obligations.lean ====
section
/-! DEFINITION. The statements for the provers. -/

section Statements

open Sys2Proof Sys2Proof.Machine

/-! ## The step -/

/-- A step takes the command at the front of the queue and runs it on the state with the queue's rest. -/
def Obligations.StepTakesFrontCommand : Prop :=
  ∀ (c : Instr) (rest : List Instr) (s : State), step { s with pending := c :: rest } = exec c { s with pending := rest }

/-- The values after power-on that the manual gives, block by block. -/
def Obligations.ResetGivesTheManualsValues : Prop :=
  let s := State.reset
  (s.li.receiver = .hunting ∧ s.li.service = none ∧ s.li.waiting = none ∧ s.li.attention = Flag.start.bit
      ∧ s.li.mask = 0xFFFF ∧ s.li.cause = .power ∧ s.li.attn = true)
    ∧ (s.lu.sections = [] ∧ s.lu.walls = [] ∧ s.lu.combos = [] ∧ s.lu.spaces = [])
    ∧ (s.clock.mode = .unset ∧ s.clock.day = 0 ∧ s.clock.minute = 0 ∧ s.clock.second = 0)
    ∧ s.sessions = [] ∧ (∀ a, s.text.read a = 0) ∧ s.fr.faces = [] ∧ s.fr.pages = []
    ∧ (s.nu.notices = [] ∧ s.nu.pins = [] ∧ s.nu.held = false ∧ s.nu.timer = 0)
    ∧ (∀ ix, (s.seg ix).mode = .starting ∧ (s.seg ix).recs = [] ∧ (s.seg ix).pointer = 1 ∧ (s.seg ix).drops = []
        ∧ (s.seg ix).queue = [] ∧ (s.seg ix).sequence = 0 ∧ (s.seg ix).transfer = none ∧ (s.seg ix).reserved = 0
        ∧ (s.seg ix).rollAddr = 1 ∧ (s.seg ix).stack = [] ∧ (s.seg ix).lastEnrol = none ∧ (s.seg ix).enrolCount = 0
        ∧ (s.seg ix).stopWaiting = false ∧ (s.seg ix).bus = none)
    ∧ (s.ps.plan = .loading ∧ s.ps.revision = 0 ∧ s.ps.panels = [] ∧ s.ps.lastSave = .never ∧ s.ps.save = none)
    ∧ (s.ps.options.settle = 8 ∧ s.ps.options.travel = 240 ∧ s.ps.options.doorLead = 15 ∧ s.ps.options.nextWindow = 120
        ∧ s.ps.options.horizon = 90 ∧ s.ps.options.carousel = 2 ∧ s.ps.options.quiet = some 240
        ∧ s.ps.options.refreshFloor = -5 ∧ s.ps.options.missLimit = 3 ∧ s.ps.options.holdTimeout = 120
        ∧ s.ps.options.passLimit = 4 ∧ (∀ ix, s.budget ix = 300)
        ∧ s.ps.options.privateText = { page := 0, offset := 0, length := 0 })

/-! ## The host line -/

/-- The body of every request, read by its kind, gives the request back: no bit of a body is dropped. -/
def Obligations.RequestBodyReadsBack : Prop :=
  ∀ r : Request, r.fits = true → Request.read r.kind r.body = .request r

/-- HOST_FRAME_RECEIVED: the bytes of a good frame, received in HUNTING, do what the request's own row does; a body that fits
its kind is such a request's, a body that does not is answered LENGTH, and a kind outside the catalogue UNKNOWN; a frame whose
CRC-16 differs is discarded, and the receiver enters RESYNC. The CRC-16 byte by byte (R207). -/
def Obligations.FramesAreTakenOrDiscarded : Prop :=
  (crc16 [] = 0xFFFF ∧ ∀ (bytes : List Byte) (b : Byte),
    let shift (r : Half) : Half := if r.getLsbD 15 then (r <<< 1) ^^^ 0x1021 else r <<< 1
    crc16 (bytes ++ [b]) = (List.range 8).foldl (fun r _ => shift r) (crc16 bytes ^^^ (b.setWidth 16 <<< 8)))
  ∧ ∀ s : State, s.resetPin = false → s.li.receiver = .hunting →
    (∀ (r : Request) (tag : Byte), r.fits = true →
      exec (.hostFrameReceived (hostFrame r.kind tag r.body)) s = exec (rowOf tag r) s)
    ∧ (∀ (kind : Byte) (body : List Byte), bodyFits kind body → ∃ r : Request, r.fits = true ∧ r.kind = kind ∧ r.body = body)
    ∧ (∀ (kind tag : Byte) (body : List Byte), body.length ≤ 1024 →
        let c := Instr.hostFrameReceived (hostFrame kind tag body)
        (kind ∈ requestKinds → ¬ bodyFits kind body → s.li.service = none →
          exec c s = .next (s.inService tag (.badLength kind) [0x01]))
        ∧ (kind ∉ requestKinds → exec c s = exec (.unknownKind tag kind body) s)
        ∧ (kind ∉ requestKinds → s.li.service = none → exec c s = .next (s.inService tag (.unknownKind kind) [0x02])))
    ∧ (∀ (kind tag : Byte) (body : List Byte) (crc : Half), body.length ≤ 1024 →
        crc ≠ crc16 (two body.length ++ [kind, tag] ++ body) →
        exec (.hostFrameReceived (startByte :: (two body.length ++ [kind, tag] ++ body ++ halfBytes crc))) s
          = .next (setReceiver .resync s))

/-- FRAME_START_BYTE, LEN_BYTES_IN, FRAMING_ERROR_BYTE, RECEIVE_GAP_TIMEOUT, RESYNC_GAP_TIMEOUT in the state each belongs
to; only the receiver changes. -/
def Obligations.ReceiverMovesByByteAndGap : Prop :=
  ∀ s : State, s.resetPin = false →
    (s.li.receiver = .hunting →
      exec (.frameStartByte 0xA5) s = .next (setReceiver (.receiving []) s)
      ∧ ∀ b : Byte, b ≠ 0xA5 → exec (.frameStartByte b) s = .next s)
    ∧ (s.li.receiver = .receiving [] → ∀ high low : Byte,
        exec (.lenBytesIn high low) s
          = .next (setReceiver (if 1024 < num2 high low then .resync else .receiving [high, low]) s))
    ∧ (∀ got, s.li.receiver = .receiving got →
        exec .framingErrorByte s = .next (setReceiver .resync s)
        ∧ exec .receiveGapTimeout s = .next (setReceiver .hunting s))
    ∧ (s.li.receiver = .resync →
        exec .resyncGapTimeout s = .next (setReceiver .hunting s) ∧ exec .framingErrorByte s = .next s
        ∧ ∀ bytes, exec (.hostFrameReceived bytes) s = .next s)

/-- A complete request enters service at once when LI holds nothing, waits behind the one in service, and is discarded with
LINK when two are held. -/
def Obligations.InputBufferHoldsTwoRequests : Prop :=
  ∀ (s : State) (tag : Byte) (r : Request), s.resetPin = false →
    (s.li.service = none → exec (rowOf tag r) s = .next (enterService { tag, asked := .request r } s))
    ∧ (∀ v, s.li.service = some v → s.li.waiting = none →
        exec (rowOf tag r) s = .next { s with li := { s.li with waiting := some { tag, asked := .request r } } })
    ∧ (∀ v w, s.li.service = some v → s.li.waiting = some w → exec (rowOf tag r) s = .next (raise .link s))

/-- REPLY_SENT ends the service of any request but a RESTART taken: the waiting frame, if any, enters service. The frame of a
reply carries the request's KIND plus 0x80, its TAG and the reply body. -/
def Obligations.ReplySentEndsService : Prop :=
  ∀ (s : State) (v : InService), s.resetPin = false → s.li.service = some v → v.restarts = false →
    (s.li.waiting = none → exec .replySent s = .next { s with li := { s.li with service := none } })
    ∧ (∀ w, s.li.waiting = some w →
        exec .replySent s = .next (enterService w { s with li := { s.li with service := none, waiting := none } }))
    ∧ (let body := v.reply
       let covered := two body.length ++ [v.held.asked.kind + 0x80, v.held.tag] ++ body
       replyFrame v.held.asked.kind v.held.tag body = [0xA5] ++ covered ++ halfBytes (crc16 covered))

/-- A refused request changes nothing but that it is in service with its reply; LOADING refuses every kind except IDENTIFY
and STATUS with NOT-READY. -/
def Obligations.RefusalsChangeNothing : Prop :=
  ∀ (s : State) (tag : Byte) (r : Request), Free s →
    (∀ result more, commonRefusal r s = some (result, more) →
      exec (rowOf tag r) s = .next (s.inService tag (.request r) (result.code :: more)))
    ∧ (∀ result, commonRefusal r s = none → owner r s = .error result → Refuses (rowOf tag r) s tag r result)
    ∧ (r.fits = true → s.ps.plan = .loading → r ≠ .identify → r ≠ .status → Refuses (rowOf tag r) s tag r .notReady)

/-- The guard of plan edits: BUSY in SAVING, STALE with the current revision on a mismatch; a taken edit advances the
revision, from 0 to 1 and from 65535 to 1, makes an EMPTY plan READY, and reports the revision last. -/
def Obligations.PlanEditsAreGuardedByRevision : Prop :=
  ∀ (s : State) (tag : Byte) (r : Request) (rev : Half), Free s → r.fits = true → expectedRevision r = some rev →
    s.ps.plan ≠ .loading →
    (s.ps.plan = .saving → Refuses (rowOf tag r) s tag r .busy)
    ∧ (s.ps.plan ≠ .saving → rev.toNat ≠ s.ps.revision →
        exec (rowOf tag r) s = .next (s.inService tag (.request r) (Result.stale.code :: two s.ps.revision)))
    ∧ (s.ps.plan ≠ .saving → rev.toNat = s.ps.revision → ∀ u items, owner r s = .ok (u, items) →
        u.ps.plan = s.ps.plan ∧ u.ps.revision = s.ps.revision ∧
        exec (rowOf tag r) s
          = .next (({ u with ps := { u.ps with
              plan := .ready, revision := if s.ps.revision = 65535 then 1 else s.ps.revision + 1 } }).inService tag (.request r)
                (Result.ok.code :: (items ++ two (if s.ps.revision = 65535 then 1 else s.ps.revision + 1)))))

/-! ## LI's own requests -/

/-- IDENTIFY replies with the part's identity and the revision; RESTART is first answered OK; UNKNOWN_KIND is answered UNKNOWN.
None changes anything else. -/
def Obligations.IdentifyRestartAndUnknownKindsAreAnswered : Prop :=
  (∀ (s : State) (tag : Byte), Free s →
    exec (.identify tag) s = .next (s.inService tag (.request .identify)
      ([0x00] ++ two 0x0384 ++ [1]
        ++ (two 96 ++ two 48 ++ two 32 ++ two 512 ++ two 48 ++ two 256 ++ two 16 ++ two 16 ++ two 384 ++ two 4 ++ two 96
            ++ two 2048 ++ two 1024)
        ++ two s.ps.revision)))
  ∧ (∀ (s : State) (tag : Byte), Free s → s.ps.plan ≠ .loading →
    exec (.restart tag) s = .next (s.inService tag (.request .restart) [0x00]))
  ∧ (∀ (s : State) (tag kind : Byte) (body : List Byte), Free s → kind ∉ requestKinds →
    exec (.unknownKind tag kind body) s = .next (s.inService tag (.unknownKind kind) [0x02]))

/-- STATUS returns the flags, mask, cause, plan, save, clock and segment summaries, and clears exactly the flags it
returned; ATTN is judged. -/
def Obligations.StatusReturnsAndClearsFlags : Prop :=
  ∀ (s : State) (tag : Byte), Free s →
    exec (.status tag) s = .next
      (({ s with li := { s.li with attention := 0, attn := false } }).inService tag (.request .status)
        ([0x00] ++ halfBytes s.li.attention ++ halfBytes s.li.mask ++ [s.li.cause.code, s.ps.plan.code]
          ++ two s.ps.revision ++ [s.ps.lastSave.code, s.clock.mode.code]
          ++ segmentSummary (s.seg .sc0) ++ segmentSummary (s.seg .sc1) ++ segmentSummary (s.seg .sc2)
          ++ segmentSummary (s.seg .sc3)))

/-- SET-MASK stores the mask as given and judges ATTN; the attention set is not changed. -/
def Obligations.SetMaskJudgesAttn : Prop :=
  ∀ (s : State) (tag : Byte) (mask : Half), Free s → s.ps.plan ≠ .loading →
    exec (.setMask tag mask) s = .next
      (({ s with li := { s.li with mask := mask, attn := decide (s.li.attention &&& mask ≠ 0) } }).inService tag
        (.request (.setMask mask)) ([0x00] ++ halfBytes mask))

/-- REPLY_SENT after a RESTART taken: START is raised in a cleared set, cause RESTART, mask all enabled; clock, sessions,
schedule pages, notices, pins and hold are reset, sections re-opened, page indices 0, every face as its inputs then give it;
the plan, the segments' records and flights are kept. Then the service ends, and a waiting frame enters service. -/
def Obligations.RestartClearsTheDay : Prop :=
  ∀ (s : State) (v : InService), s.resetPin = false → s.li.service = some v → v.restarts = true →
    ∃ u : State,
      (s.li.waiting = none → exec .replySent s = .next { u with li := { u.li with service := none } })
      ∧ (∀ w, s.li.waiting = some w →
          exec .replySent s = .next (enterService w { u with li := { u.li with service := none, waiting := none } }))
      ∧ flagSet u .start = true ∧ (∀ f : Flag, f ≠ .start → f ≠ .layout → f ≠ .panel → flagSet u f = false)
      ∧ u.li.attention &&& 0xF000 = 0 ∧ u.li.mask = 0xFFFF ∧ u.li.cause = .restart ∧ u.li.attn = true
      ∧ u.li.service = s.li.service ∧ u.li.waiting = s.li.waiting ∧ u.li.receiver = s.li.receiver ∧ u.li.served = s.li.served
      ∧ u.clock = { mode := .unset, day := 0, minute := 0, second := 0 } ∧ u.sessions = []
      ∧ u.nu = { notices := [], pins := [], held := false, timer := 0 }
      ∧ (∀ a, u.text.read a = if a < 16 * 256 then s.text.read a else 0)
      ∧ u.lu.sections = Table.mapVals (fun x => { x with closed := false }) s.lu.sections
      ∧ u.lu.walls = s.lu.walls ∧ u.lu.combos = s.lu.combos ∧ u.lu.spaces = deriveSpaces u.lu
      ∧ (∀ e, e ∈ u.fr.pages → e.2 = 0) ∧ FacesNow u
      ∧ u.ps = s.ps ∧ (∀ ix, (u.seg ix).kept = (s.seg ix).kept) ∧ u.time = s.time ∧ u.pending = s.pending
      ∧ u.resetPin = false

/-! ## PS -/

/-- SET-OPTION applies the value clamped to its range, −1 being OFF for the quiet minute, and replies with the value applied;
an option number above 15 or a text page above 47 gives RANGE. A changed door lead re-evaluates every session; a changed next
window, horizon or private text recomputes every bound slot; a changed refresh floor judges every record's cold flag. The
other options change nothing else at once. -/
def Obligations.SetOptionClampsAndApplies : Prop :=
  let ranges : List (Int × Int) :=
    [(2, 32), (8, 1200), (0, 60), (15, 480), (15, 480), (1, 15), (0, 1439), (100, 1000), (100, 1000), (100, 1000),
     (100, 1000), (-20, 10), (2, 8), (10, 600), (1, 15)]
  let values (o : Options) : List Int :=
    [o.settle, o.travel, o.doorLead, o.nextWindow, o.horizon, o.carousel, (o.quiet.map Int.ofNat).getD (-1), o.budget0,
     o.budget1, o.budget2, o.budget3, o.refreshFloor, o.missLimit, o.holdTimeout, o.passLimit]
  ∀ (s : State) (tag number : Byte) (v : OptionValue), Free s → s.ps.plan ≠ .loading →
    let n := number.toNat
    let r := Request.setOption number v
    let c := Instr.setOption tag number v
    let sent := (half v.first v.second).toInt
    let text : TextRef := ⟨v.first, v.second, v.third⟩
    let done (base : State) (reply : List Byte) : State := base.inService tag (.request r) reply
    (15 < n → Refuses c s tag r .range)
    ∧ (n = 15 → 48 ≤ v.first.toNat → Refuses c s tag r .range)
    ∧ (n = 15 → v.first.toNat < 48 →
        let base := s.setOptions { s.ps.options with privateText := text }
        let reply := [0x00, number] ++ text.bytes
        (text = s.ps.options.privateText → exec c s = .next (done s reply))
        ∧ (text ≠ s.ps.options.privateText → ∃ t, exec c s = .next t ∧ Follows (done base reply) t ∧ t.sessions = s.sessions
            ∧ FacesNow t))
    ∧ (∀ low high, ranges[n]? = some (low, high) →
        let a := if n = 6 ∧ sent = -1 then -1 else max low (min high sent)
        let reply := [0x00, number] ++ signedTwo a
        ∃ o : Options, values o = (values s.ps.options).set n a ∧ o.privateText = s.ps.options.privateText
          ∧ (o = s.ps.options → exec c s = .next (done s reply))
          ∧ (n ≠ 2 → n ≠ 3 → n ≠ 4 → n ≠ 11 → exec c s = .next (done (s.setOptions o) reply))
          ∧ (n = 2 → o ≠ s.ps.options → ∃ t, exec c s = .next t ∧ Follows (done (s.setOptions o) reply) t ∧ AllCurrent t
              ∧ (∀ k x y, Table.get s.sessions k = some x → Table.get t.sessions k = some y →
                  (x.phase ≠ y.phase ∨ x.home ≠ y.home ∨ x.placed ≠ y.placed → FacesNow t)
                  ∧ (x.warned = false → y.warned = true → flagSet t .layout = true)))
          ∧ (n = 3 ∨ n = 4 → o ≠ s.ps.options → ∃ t, exec c s = .next t ∧ Follows (done (s.setOptions o) reply) t
              ∧ t.sessions = s.sessions ∧ FacesNow t)
          ∧ (n = 11 → o ≠ s.ps.options → ∃ t, exec c s = .next t
              ∧ t.ps = (s.setOptions o).ps
              ∧ t.li = { (done s reply).li with attention := t.li.attention, attn := t.li.attn }
              ∧ (t.li.attention = s.li.attention ∨ t.li.attention = s.li.attention ||| Flag.cold.bit)
              ∧ t.lu = s.lu ∧ t.clock = s.clock ∧ t.sessions = s.sessions ∧ t.text = s.text ∧ t.nu = s.nu ∧ t.fr = s.fr
              ∧ t.time = s.time ∧ t.pending = s.pending ∧ t.resetPin = s.resetPin
              ∧ (∀ ix, ({ t.seg ix with recs := [], queue := [], sequence := 0 } : Seg)
                  = { s.seg ix with recs := [], queue := [], sequence := 0 })
              ∧ (∀ ix k, s.rec? ix k = none → t.rec? ix k = none)
              ∧ (∀ ix k x, s.rec? ix k = some x →
                  let cold := decide (x.temp < a)
                  let y := { x with cold }
                  (cold = x.cold → t.rec? ix k = some x)
                  ∧ (cold ≠ x.cold → t.rec? ix k = some { y with
                      state := if x.state = .online ∨ x.state = .queued then (if y.needs then .queued else .online)
                        else x.state })
                  ∧ (cold = true → x.cold = false → flagSet t .cold = true))))

/-- SAVE-PLAN in READY makes the plan SAVING with the body built from what stands, and replies with the revision; EMPTY gives
WRONG-STATE and SAVING gives BUSY. -/
def Obligations.SavePlanStartsASave : Prop :=
  ∀ (s : State) (tag : Byte), Free s →
    (s.ps.plan = .empty → Refuses (.savePlan tag) s tag .savePlan .wrongState)
    ∧ (s.ps.plan = .saving → Refuses (.savePlan tag) s tag .savePlan .busy)
    ∧ (s.ps.plan = .ready → exec (.savePlan tag) s = .next
        (({ s with ps := { s.ps with
            plan := .saving
            save := some { stage := .erase, body := imageBody (imageOf s), revision := s.ps.revision } } }).inService tag
          (.request .savePlan) ([0x00] ++ two s.ps.revision)))

/-- SAVE_ERASE, SAVE_BODY, SAVE_HEADER, FLASH_READY_TIMEOUT: each stage passed leads to the next, the header stage to an OK
save; a stage failed ends the save FAILED, with the header left erased before the header stage and its marker written over
with 0x00 in it; what else a failed stage leaves unsettled are the free bytes of log 9. At the end the result is set, the plan is
READY and SAVE is raised; the revision and the rest of the part are as they were. -/
def Obligations.SaveRunsInThreeStages : Prop :=
  ∀ (s : State) (v : Save), s.resetPin = false → s.ps.save = some v →
    let at_ (stage : SaveStage) (bytes : List Byte) : State :=
      { s with ps := { s.ps with save := some { v with stage }, flash := { bytes, beyond := none, torn := false } } }
    let failed (flash : Flash) : State := raise .save { s with ps := { s.ps with
      lastSave := .failed, plan := .ready, save := none, flash } }
    let n := s.li.served
    let unwritten : Flash := { bytes := List.replicate 16 0xFF, beyond := some n, torn := false }
    let marked : Flash :=
      { bytes := [0x00, 0x00, 0x00, 0x00] ++ (List.range 12).map (fun i => Config.flashByte n (4 + i)) ++ v.body
        beyond := none, torn := false }
    (v.stage = .erase → exec (.saveErase true) s = .next (at_ .body [])
        ∧ exec (.saveErase false) s = .next (failed unwritten) ∧ exec .flashReadyTimeout s = .next (failed unwritten))
    ∧ (v.stage = .body → exec (.saveBody true) s = .next (at_ .header (List.replicate 16 0xFF ++ v.body))
        ∧ exec (.saveBody false) s = .next (failed unwritten) ∧ exec .flashReadyTimeout s = .next (failed unwritten))
    ∧ (v.stage = .header →
        exec (.saveHeader true) s = .next (raise .save { s with ps := { s.ps with
          lastSave := .ok, plan := .ready, save := none
          flash := { bytes := imageHeader v.revision v.body ++ v.body, beyond := none, torn := false } } })
        ∧ exec (.saveHeader false) s = .next (failed marked) ∧ exec .flashReadyTimeout s = .next (failed marked))
    ∧ readImage unwritten = none ∧ readImage marked = none

/-! ## LU -/

/-- DEFINE-SECTION and REMOVE-SECTION, with their checks in order, and the spaces derived afresh. -/
def Obligations.SectionsAreDefinedAndRemoved : Prop :=
  (∀ (s : State) (tag : Byte) (rev : Half) (index : Byte) (name : TextRef) (code : ShortCode),
    let r := Request.defineSection rev index name code
    let c := Instr.defineSection tag rev index name code
    Serves s r →
    (96 ≤ index.toNat ∨ 48 ≤ name.page.toNat → Refuses c s tag r .range)
    ∧ (index.toNat < 96 → name.page.toNat < 48 →
        let closed := match Table.get s.lu.sections index.toNat with
          | some x => x.closed
          | none => false
        CompletesLayout c s (commitEdit { s with lu := ({ s.lu with
          sections := Table.put s.lu.sections index.toNat { name, code, closed } } : Layout).derived }) tag r (editReply s [])))
  ∧ (∀ (s : State) (tag : Byte) (rev : Half) (index : Byte),
    let r := Request.removeSection rev index
    let c := Instr.removeSection tag rev index
    let i := index.toNat
    let used := (∃ w, w ∈ s.lu.walls ∧ (w.2.a = i ∨ w.2.b = i)) ∨ (∃ x, x ∈ s.lu.combos ∧ i ∈ x.2.set)
      ∨ (∃ e, e ∈ s.sessions ∧ i ∈ e.2.sections)
      ∨ (∃ p, p ∈ s.ps.panels ∧ (p.2.role = .door i ∨ ∃ count heading, p.2.role = .directory i count heading))
    Serves s r →
    (96 ≤ i → Refuses c s tag r .range)
    ∧ (i < 96 → Table.get s.lu.sections i = none → Refuses c s tag r .notFound)
    ∧ (i < 96 → (Table.get s.lu.sections i).isSome → used → Refuses c s tag r .inUse)
    ∧ (i < 96 → (Table.get s.lu.sections i).isSome → ¬ used →
        CompletesLayout c s (commitEdit { s with lu := ({ s.lu with sections := Table.del s.lu.sections i } : Layout).derived }) tag r
          (editReply s [])))

/-- CLOSE-SECTION and OPEN-SECTION set and clear the closed flag; a flag already so changes nothing. -/
def Obligations.SectionsAreClosedAndOpened : Prop :=
  ∀ (s : State) (tag index : Byte) (closed : Bool), Free s → s.ps.plan ≠ .loading →
    let r := if closed then Request.closeSection index else Request.openSection index
    let c := if closed then Instr.closeSection tag index else Instr.openSection tag index
    (96 ≤ index.toNat → Refuses c s tag r .range)
    ∧ (index.toNat < 96 → Table.get s.lu.sections index.toNat = none → Refuses c s tag r .notFound)
    ∧ (∀ x, index.toNat < 96 → Table.get s.lu.sections index.toNat = some x → x.closed = closed →
        exec c s = .next (s.inService tag (.request r) [0x00]))
    ∧ (∀ x, index.toNat < 96 → Table.get s.lu.sections index.toNat = some x → x.closed ≠ closed →
        CompletesLayout c s { s with lu := ({ s.lu with
          sections := Table.put s.lu.sections index.toNat { x with closed } } : Layout).derived } tag r [0x00])

/-- DEFINE-WALL and REMOVE-WALL: the checks in order, the lower section first, forced position and filter state kept by a
redefinition, and the spaces derived afresh. -/
def Obligations.WallsAreDefinedAndRemoved : Prop :=
  (∀ (s : State) (tag : Byte) (rev : Half) (wall first second : Byte),
    let r := Request.defineWall rev wall first second
    let c := Instr.defineWall tag rev wall first second
    let x := first.toNat
    let y := second.toNat
    let ranged := wall.toNat < 48 ∧ x < 96 ∧ y < 96 ∧ x ≠ y
    let present := (Table.get s.lu.sections x).isSome ∧ (Table.get s.lu.sections y).isSome
    let joined := ∃ e, e ∈ s.lu.walls ∧ e.1 ≠ wall.toNat ∧ ((e.2.a = x ∧ e.2.b = y) ∨ (e.2.a = y ∧ e.2.b = x))
    Serves s r →
    (¬ ranged → Refuses c s tag r .range)
    ∧ (ranged → ¬ present → Refuses c s tag r .notFound)
    ∧ (ranged → present → joined → Refuses c s tag r .clash)
    ∧ (ranged → present → ¬ joined →
        let w : Wall := match Table.get s.lu.walls wall.toNat with
          | some w => { w with a := min x y, b := max x y }
          | none => { a := min x y, b := max x y, forced := .free, last := .nothing, candidate := .nothing, run := 0
                      filtered := .unknown }
        CompletesLayout c s (commitEdit { s with lu := ({ s.lu with walls := Table.put s.lu.walls wall.toNat w } : Layout).derived })
          tag r (editReply s [])))
  ∧ (∀ (s : State) (tag : Byte) (rev : Half) (wall : Byte),
    let r := Request.removeWall rev wall
    let c := Instr.removeWall tag rev wall
    Serves s r →
    (48 ≤ wall.toNat → Refuses c s tag r .range)
    ∧ (wall.toNat < 48 → Table.get s.lu.walls wall.toNat = none → Refuses c s tag r .notFound)
    ∧ (wall.toNat < 48 → (Table.get s.lu.walls wall.toNat).isSome →
        CompletesLayout c s (commitEdit { s with lu := ({ s.lu with walls := Table.del s.lu.walls wall.toNat } : Layout).derived })
          tag r (editReply s [])))

/-- FORCE-WALL: the forced position becomes the one given, and the reply carries the effective position after the change.
The spaces are derived afresh when the effective position changes. -/
def Obligations.ForceWallSetsTheForcedPosition : Prop :=
  ∀ (s : State) (tag wall position : Byte), Free s → s.ps.plan ≠ .loading →
    let r := Request.forceWall wall position
    let c := Instr.forceWall tag wall position
    (48 ≤ wall.toNat ∨ 2 < position.toNat → Refuses c s tag r .range)
    ∧ (wall.toNat < 48 → position.toNat ≤ 2 → Table.get s.lu.walls wall.toNat = none → Refuses c s tag r .notFound)
    ∧ (∀ w p, wall.toNat < 48 → Forced.code p = position → Table.get s.lu.walls wall.toNat = some w →
        let w' : Wall := { w with forced := p }
        let lu : Layout := { s.lu with walls := Table.put s.lu.walls wall.toNat w' }
        CompletesLayout c s { s with lu := if w'.effective = w.effective then lu else lu.derived } tag r [0x00, w'.effective.code])

/-- WALL_SCAN: every defined wall takes the reading of its two contacts, counts the run and is judged by the settle count and the
travel limit; WALL is raised when a filtered state changes, and while none does nothing but the walls changes; a space list that
was as derived is so after the scan; nothing else changes but by deliveries. The effective position of a wall. The derived list:
each present section in one space, two in the same exactly when a chain of effectively stowed walls joins them, sections and
anchors rising; the name, source and more-count by an equal combination or the anchor; closed exactly when every section is. -/
def Obligations.WallScanSamplesEveryWall : Prop :=
  (∀ lu : Layout, Table.rising lu.sections = true →
    let list := deriveSpaces lu
    (∀ i, (Table.get lu.sections i).isSome = true ↔ ∃ p, p ∈ list ∧ i ∈ p.sections)
    ∧ (∀ p q i, p ∈ list → q ∈ list → i ∈ p.sections → i ∈ q.sections → p = q)
    ∧ (∀ i j p, p ∈ list → i ∈ p.sections → (j ∈ p.sections ↔ Chained lu i j))
    ∧ list.Pairwise (fun p q => p.anchor < q.anchor)
    ∧ (∀ p, p ∈ list → p.sections.Pairwise (· < ·) ∧ p.sections.head? = some p.anchor
        ∧ (p.closed = true ↔ ∀ i x, i ∈ p.sections → Table.get lu.sections i = some x → x.closed = true)
        ∧ ((∃ c, c ∈ lu.combos ∧ c.2.set = p.sections) →
            ∃ c, c ∈ lu.combos ∧ c.2.set = p.sections ∧ p.name = c.2.name ∧ p.source = .combo c.1 ∧ p.more = 0)
        ∧ ((∀ c, c ∈ lu.combos → c.2.set ≠ p.sections) → p.source = .anchor p.anchor ∧ p.more = p.sections.length - 1
            ∧ ∀ x, Table.get lu.sections p.anchor = some x → p.name = x.name)))
  ∧ (∀ w : Wall, w.effective =
      if w.forced = .stowed then .stowed
      else if w.forced = .deployed then .deployed
      else if w.filtered = .stowed then .stowed
      else .deployed)
  ∧ ∀ (s : State) (contacts : BitVec 96), s.resetPin = false → s.ps.plan ≠ .loading → Table.rising s.lu.walls = true →
    let settle := s.ps.options.settle
    let travel := s.ps.options.travel
    let reading (i : Nat) : Reading :=
      if contacts.getLsbD (2 * i) then (if contacts.getLsbD (2 * i + 1) then .conflict else .stowed)
      else if contacts.getLsbD (2 * i + 1) then .deployed
      else .travel
    let judged (i : Nat) (w : Wall) : Wall :=
      let run := if reading i = w.candidate then min (w.run + 1) 65535 else 1
      let filtered : Filtered :=
        if reading i = .stowed ∧ settle ≤ run then .stowed
        else if reading i = .deployed ∧ settle ≤ run then .deployed
        else if (reading i = .travel ∧ travel ≤ run) ∨ (reading i = .conflict ∧ settle ≤ run) then .fault
        else w.filtered
      { w with last := reading i, candidate := reading i, run, filtered }
    ∃ t, exec (.wallScan contacts) s = .next t
      ∧ (∀ i, Table.get t.lu.walls i = (Table.get s.lu.walls i).map (judged i))
      ∧ (∀ i w, Table.get s.lu.walls i = some w → (judged i w).filtered ≠ w.filtered → flagSet t .wall = true)
      ∧ ((∀ i w, Table.get s.lu.walls i = some w → (judged i w).filtered = w.filtered) →
          t = { s with lu := { s.lu with walls := t.lu.walls } })
      ∧ t.lu.sections = s.lu.sections ∧ t.lu.combos = s.lu.combos
      ∧ (s.lu.spaces = deriveSpaces s.lu → t.lu.spaces = deriveSpaces t.lu)
      ∧ Follows { s with lu := t.lu } t ∧ SpacesTaken s t

/-- DEFINE-COMBINATION and REMOVE-COMBINATION: the checks in order, the set stored ascending, the spaces derived afresh. -/
def Obligations.CombinationsAreDefinedAndRemoved : Prop :=
  (∀ (s : State) (tag : Byte) (rev : Half) (index : Byte) (name : TextRef) (sections : List Byte),
    let r := Request.defineCombination rev index name sections
    let c := Instr.defineCombination tag rev index name sections
    let list := sections.map (·.toNat)
    let ranged := index.toNat < 32 ∧ name.page.toNat < 48 ∧ 2 ≤ list.length ∧ list.length ≤ 12 ∧ (∀ i, i ∈ list → i < 96)
      ∧ hasRepeat list = false
    let present := ∀ i, i ∈ list → (Table.get s.lu.sections i).isSome
    let held := ∃ e, e ∈ s.lu.combos ∧ e.1 ≠ index.toNat ∧ e.2.set = sortNat list
    Serves s r →
    (¬ ranged → Refuses c s tag r .range)
    ∧ (ranged → ¬ present → Refuses c s tag r .notFound)
    ∧ (ranged → present → held → Refuses c s tag r .clash)
    ∧ (ranged → present → ¬ held →
        CompletesLayout c s (commitEdit { s with lu := ({ s.lu with
          combos := Table.put s.lu.combos index.toNat { set := sortNat list, name } } : Layout).derived }) tag r (editReply s [])))
  ∧ (∀ (s : State) (tag : Byte) (rev : Half) (index : Byte),
    let r := Request.removeCombination rev index
    let c := Instr.removeCombination tag rev index
    Serves s r →
    (32 ≤ index.toNat → Refuses c s tag r .range)
    ∧ (index.toNat < 32 → Table.get s.lu.combos index.toNat = none → Refuses c s tag r .notFound)
    ∧ (index.toNat < 32 → (Table.get s.lu.combos index.toNat).isSome →
        CompletesLayout c s (commitEdit { s with lu := ({ s.lu with combos := Table.del s.lu.combos index.toNat } : Layout).derived })
          tag r (editReply s [])))

/-! ## Reading requests -/

/-- READ-OPTION, READ-WALLS, READ-SPACES, READ-CLOCK, LIST-SESSIONS, READ-TEXT reply OK with their items and change nothing
else; a number, anchor, position, page or count out of range gives RANGE. Items are in the order and widths of log 8, with the
codes of R205. A space's section that is not present, which no run reaches, is sent as zeros (log 21). -/
def Obligations.TableReadsChangeNothing : Prop :=
  ([Reading.nothing, .stowed, .deployed, .travel, .conflict].map Reading.code = [0, 1, 2, 3, 4]
    ∧ [Filtered.unknown, .stowed, .deployed, .fault].map Filtered.code = [0, 1, 2, 3]
    ∧ [Forced.free, .stowed, .deployed].map Forced.code = [0, 1, 2] ∧ [Position.stowed, .deployed].map Position.code = [1, 2]
    ∧ [ClockMode.unset, .running, .expired].map ClockMode.code = [0, 1, 2])
  ∧ ∀ (s : State) (tag : Byte), Free s → s.ps.plan ≠ .loading →
    let o := s.ps.options
    let values : List Int :=
      [o.settle, o.travel, o.doorLead, o.nextWindow, o.horizon, o.carousel, (o.quiet.map Int.ofNat).getD (-1), o.budget0,
       o.budget1, o.budget2, o.budget3, o.refreshFloor, o.missLimit, o.holdTimeout, o.passLimit]
    let rows : List (Int × Int × Int) :=
      [(2, 32, 8), (8, 1200, 240), (0, 60, 15), (15, 480, 120), (15, 480, 90), (1, 15, 2), (0, 1439, 240), (100, 1000, 300),
       (100, 1000, 300), (100, 1000, 300), (100, 1000, 300), (-20, 10, -5), (2, 8, 3), (10, 600, 120), (1, 15, 4)]
    let sectionItem (i : Nat) : List Byte := match Table.get s.lu.sections i with
      | some x => [byte i, x.code.extractLsb' 24 8, x.code.extractLsb' 16 8, x.code.extractLsb' 8 8, x.code.extractLsb' 0 8,
          if x.closed then 1 else 0]
      | none => [byte i, 0, 0, 0, 0, 0]
    let spaceEntry (p : Space) : List Byte :=
      [byte p.anchor, if p.closed then 1 else 0, byte p.more, match p.source with
        | .anchor a => byte a
        | .combo i => byte (128 + i)]
      ++ [p.name.page, p.name.offset, p.name.length] ++ (byte p.sections.length :: p.sections.flatMap sectionItem)
    let low (e : Nat × Session) : Nat := e.2.sections.headD 0
    (∀ number : Byte, 15 < number.toNat → Refuses (.readOption tag number) s tag (.readOption number) .range)
    ∧ (∀ (number : Byte) (v least most start : Int), values[number.toNat]? = some v →
        rows[number.toNat]? = some (least, most, start) → exec (.readOption tag number) s = .next
          (s.inService tag (.request (.readOption number))
            ([0x00, number] ++ signedTwo v ++ signedTwo least ++ signedTwo most ++ signedTwo start)))
    ∧ exec (.readOption tag 15) s = .next (s.inService tag (.request (.readOption 15))
        ([0x00, 15] ++ [o.privateText.page, o.privateText.offset, o.privateText.length] ++ [0, 0, 0]))
    ∧ exec (.readWalls tag) s = .next (s.inService tag (.request .readWalls)
        ([0x00, byte s.lu.walls.length] ++ s.lu.walls.flatMap (fun e =>
          [byte e.1, byte e.2.a, byte e.2.b, e.2.last.code, e.2.filtered.code, e.2.forced.code, e.2.effective.code])))
    ∧ (∀ first : Byte, 96 ≤ first.toNat → Refuses (.readSpaces tag first) s tag (.readSpaces first) .range)
    ∧ (∀ first : Byte, first.toNat < 96 → ∃ sent rest,
        (s.lu.spaces.filter (fun p => first.toNat ≤ p.anchor)).map spaceEntry = sent ++ rest
        ∧ sent.flatten.length ≤ 1021 ∧ (∀ e l, rest = e :: l → 1021 < sent.flatten.length + e.length)
        ∧ exec (.readSpaces tag first) s = .next (s.inService tag (.request (.readSpaces first))
          ([0x00, byte s.lu.spaces.length, byte sent.length] ++ sent.flatten)))
    ∧ exec (.readClock tag) s = .next (s.inService tag (.request .readClock)
        ([0x00, s.clock.mode.code, byte s.clock.day] ++ two s.clock.minute ++ [byte s.clock.second]))
    ∧ (∀ (position : Half) (count : Byte), 511 < position.toNat ∨ count.toNat = 0 ∨ 16 < count.toNat →
        Refuses (.listSessions tag position count) s tag (.listSessions position count) .range)
    ∧ (∃ order : List (Nat × Session), order.Perm s.sessions
        ∧ order.Pairwise (fun x y => x.2.day < y.2.day ∨ (x.2.day = y.2.day ∧ (x.2.start < y.2.start
            ∨ (x.2.start = y.2.start ∧ (low x < low y ∨ (low x = low y ∧ x.1 ≤ y.1))))))
        ∧ ∀ (position : Half) (count : Byte), position.toNat ≤ 511 → 1 ≤ count.toNat → count.toNat ≤ 16 →
            let found := (order.drop position.toNat).take count.toNat
            exec (.listSessions tag position count) s = .next (s.inService tag (.request (.listSessions position count))
              ([0x00] ++ two s.sessions.length ++ [byte found.length] ++ found.flatMap (fun e => two e.1))))
    ∧ (∀ page offset count : Byte, 48 ≤ page.toNat ∨ 240 < count.toNat →
        Refuses (.readText tag page offset count) s tag (.readText page offset count) .range)
    ∧ (∀ page offset count : Byte, page.toNat < 48 → count.toNat ≤ 240 →
        let n := min count.toNat (256 - offset.toNat)
        exec (.readText tag page offset count) s = .next (s.inService tag (.request (.readText page offset count))
          ([0x00, byte n] ++ (List.range n).map (fun i => s.text.read (page.toNat * 256 + offset.toNat + i)))))

/-- READ-SESSION, READ-FACE, READ-PANEL, READ-SEGMENT reply OK with their items and change nothing else; a number, slot,
position, segment or address out of range gives RANGE, and a session, bound slot or record that is not there NOT-FOUND. Items are
in the order and widths of log 8, with the codes of R205. The bytes of an absent value are the free bytes of log 7: of each only
the length is said. READ-PANEL sends for a bound slot whose face FR does not hold, which no run reaches, the digest the record
was last given (log 21). -/
def Obligations.RecordReadsChangeNothing : Prop :=
  ([Phase.future, .upcoming, .doors, .live, .overrun, .done, .cancelled].map Phase.code = [0, 1, 2, 3, 4, 5, 6]
    ∧ [PanelClass.s, .m, .l].map PanelClass.code = [1, 2, 3] ∧ [Source.notice, .pin, .role].map Source.code = [1, 2, 3]
    ∧ [Template.blank, .doorIdle, .doorSession, .doorClosed, .directory, .notice].map Template.code = [1, 2, 3, 4, 5, 6]
    ∧ [SegMode.starting, .run, .draining, .keying, .searching].map SegMode.code = [0, 1, 2, 3, 4]
    ∧ [QueueClass.alert, .normal, .maint].map QueueClass.code = [1, 2, 3] ∧ [RefreshKind.full, .part].map RefreshKind.code = [1, 2]
    ∧ [EnrolResult.done, .full, .stopped].map EnrolResult.code = [1, 2, 3])
  ∧ ∀ (s : State) (tag : Byte), Free s → s.ps.plan ≠ .loading →
    let mark (b : Bool) : Byte := if b then 1 else 0
    let ref (r : TextRef) : List Byte := [r.page, r.offset, r.length]
    let opt (absent : List Byte) (v : Option (List Byte)) : List Byte := match v with
      | some bytes => 1 :: bytes
      | none => 0 :: absent
    (∀ number : Half, number.toNat = 0 → Refuses (.readSession tag number) s tag (.readSession number) .range)
    ∧ (∀ number : Half, number.toNat ≠ 0 → Table.get s.sessions number.toNat = none →
        Refuses (.readSession tag number) s tag (.readSession number) .notFound)
    ∧ (∀ (number : Half) (x : Session), number.toNat ≠ 0 → Table.get s.sessions number.toNat = some x →
        let lead := x.lead.getD s.ps.options.doorLead
        let opening := x.start - lead
        let visible : Bool := x.cancelled = true ∧ s.clock.mode ≠ .unset ∧ s.clock.day = x.day ∧ opening ≤ s.clock.minute
          ∧ s.clock.minute < x.stop
        ∃ a b : List Byte, a.length = 3 ∧ b.length = 2
          ∧ exec (.readSession tag number) s = .next (s.inService tag (.request (.readSession number))
            ([0x00] ++ two number.toNat ++ [byte x.day] ++ two x.start ++ two x.stop
              ++ (byte x.sections.length :: x.sections.map byte) ++ ref x.title ++ opt a (x.speaker.map ref)
              ++ [(x.lead.map byte).getD 0xFF, byte x.track, mark x.withheld, mark x.cancelled, byte x.extension]
              ++ opt b (x.earlyEnd.map two) ++ [mark x.warned, byte lead] ++ two opening ++ two x.effectiveEnd
              ++ [x.phase.code, mark visible, byte x.home, if x.placed then 1 else 2, mark x.warned])))
    ∧ (∀ slot position : Half, 384 ≤ slot.toNat ∨ 2047 < position.toNat →
        Refuses (.readFace tag slot position) s tag (.readFace slot position) .range)
    ∧ (∀ slot position : Half, slot.toNat < 384 → position.toNat ≤ 2047 →
        Table.get s.ps.panels slot.toNat = none ∨ s.holder slot.toNat = none →
        Refuses (.readFace tag slot position) s tag (.readFace slot position) .notFound)
    ∧ (∀ (slot position : Half) (p : PanelSlot) (h : Place) (f : FaceRec), slot.toNat < 384 → position.toNat ≤ 2047 →
        Table.get s.ps.panels slot.toNat = some p → s.holder slot.toNat = some h → Table.get s.fr.faces slot.toNat = some f →
        let part := (f.wanted.drop position.toNat).take 960
        let pages := match f.pages with
          | some count => [byte ((Table.get s.fr.pages slot.toNat).getD 0), byte count]
          | none => []
        exec (.readFace tag slot position) s = .next (s.inService tag (.request (.readFace slot position))
          ([0x00, f.source.code] ++ halfBytes f.digest ++ two f.wanted.length ++ pages ++ two part.length ++ part)))
    ∧ (∀ segment address : Byte, 4 ≤ segment.toNat ∨ address.toNat = 0 ∨ 96 < address.toNat →
        Refuses (.readPanel tag segment address) s tag (.readPanel segment address) .range)
    ∧ (∀ (segment address : Byte) (ix : SegIx), SegIx.named segment = some ix → 1 ≤ address.toNat → address.toNat ≤ 96 →
        s.rec? ix address.toNat = none → Refuses (.readPanel tag segment address) s tag (.readPanel segment address) .notFound)
    ∧ (∀ (segment address : Byte) (ix : SegIx) (x : Rec), SegIx.named segment = some ix → 1 ≤ address.toNat →
        address.toNat ≤ 96 → s.rec? ix address.toNat = some x →
        let g := s.seg ix
        let wanted := match x.binding with
          | some n => halfBytes (((Table.get s.fr.faces n).map (·.digest)).getD x.wantedDigest)
          | none => []
        let stateCode : Byte := match x.state with
          | .online => 0
          | .queued => 1
          | .loading => 2
          | .refreshing _ => 3
          | .lost => 4
        let more := match x.state with
          | .queued => match g.queue.find? (fun e => e.address = address.toNat) with
            | some e => [e.cls.code] ++ four e.sequence ++ [byte e.pass]
            | none => []
          | .refreshing f => [f.kind.code] ++ two (f.deadline - s.time) ++ two (f.final - s.time)
          | .loading => match g.transfer with
            | some v => [byte (v.next + if 0 < v.sends then 1 else 0), byte v.total]
            | none => []
          | .online => []
          | .lost => []
        ∃ a b c d : List Byte, a.length = 2 ∧ b.length = 2 ∧ c.length = 1 ∧ d.length = 2
          ∧ exec (.readPanel tag segment address) s = .next (s.inService tag (.request (.readPanel segment address))
            ([0x00, byte address.toNat] ++ serialBytes x.serial ++ [x.cls.code] ++ opt a (x.binding.map two) ++ [stateCode]
              ++ opt b (x.shown.map halfBytes) ++ opt c (x.lastTemplate.map (fun t => [t.code]))
              ++ [byte x.ghost, BitVec.ofInt 8 x.temp, mark x.cold, byte x.miss, mark x.forcedFull]
              ++ opt d (x.binding.map two) ++ wanted ++ more)))
    ∧ (∀ segment : Byte, 4 ≤ segment.toNat → Refuses (.readSegment tag segment) s tag (.readSegment segment) .range)
    ∧ (∀ (segment : Byte) (ix : SegIx), SegIx.named segment = some ix →
        let g := s.seg ix
        let count (p : Rec → Bool) : Byte := byte (g.recs.filter (fun e => p e.2)).length
        let waiting (c : QueueClass) : Byte := byte (g.queue.filter (fun e => e.cls = c)).length
        let refreshing (x : Rec) : Bool := match x.state with
          | .refreshing _ => true
          | .online => false
          | .queued => false
          | .loading => false
          | .lost => false
        let addresses (l : List Nat) : List Byte := byte l.length :: l.map byte
        let budget := match ix with
          | .sc0 => s.ps.options.budget0
          | .sc1 => s.ps.options.budget1
          | .sc2 => s.ps.options.budget2
          | .sc3 => s.ps.options.budget3
        ∃ a b : List Byte, a.length = 2 ∧ b.length = 1
          ∧ exec (.readSegment tag segment) s = .next (s.inService tag (.request (.readSegment segment))
            ([0x00, g.mode.code, count (fun x => x.state ≠ .lost), count (fun x => x.state = .lost),
              count (fun x => x.binding = none), count (fun x => x.cold), waiting .alert, waiting .normal, waiting .maint]
              ++ opt a (g.transfer.map (fun v => [byte v.address, v.kind.code])) ++ two g.reserved ++ [count refreshing]
              ++ two budget ++ four g.sequence ++ [byte g.pointer] ++ addresses g.drops
              ++ (match g.lastEnrol with
                  | some (result, n) => [result.code, byte n]
                  | none => 0 :: b)
              ++ addresses (g.recs.map (·.1)))))

/-! ## The panel plan -/

/-- DEFINE-PANEL and REMOVE-PANEL: the checks in order, the slot stored or undefined, and the bindings worked by R112, R113
and R115; NU's pin falls with a lost binding and the slot's page index starts at 0. -/
def Obligations.PanelSlotsAreDefinedAndRemoved : Prop :=
  (∀ (s : State) (tag : Byte) (rev : Half) (p : PanelSpec),
    let r := Request.definePanel rev p
    let c := Instr.definePanel tag rev p
    let n := p.slot.toNat
    let first := p.first.toNat
    let window := first < 96 ∧ 1 ≤ p.count.toNat ∧ first + p.count.toNat ≤ 96 ∧ p.heading.page.toNat < 48
    let ranged := n < 384 ∧ ((p.role = 1 ∧ first < 96) ∨ (p.role = 2 ∧ window))
    let present := (Table.get s.lu.sections first).isSome = true
    let held := ∃ e, e ∈ s.ps.panels ∧ e.1 ≠ n ∧ e.2.serial = p.serial
    Serves s r →
    (¬ ranged → Refuses c s tag r .range)
    ∧ (ranged → ¬ present → Refuses c s tag r .notFound)
    ∧ (ranged → present → held → Refuses c s tag r .clash)
    ∧ (ranged → present → ¬ held → RecordsGood s →
        let same := (Table.get s.ps.panels n).map (·.serial) = some p.serial
        let bound := (s.holder n).isSome = true
        let carriers := s.allRecs.filter (fun q => q.rec_.serial = p.serial)
        let role := if p.role = 1 then Role.door first else .directory first p.count.toNat p.heading
        let slot : PanelSlot := { serial := p.serial, role, zones := p.zones }
        let base := commitEdit { s with
          ps := { s.ps with panels := Table.put s.ps.panels n slot }
          nu := { s.nu with pins := if bound ∧ ¬ same then Table.del s.nu.pins n else s.nu.pins } }
        ∃ t, exec c s = .next t
          ∧ FollowsThrough Rec.unbound (base.inService tag (.request r) (editReply s [])) t
          ∧ (∀ ix a x y, s.rec? ix a = some x → t.rec? ix a = some y →
              y.binding =
                if ¬ (bound ∧ same) ∧ carriers.head?.any (fun q => q.seg = ix && q.address = a) = true then some n
                else if bound ∧ ¬ same ∧ x.binding = some n then none
                else x.binding)
          ∧ (bound → ¬ same → flagSet t .stray = true)
          ∧ (¬ (bound ∧ same) → 2 ≤ carriers.length → flagSet t .panel = true)
          ∧ Table.get t.fr.pages n = (if p.role = 1 then none else some 0)))
  ∧ (∀ (s : State) (tag : Byte) (rev slot : Half),
    let r := Request.removePanel rev slot
    let c := Instr.removePanel tag rev slot
    let n := slot.toNat
    Serves s r →
    (384 ≤ n → Refuses c s tag r .range)
    ∧ (n < 384 → Table.get s.ps.panels n = none → Refuses c s tag r .notFound)
    ∧ (n < 384 → (Table.get s.ps.panels n).isSome = true → RecordsGood s →
        let bound := (s.holder n).isSome = true
        let base := commitEdit { s with
          ps := { s.ps with panels := Table.del s.ps.panels n }
          nu := { s.nu with pins := if bound then Table.del s.nu.pins n else s.nu.pins } }
        ∃ t, exec c s = .next t
          ∧ FollowsThrough Rec.unbound (base.inService tag (.request r) (editReply s [])) t
          ∧ (∀ ix a x y, s.rec? ix a = some x → t.rec? ix a = some y →
              y.binding = if x.binding = some n then none else x.binding)
          ∧ (bound → flagSet t .stray = true)
          ∧ Table.get t.fr.pages n = none))

/-! ## EC and NU: ticks and turnovers -/

/-- SET-CLOCK: the time given, RUNNING; the clock change purges earlier days when its mark is set, removes the notices that
are due, and leaves every session and every bound slot's face as the new time gives it. -/
def Obligations.SetClockSetsTheTime : Prop :=
  ∀ (s : State) (tag day : Byte) (minute : Half) (second : Byte), Free s → s.ps.plan ≠ .loading →
    let r := Request.setClock day minute second
    let c := Instr.setClock tag day minute second
    let d := day.toNat
    let m := minute.toNat
    let ranged := d ≤ 15 ∧ m ≤ 1439 ∧ second.toNat ≤ 59
    let mark : Bool := s.clock.mode = .unset || s.clock.day < d
    (¬ ranged → Refuses c s tag r .range)
    ∧ (ranged → ∃ t, exec c s = .next t
        ∧ Follows (({ s with
            clock := { mode := .running, day := d, minute := m, second := second.toNat }
            sessions := s.sessions.filter (fun e => !mark || d ≤ e.2.day)
            nu := { s.nu with notices := s.nu.notices.filter (fun e => !e.2.due d m) } }).inService tag (.request r) [0x00]) t
        ∧ AllCurrent t ∧ FacesNow t
        ∧ ((∃ e, e ∈ s.nu.notices ∧ e.2.due d m = true) → flagSet t .expire = true))

/-- MINUTE_TURNOVER: EC's part of a tick at second 59 short of the last time. The new minute is delivered to ST, NU, FR and
each of SC0–SC3, in an order left open, with the day turnover at 23:59:59: purge, CLOCK. Expired notices go with EXPIRE; every session
is judged at the new time; every bound slot has its face; FR's part makes the carousel step at a multiple of the carousel
period, and an index not below the page count becomes 0; at the quiet minute ONLINE and QUEUED records with a ghost count
above 0 are marked. -/
def Obligations.MinuteTurnoverIsDelivered : Prop :=
  (∀ s : State, s.resetPin = false → s.clock.mode = .running → s.clock.second = 59 →
    ¬ (s.clock.day = 15 ∧ s.clock.minute = 1439) →
    let dayToo : Bool := s.clock.minute = 1439
    let d := if dayToo then s.clock.day + 1 else s.clock.day
    let m := if dayToo then 0 else s.clock.minute + 1
    let now : State := { s with clock := { mode := .running, day := d, minute := m, second := 0 } }
    let receivers := [sessionsMinute, expireNotices d m, resolverMinute m, quietMinute m .sc0, quietMinute m .sc1,
      quietMinute m .sc2, quietMinute m .sc3] ++ if dayToo then [purge d] else []
    ∃ t, exec .minuteTurnover s = .next t
      ∧ (∃ l : List (State → State), l.Perm receivers ∧ t = l.foldl (fun u f => f u) (raiseIf dayToo .clock now).dropOrder)
      ∧ FollowsThrough Rec.unmarked { now with
          sessions := s.sessions.filter (fun e => !dayToo || d ≤ e.2.day)
          nu := { s.nu with notices := s.nu.notices.filter (fun e => !e.2.due d m) } } t
      ∧ AllCurrent t ∧ FacesNow t
      ∧ ((∃ e, e ∈ s.nu.notices ∧ e.2.due d m = true) → flagSet t .expire = true)
      ∧ (dayToo = true → flagSet t .clock = true)
      ∧ (∀ ix a x y, s.rec? ix a = some x → t.rec? ix a = some y →
          (s.ps.options.quiet ≠ some m ∨ x.ghost = 0 ∨ x.state = .lost ∨ (∃ f, x.state = .refreshing f) →
            y.forcedFull = x.forcedFull)
          ∧ (x.state = .loading → y.state = .loading → y.forcedFull = x.forcedFull)
          ∧ (s.ps.options.quiet = some m → 0 < x.ghost → x.state = .online ∨ x.state = .queued → y.forcedFull = true)))
  ∧ (∀ (s : State) (m slot index : Nat) (p : PanelSlot) (h : Place) (first count : Nat) (heading : TextRef),
    Table.get s.ps.panels slot = some p → p.role = .directory first count heading → s.holder slot = some h →
    Table.get s.fr.pages slot = some index →
    let t := resolverMinute m s
    let steps := m % s.ps.options.carousel = 0
    let held := (Table.get s.fr.faces slot).bind (·.pages)
    let stepped := if steps ∧ held.isSome = true then (if some (index + 1) = held then 0 else index + 1) else index
    let lines := match h.rec_.cls with
      | .s => 4
      | .m => 8
      | .l => 12
    let pages := max 1 (((lineList s first count).length + lines - 1) / lines)
    FacesNow t ∧ Follows s t ∧ Table.get t.fr.pages slot = some (if stepped < pages then stepped else 0))
  ∧ (∀ (n : Notice) (d m : Nat), n.due d m = true ↔
    ∃ day minute, n.expiry = some (day, minute) ∧ (day < d ∨ (day = d ∧ minute ≤ m)))

/-- SECOND_TICK, CLOCK_EXPIRE, HOLD_TIMEOUT: the clock counts, turns over or expires at 15.23:59:59 with CLOCK; in every clock
state the hold timer counts, and at its end the hold is RELEASED with HOLD raised. -/
def Obligations.SecondTickCountsClockAndHold : Prop :=
  ∀ s : State, s.resetPin = false →
    let last := s.clock.day = 15 ∧ s.clock.minute = 1439 ∧ s.clock.second = 59
    let expired := raise .clock { s with clock := { s.clock with mode := .expired } }
    let released (u : State) : State := raise .hold { u with nu := { u.nu with held := false, timer := 0 } }
    let hold (u : State) : State :=
      if u.nu.held = false then u
      else if u.nu.timer ≤ 1 then released u
      else { u with nu := { u.nu with timer := u.nu.timer - 1 } }
    (s.clock.mode ≠ .running → exec .secondTick s = .next (hold s))
    ∧ (s.clock.mode = .running → s.clock.second < 59 →
        exec .secondTick s = .next (hold { s with clock := { s.clock with second := s.clock.second + 1 } }))
    ∧ (s.clock.mode = .running → last → exec .secondTick s = .next (hold expired) ∧ exec .clockExpire s = .next expired)
    ∧ (s.clock.mode = .running → s.clock.second = 59 → ¬ last →
        ∀ u, exec .minuteTurnover s = .next u → exec .secondTick s = .next (hold u))
    ∧ (s.nu.held = true → s.nu.timer = 1 → exec .holdTimeout s = .next (released s))

/-- ADJUST-CLOCK: RANGE beyond ±30, NOT-READY unless RUNNING; forward as counting would, stopping at 15.23:59:59 in EXPIRED;
backward stopping at 0.00:00:00, with a clock change only into an earlier minute. -/
def Obligations.AdjustClockMovesTheTime : Prop :=
  ∀ (s : State) (tag seconds : Byte), Free s → s.ps.plan ≠ .loading → ClockGood s.clock →
    let r := Request.adjustClock seconds
    let c := Instr.adjustClock tag seconds
    let k := seconds.toInt
    let old := (s.clock.day * 1440 + s.clock.minute) * 60 + s.clock.second
    let reply (applied : Int) (mode : ClockMode) (day minute second : Nat) : List Byte :=
      [0x00, BitVec.ofInt 8 applied, mode.code, byte day] ++ two minute ++ [byte second]
    let ready := -30 ≤ k ∧ k ≤ 30 ∧ s.clock.mode = .running
    let lastMinute := s.clock.day = 15 ∧ s.clock.minute = 1439
    let back := old - (-k).toNat
    (¬ (-30 ≤ k ∧ k ≤ 30) → Refuses c s tag r .range)
    ∧ (-30 ≤ k → k ≤ 30 → s.clock.mode ≠ .running → Refuses c s tag r .notReady)
    ∧ (ready → 0 ≤ k → s.clock.second + k.toNat ≤ 59 → exec c s = .next
        (({ s with clock := { s.clock with second := s.clock.second + k.toNat } }).inService tag (.request r)
          (reply k .running s.clock.day s.clock.minute (s.clock.second + k.toNat))))
    ∧ (ready → 0 ≤ k → 59 < s.clock.second + k.toNat → lastMinute → exec c s = .next
        ((raise .clock { s with clock := { s.clock with mode := .expired, second := 59 } }).inService tag (.request r)
          (reply (59 - s.clock.second) .expired 15 1439 59)))
    ∧ (ready → 0 ≤ k → 59 < s.clock.second + k.toNat → ¬ lastMinute →
        ∀ u, exec .minuteTurnover { s with clock := { s.clock with second := 59 } } = .next u → exec c s = .next
          (({ u with clock := { u.clock with second := s.clock.second + k.toNat - 60 } }).inService tag (.request r)
            (reply k .running u.clock.day u.clock.minute (s.clock.second + k.toNat - 60))))
    ∧ (ready → k < 0 → back / 60 = old / 60 → exec c s = .next
        (({ s with clock := { s.clock with second := back % 60 } }).inService tag (.request r)
          (reply ((back : Int) - old) .running s.clock.day s.clock.minute (back % 60))))
    ∧ (ready → k < 0 → back / 60 ≠ old / 60 →
        let d := back / 86400
        let m := back / 60 % 1440
        ∃ t, exec c s = .next t
          ∧ Follows (({ s with
              clock := { mode := .running, day := d, minute := m, second := back % 60 }
              nu := { s.nu with notices := s.nu.notices.filter (fun e => !e.2.due d m) } }).inService tag (.request r)
                (reply ((back : Int) - old) .running d m (back % 60))) t
          ∧ (∀ e, e ∈ t.sessions → Current t e.2))

/-! ## ST -/

/-- STORE-SESSION: the checks of R40 in order; the record stored with its sections ascending, no extension and no early end,
and judged at once; every other record is as it was. A list stored ascending; the home space of a record, which holds its lowest
booked section, and what a current record holds then; where no space holds that section, which no run reaches, the section as
home and MISPLACED (log 21). A current record is layout-warned while it is misplaced in DOORS, LIVE or OVERRUN. -/
def Obligations.SessionsAreStored : Prop :=
  (∀ l : List Nat, (sortNat l).Perm l ∧ (sortNat l).Pairwise (· ≤ ·) ∧ (hasRepeat l = false ↔ l.Nodup))
  ∧ (∀ (s : State) (x : Session) (low : Nat), x.sections.head? = some low → Current s x →
    (∀ p, (∃ before after, s.lu.spaces = before ++ p :: after ∧ low ∈ p.sections ∧ ∀ q, q ∈ before → low ∉ q.sections) →
      x.home = p.anchor ∧ (x.placed = true ↔ p.sections = x.sections))
    ∧ ((∀ p, p ∈ s.lu.spaces → low ∉ p.sections) → x.home = low ∧ x.placed = false)
    ∧ (x.warned = true ↔ (x.phase = .doors ∨ x.phase = .live ∨ x.phase = .overrun) ∧ x.placed = false))
  ∧ ∀ (s : State) (tag : Byte) (p : StoreSpec), Free s → s.ps.plan ≠ .loading → p.sections.length ≤ 255 →
    let r := Request.storeSession p
    let c := Instr.storeSession tag p
    let n := p.number.toNat
    let list := p.sections.map (·.toNat)
    let speaking := p.flags.getLsbD 2
    let off := p.flags.getLsbD 1
    let ranged := n ≠ 0 ∧ p.day.toNat ≤ 15 ∧ p.start.toNat ≤ 1439 ∧ p.start.toNat < p.stop.toNat ∧ p.stop.toNat ≤ 1440
      ∧ 1 ≤ list.length ∧ list.length ≤ 12 ∧ (∀ i, i ∈ list → i < 96) ∧ hasRepeat list = false
      ∧ p.title.page.toNat < 48 ∧ (speaking = true → p.speaker.page.toNat < 48) ∧ (p.lead = 0xFF ∨ p.lead.toNat ≤ 60)
      ∧ p.track.toNat ≤ 15
    let present := ∀ i, i ∈ list → (Table.get s.lu.sections i).isSome = true
    let clash := off = false ∧ ∃ e, e ∈ s.sessions ∧ e.1 ≠ n ∧ e.2.cancelled = false ∧ e.2.day = p.day.toNat
      ∧ (∃ i, i ∈ list ∧ i ∈ e.2.sections) ∧ p.start.toNat < e.2.effectiveEnd ∧ e.2.start < p.stop.toNat
    let full := Table.get s.sessions n = none ∧ 512 ≤ s.sessions.length
    (¬ ranged → Refuses c s tag r .range)
    ∧ (ranged → ¬ present → Refuses c s tag r .notFound)
    ∧ (ranged → present → clash → Refuses c s tag r .clash)
    ∧ (ranged → present → ¬ clash → full → Refuses c s tag r .full)
    ∧ (ranged → present → ¬ clash → ¬ full →
        let x : Session :=
          { day := p.day.toNat, start := p.start.toNat, stop := p.stop.toNat, sections := sortNat list, title := p.title
            speaker := if speaking then some p.speaker else none
            lead := if p.lead = 0xFF then none else some p.lead.toNat, track := p.track.toNat, withheld := p.flags.getLsbD 0
            cancelled := off, extension := 0, earlyEnd := none, warned := false, phase := .future, home := 0, placed := false }
        ∃ t y, exec c s = .next t
          ∧ Follows (({ s with sessions := Table.put s.sessions n x }).inService tag (.request r) [0x00]) t
          ∧ Table.get t.sessions n = some y ∧ y.stored = x ∧ Current t y
          ∧ (y.warned = true → flagSet t .layout = true)
          ∧ (∀ m, m ≠ n → Table.get t.sessions m = Table.get s.sessions m))

/-- DROP-SESSION, CANCEL-SESSION and RESTORE-SESSION, with their checks in order. -/
def Obligations.SessionsAreDroppedCancelledAndRestored : Prop :=
  ∀ (s : State) (tag : Byte) (number : Half), Free s → s.ps.plan ≠ .loading →
    let n := number.toNat
    let named (c : Instr) (r : Request) : Prop :=
      (n = 0 → Refuses c s tag r .range) ∧ (n ≠ 0 → Table.get s.sessions n = none → Refuses c s tag r .notFound)
    let changes (c : Instr) (r : Request) (x : Session) : Prop :=
      ∃ t y, exec c s = .next t
        ∧ Follows (({ s with sessions := Table.put s.sessions n x }).inService tag (.request r) [0x00]) t
        ∧ Table.get t.sessions n = some y ∧ y.stored = x.stored ∧ Current t y
        ∧ (y.warned = true → x.warned = false → flagSet t .layout = true)
        ∧ (∀ m, m ≠ n → Table.get t.sessions m = Table.get s.sessions m)
    named (.dropSession tag number) (.dropSession number)
    ∧ named (.cancelSession tag number) (.cancelSession number)
    ∧ named (.restoreSession tag number) (.restoreSession number)
    ∧ (∀ x, n ≠ 0 → Table.get s.sessions n = some x →
        (∃ t, exec (.dropSession tag number) s = .next t
          ∧ Follows (({ s with sessions := Table.del s.sessions n }).inService tag (.request (.dropSession number)) [0x00]) t
          ∧ t.sessions = Table.del s.sessions n)
        ∧ (x.cancelled = true →
            exec (.cancelSession tag number) s = .next (s.inService tag (.request (.cancelSession number)) [0x00]))
        ∧ (x.cancelled = false → changes (.cancelSession tag number) (.cancelSession number) { x with cancelled := true })
        ∧ (x.cancelled = false →
            exec (.restoreSession tag number) s = .next (s.inService tag (.request (.restoreSession number)) [0x00]))
        ∧ (let clash := ∃ e, e ∈ s.sessions ∧ e.1 ≠ n ∧ e.2.cancelled = false ∧ e.2.day = x.day
              ∧ (∃ i, i ∈ x.sections ∧ i ∈ e.2.sections) ∧ x.start < e.2.effectiveEnd ∧ e.2.start < x.effectiveEnd
          (x.cancelled = true → clash → Refuses (.restoreSession tag number) s tag (.restoreSession number) .clash)
          ∧ (x.cancelled = true → ¬ clash →
              changes (.restoreSession tag number) (.restoreSession number) { x with cancelled := false })))

/-- EXTEND-SESSION grants the most that the cap, midnight and the next booking allow, and changes nothing on a grant of 0;
END-SESSION sets the early end from the clock's minute, and changes nothing where it stood so and the record is current. -/
def Obligations.SessionsAreExtendedAndEnded : Prop :=
  ∀ (s : State) (tag : Byte) (number : Half) (minutes : Byte), Free s → s.ps.plan ≠ .loading →
    let n := number.toNat
    let k := minutes.toNat
    let extend := Instr.extendSession tag number minutes
    let r := Request.extendSession number minutes
    let finish := Instr.endSession tag number
    let q := Request.endSession number
    let changes (c : Instr) (r : Request) (x : Session) (reply : List Byte) : Prop :=
      ∃ t y, exec c s = .next t
        ∧ Follows (({ s with sessions := Table.put s.sessions n x }).inService tag (.request r) reply) t
        ∧ Table.get t.sessions n = some y ∧ y.stored = x.stored ∧ Current t y
        ∧ (∀ m, m ≠ n → Table.get t.sessions m = Table.get s.sessions m)
    (k = 0 ∨ 180 < k ∨ n = 0 → Refuses extend s tag r .range)
    ∧ (1 ≤ k → k ≤ 180 → n ≠ 0 → Table.get s.sessions n = none → Refuses extend s tag r .notFound)
    ∧ (n = 0 → Refuses finish s tag q .range)
    ∧ (n ≠ 0 → Table.get s.sessions n = none → Refuses finish s tag q .notFound)
    ∧ (∀ x, n ≠ 0 → Table.get s.sessions n = some x →
        let closed := x.phase = .done ∨ x.phase = .cancelled ∨ x.earlyEnd.isSome = true
        let fits (g : Nat) : Prop := x.extension + g ≤ 180 ∧ x.stop + x.extension + g ≤ 1440
          ∧ ∀ e, e ∈ s.sessions → e.1 ≠ n → e.2.cancelled = false → e.2.day = x.day →
              (∃ i, i ∈ x.sections ∧ i ∈ e.2.sections) → x.start ≤ e.2.start → x.stop + x.extension + g ≤ e.2.start
        let m := s.clock.minute
        let e := if x.start < m then m else x.start + 1
        (1 ≤ k → k ≤ 180 → s.clock.mode ≠ .running → Refuses extend s tag r .notReady)
        ∧ (1 ≤ k → k ≤ 180 → s.clock.mode = .running → closed → Refuses extend s tag r .wrongState)
        ∧ (1 ≤ k → k ≤ 180 → s.clock.mode = .running → ¬ closed →
            ∃ g, g ≤ k ∧ (g = 0 ∨ fits g) ∧ (∀ g', g' ≤ k → fits g' → g' ≤ g) ∧
              let reply := [0x00, byte g] ++ two (min (x.stop + (x.extension + g)) 1440)
              (g = 0 → exec extend s = .next (s.inService tag (.request r) reply))
              ∧ (g ≠ 0 → changes extend r { x with extension := x.extension + g } reply))
        ∧ (s.clock.mode ≠ .running → Refuses finish s tag q .notReady)
        ∧ (s.clock.mode = .running → x.phase ≠ .live → x.phase ≠ .overrun → Refuses finish s tag q .wrongState)
        ∧ (s.clock.mode = .running → x.phase = .live ∨ x.phase = .overrun →
            changes finish q { x with earlyEnd := some e } ([0x00] ++ two e)
            ∧ (x.earlyEnd = some e → Current s x → exec finish s = .next (s.inService tag (.request q) ([0x00] ++ two e)))))

/-- R34, R33: the phase is the first test that holds; the effective end is the early end, or end + extension held to 1440. -/
def Obligations.PhasesFollowTheClock : Prop :=
  ∀ (c : Clock) (lead : Nat) (x : Session),
    let open_ := x.start - x.lead.getD lead
    let stop := x.effectiveEnd
    (∀ e, x.earlyEnd = some e → stop = e) ∧ (x.earlyEnd = none → stop = min (x.stop + x.extension) 1440)
    ∧ (c.mode = .unset → phaseAt c lead x = .future)
    ∧ (c.mode ≠ .unset → x.cancelled = true → phaseAt c lead x = .cancelled)
    ∧ (c.mode ≠ .unset → x.cancelled = false →
        (c.day < x.day → phaseAt c lead x = .future)
        ∧ (x.day < c.day → phaseAt c lead x = .done)
        ∧ (c.day = x.day →
            (c.minute < open_ → phaseAt c lead x = .upcoming)
            ∧ (open_ ≤ c.minute → c.minute < x.start → phaseAt c lead x = .doors)
            ∧ (x.start ≤ c.minute → c.minute < min x.stop stop → phaseAt c lead x = .live)
            ∧ (x.start ≤ c.minute → x.stop ≤ c.minute → c.minute < stop → phaseAt c lead x = .overrun)
            ∧ (x.start ≤ c.minute → stop ≤ c.minute → phaseAt c lead x = .done)))

/-! ## TP -/

/-- PUT-TEXT and CLEAR-PAGE: the bytes inside the page written, or every byte of the page 0x00; every other byte is as it
was. A write to pages 0–15 is a plan edit. -/
def Obligations.TextIsWrittenAndCleared : Prop :=
  (∀ (s : State) (tag : Byte) (rev : Half) (page offset : Byte) (data : List Byte),
    let r := Request.putText rev page offset data
    let c := Instr.putText tag rev page offset data
    let a := page.toNat * 256 + offset.toNat
    let n := min data.length (256 - offset.toNat)
    let plan := page.toNat < 16
    let edited := if plan then commitEdit s else s
    Serves s r →
    (48 ≤ page.toNat → Refuses c s tag r .range)
    ∧ (page.toNat < 48 → ∃ t, exec c s = .next t
        ∧ (∀ b, t.text.read b = if a ≤ b ∧ b < a + n then data.getD (b - a) 0 else s.text.read b)
        ∧ Follows (({ edited with text := t.text }).inService tag (.request r)
            (if plan then editReply s [byte n] else [0x00, byte n])) t))
  ∧ (∀ (s : State) (tag : Byte) (rev : Half) (page : Byte),
    let r := Request.clearPage rev page
    let c := Instr.clearPage tag rev page
    let plan := page.toNat < 16
    let edited := if plan then commitEdit s else s
    Serves s r →
    (48 ≤ page.toNat → Refuses c s tag r .range)
    ∧ (page.toNat < 48 → ∃ t, exec c s = .next t
        ∧ (∀ b, t.text.read b = if b / 256 = page.toNat then 0 else s.text.read b)
        ∧ Follows (({ edited with text := t.text }).inService tag (.request r)
            (if plan then editReply s [] else [0x00])) t))

/-- R57: a text read through a reference is the bytes from its offset on, none 0x00, up to its length, the first 0x00 or the
page end; it is clipped exactly when the page end stopped it short. -/
def Obligations.TextReferencesStopAtLengthZeroOrPageEnd : Prop :=
  ∀ (m : TextMem) (ref : TextRef),
    let a := ref.page.toNat * 256
    let o := ref.offset.toNat
    let n := ref.length.toNat
    let text := readRef m ref
    let k := text.bytes.length
    k ≤ n ∧ o + k ≤ 256
      ∧ (∀ i, i < k → text.bytes.getD i 0 = m.read (a + o + i) ∧ m.read (a + o + i) ≠ 0)
      ∧ (k < n → o + k < 256 → m.read (a + o + k) = 0)
      ∧ (text.clipped = true ↔ k < n ∧ o + k = 256)

/-! ## NU -/

/-- POST-NOTICE and WITHDRAW-NOTICE: the checks in order, the zone's entry replaced or emptied, and the level replaced or
removed in the reply. -/
def Obligations.NoticesArePostedAndWithdrawn : Prop :=
  (∀ (s : State) (tag : Byte) (p : NoticeSpec), Free s → s.ps.plan ≠ .loading →
    let r := Request.postNotice p
    let c := Instr.postNotice tag p
    let expires := p.expiryPresent = 1
    let d := p.day.toNat
    let m := p.minute.toNat
    let ranged := p.zone.toNat ≤ 15 ∧ 1 ≤ p.level.toNat ∧ p.level.toNat ≤ 3 ∧ p.text.page.toNat < 48
      ∧ p.expiryPresent.toNat ≤ 1 ∧ (expires → d ≤ 15 ∧ m ≤ 1439)
    let later := s.clock.day < d ∨ (s.clock.day = d ∧ s.clock.minute < m)
    (¬ ranged → Refuses c s tag r .range)
    ∧ (ranged → p.level = 3 → expires → Refuses c s tag r .range)
    ∧ (ranged → p.level ≠ 3 → expires → s.clock.mode = .unset → Refuses c s tag r .notReady)
    ∧ (ranged → p.level ≠ 3 → expires → s.clock.mode ≠ .unset → ¬ later → Refuses c s tag r .range)
    ∧ (ranged → (expires → p.level ≠ 3 ∧ s.clock.mode ≠ .unset ∧ later) →
        let level := if p.level = 1 then Level.advisory else if p.level = 2 then .urgent else .evacuate
        let before : Byte := ((Table.get s.nu.notices p.zone.toNat).map (·.level.code)).getD 0
        let x : Notice := { level, text := p.text, expiry := if expires then some (d, m) else none }
        Completes c s { s with nu := { s.nu with notices := Table.put s.nu.notices p.zone.toNat x } } tag r [0x00, before]))
  ∧ (∀ (s : State) (tag zone : Byte), Free s → s.ps.plan ≠ .loading →
    let r := Request.withdrawNotice zone
    let c := Instr.withdrawNotice tag zone
    (15 < zone.toNat → Refuses c s tag r .range)
    ∧ (zone.toNat ≤ 15 → Table.get s.nu.notices zone.toNat = none → Refuses c s tag r .notFound)
    ∧ (∀ x, zone.toNat ≤ 15 → Table.get s.nu.notices zone.toNat = some x →
        Completes c s { s with nu := { s.nu with notices := Table.del s.nu.notices zone.toNat } } tag r [0x00, x.level.code]))

/-- PIN-PANEL and UNPIN-PANEL: the checks in order; the pin's copy is the role face that FR holds, with its digest. -/
def Obligations.PanelsArePinnedAndUnpinned : Prop :=
  ∀ (s : State) (tag : Byte) (slot : Half), Free s → s.ps.plan ≠ .loading →
    let n := slot.toNat
    let pin := Instr.pinPanel tag slot
    let r := Request.pinPanel slot
    let unpin := Instr.unpinPanel tag slot
    let q := Request.unpinPanel slot
    let defined_ := (Table.get s.ps.panels n).isSome = true
    let bound := (s.holder n).isSome = true
    let full := Table.get s.nu.pins n = none ∧ 16 ≤ s.nu.pins.length
    (384 ≤ n → Refuses pin s tag r .range ∧ Refuses unpin s tag q .range)
    ∧ (n < 384 → ¬ defined_ → Refuses pin s tag r .notFound)
    ∧ (n < 384 → defined_ → ¬ bound → Refuses pin s tag r .wrongState)
    ∧ (n < 384 → defined_ → bound → full → Refuses pin s tag r .full)
    ∧ (∀ f, n < 384 → defined_ → bound → ¬ full → Table.get s.fr.faces n = some f →
        Completes pin s
          { s with nu := { s.nu with pins := Table.put s.nu.pins n { copy := f.role, digest := fletcher16 f.role } } } tag r
          ([0x00] ++ halfBytes (fletcher16 f.role)))
    ∧ (n < 384 → Table.get s.nu.pins n = none → Refuses unpin s tag q .notFound)
    ∧ (n < 384 → (Table.get s.nu.pins n).isSome = true →
        Completes unpin s { s with nu := { s.nu with pins := Table.del s.nu.pins n } } tag q [0x00])

/-- HOLD-PUBLISH and RELEASE-PUBLISH: the new hold and timer, and in the reply the state before with the timer set or the
seconds that were left. -/
def Obligations.PublishHoldIsSetAndReleased : Prop :=
  ∀ (s : State) (tag : Byte), Free s → s.ps.plan ≠ .loading →
    let before : Byte := if s.nu.held then 1 else 0
    exec (.holdPublish tag) s = .next
      (({ s with nu := { s.nu with held := true, timer := s.ps.options.holdTimeout } }).inService tag (.request .holdPublish)
        ([0x00, before] ++ two s.ps.options.holdTimeout))
    ∧ exec (.releasePublish tag) s = .next
      (({ s with nu := { s.nu with held := false, timer := 0 } }).inService tag (.request .releasePublish)
        ([0x00, before] ++ two s.nu.timer))

/-! ## Segments: requests -/

/-- ENROL: DRAINING with a count of 0, and at once KEYING on a quiet segment. STOP-ENROL: at once in DRAINING and before KEY
has gone out, else the stop waits. -/
def Obligations.EnrolmentIsStartedAndStopped : Prop :=
  ∀ (s : State) (tag segment : Byte), Free s → s.ps.plan ≠ .loading →
    let start := Instr.enrol tag segment
    let r := Request.enrol segment
    let stop := Instr.stopEnrol tag segment
    let q := Request.stopEnrol segment
    (4 ≤ segment.toNat → Refuses start s tag r .range ∧ Refuses stop s tag q .range)
    ∧ (∀ ix, SegIx.named segment = some ix →
        let g := s.seg ix
        let draining := s.setSeg ix { g with mode := .draining, enrolCount := 0 }
        let keying := s.setSeg ix { g with mode := .keying, enrolCount := 0, bus := some .key }
        let stopped := raise .enrol (s.setSeg ix
          { g with stack := [], stopWaiting := false, lastEnrol := some (.stopped, g.enrolCount), mode := .run })
        let waiting := s.setSeg ix { g with stopWaiting := true }
        let quiet := g.bus = none ∧ g.drops = []
          ∧ ∀ e, e ∈ g.recs → e.2.state ≠ .loading ∧ ∀ f, e.2.state ≠ .refreshing f
        (g.mode ≠ .run → Refuses start s tag r .busy)
        ∧ (g.mode = .run → quiet → exec start s = .next (keying.inService tag (.request r) [0x00]))
        ∧ (g.mode = .run → ¬ quiet → exec start s = .next (draining.inService tag (.request r) [0x00]))
        ∧ (g.mode = .starting ∨ g.mode = .run → Refuses stop s tag q .wrongState)
        ∧ (g.mode = .draining → exec stop s = .next (stopped.inService tag (.request q) [0x00, 2]))
        ∧ (g.mode = .keying → g.bus = none → exec stop s = .next (stopped.inService tag (.request q) [0x00, 3]))
        ∧ (g.mode = .keying → g.bus ≠ none → exec stop s = .next (waiting.inService tag (.request q) [0x00, 3]))
        ∧ (g.mode = .searching → exec stop s = .next (waiting.inService tag (.request q) [0x00, 4])))

/-- FORGET-PANEL deletes the record, out of the queue and with its slot's pin and face, and marks a DROP; REFRESH-PANEL sets
the forced-full mark, and a record that is not cold is queued at NORMAL at least. Neither touches anything else. -/
def Obligations.PanelsAreForgottenAndRefreshed : Prop :=
  ∀ (s : State) (tag segment address : Byte), Free s → s.ps.plan ≠ .loading →
    let a := address.toNat
    let forget := Instr.forgetPanel tag segment address
    let r := Request.forgetPanel segment address
    let refresh := Instr.refreshPanel tag segment address
    let q := Request.refreshPanel segment address
    (4 ≤ segment.toNat ∨ a = 0 ∨ 96 < a → Refuses forget s tag r .range ∧ Refuses refresh s tag q .range)
    ∧ (∀ ix, SegIx.named segment = some ix → 1 ≤ a → a ≤ 96 →
        let mode := (s.seg ix).mode
        (mode ≠ .run → Refuses forget s tag r .busy)
        ∧ (s.rec? ix a = none → (mode = .run → Refuses forget s tag r .notFound) ∧ Refuses refresh s tag q .notFound)
        ∧ (∀ x, s.rec? ix a = some x →
            let flying := x.state = .loading ∨ ∃ f, x.state = .refreshing f
            (flying → (mode = .run → Refuses forget s tag r .busy) ∧ Refuses refresh s tag q .busy)
            ∧ (x.state = .lost → Refuses refresh s tag q .wrongState)
            ∧ (mode = .run → ¬ flying → ∃ t, exec forget s = .next t
                ∧ FollowsSeg ix ((unpinned ix a s).inService tag (.request r) [0x00]) t
                ∧ t.rec? ix a = none ∧ t.seg ix = (s.seg ix).without a x (t.seg ix).drops ∧ (∀ j, j ≠ ix → t.seg j = s.seg j)
                ∧ (∀ b, b ∈ (t.seg ix).drops ↔ b = a ∨ b ∈ (s.seg ix).drops) ∧ t.sessions = s.sessions
                ∧ (∀ n, x.binding = some n → Table.get t.nu.pins n = none ∧ Table.get t.fr.faces n = none))
            ∧ (x.state = .online ∨ x.state = .queued →
                let y := { x with forcedFull := true }
                let base := s.inService tag (.request q) [0x00, if x.cold then 0 else 1]
                ∃ t, exec refresh s = .next t ∧ OnlyRecord ix a base t ∧ t.fr = s.fr ∧ FlightsKept ix s t
                  ∧ NeedJudged ix a .normal y s t ∧ y.needs = !x.cold)))

/-! ## Sign buses: the choice of the next exchange -/

/-- CHOOSE_EXCHANGE in RUN, and in DRAINING while something is in flight: a pending DROP, else the completion poll that is due
first, else the ready frame of the transfer, else, in RUN alone, an admission, else the next round-robin poll. The end of an
exchange makes the same choice. The frame each exchange sends. -/
def Obligations.ExchangesAreChosenInUseOrder : Prop :=
  (∀ (s : State) (ix : SegIx), s.resetPin = false → (s.seg ix).bus = none →
    (s.seg ix).mode = .run ∨ ((s.seg ix).mode = .draining ∧ (s.seg ix).drained = false) → RecordsGood s →
    let g := s.seg ix
    let c := Instr.chooseExchange ix
    let begins (e : Exchange) : State := s.setSeg ix { g with bus := some e }
    let noDue := ∀ a x f, s.rec? ix a = some x → x.state = .refreshing f → f.due = none
    let noFrame := ∀ t, g.transfer = some t → t.ready = false
    let first (a : Nat) : Prop := (g.pointer ≤ a ∧ ∀ b y, s.rec? ix b = some y → g.pointer ≤ b → a ≤ b)
      ∨ ((∀ b y, s.rec? ix b = some y → b < g.pointer) ∧ ∀ b y, s.rec? ix b = some y → a ≤ b)
    (∀ a rest, g.drops = a :: rest → exec c s = .next (begins (.drop a)))
    ∧ (∀ a x f d, g.drops = [] → s.rec? ix a = some x → x.state = .refreshing f → f.due = some d →
        (∀ b y h e, s.rec? ix b = some y → y.state = .refreshing h → h.due = some e → d < e ∨ (d = e ∧ a ≤ b)) →
        exec c s = .next ((begins (.completion a)).putRec ix a { x with state := .refreshing { f with due := none } }))
    ∧ (∀ t, g.drops = [] → noDue → g.transfer = some t → t.ready = true → t.next < t.total →
        exec c s = .next (s.setSeg ix { g with
          bus := some (.load t.address t.next t.total ((t.encoding.drop (64 * t.next)).take 64))
          transfer := some { t with sends := t.sends + 1, ready := false } }))
    ∧ (∀ t x, g.drops = [] → noDue → g.transfer = some t → t.ready = true → t.total ≤ t.next →
        s.rec? ix t.address = some x →
        exec c s = .next (s.setSeg ix { g with
          bus := some (.showFace t.address t.kind t.digest (durationOf x.cls t.kind x.temp))
          transfer := some { t with ready := false } }))
    ∧ (g.drops = [] → noDue → noFrame → admission ix s = none ∨ g.mode = .draining →
        (g.recs = [] → exec c s = .next s)
        ∧ (∀ a x, s.rec? ix a = some x → first a →
            exec c s = .next (begins (if x.state = .lost then .probe a else .poll a)))))
  ∧ (∀ (s : State) (ix : SegIx), s.resetPin = false →
    let g := s.seg ix
    let readied := match g.bus with
      | some (.load ..) => g.transfer
      | _ => g.transfer.map (fun t => { t with ready := true })
    exec (.chooseExchange ix) (s.setSeg ix { g with bus := none, transfer := readied }) = .next (endExchange ix s))
  ∧ (∀ ix a,
    let sent (e : Exchange) (address kind : Byte) (body : List Byte) : Prop :=
      let covered := [address, kind, byte body.length] ++ body
      e.frame ix = covered ++ halfBytes (crc16 covered)
    sent (.poll a) (byte a) 0x01 [] ∧ sent (.completion a) (byte a) 0x01 []
    ∧ (∀ index total data, sent (.load a index total data) (byte a) 0x02 ([byte index, byte total] ++ data))
    ∧ (∀ kind digest d, sent (.showFace a kind digest d) (byte a) 0x03
        ([if kind = .full then 1 else 2] ++ halfBytes digest ++ two d))
    ∧ sent (.probe a) (byte a) 0x04 [] ∧ sent (.rollIdent a) (byte a) 0x04 []
    ∧ sent .key 0x00 0x05 (wakeKey ix)
    ∧ (∀ stem, sent (.ask stem) 0xFE 0x06 (byte stem.length :: stemBytes stem))
    ∧ (∀ serial, sent (.give serial a) 0xFE 0x07 (serialBytes serial ++ [byte a]))
    ∧ sent (.drop a) (byte a) 0x08 [] ∧ sent (.rollDrop a) (byte a) 0x08 [] ∧ sent (.giveDrop a) (byte a) 0x08 [])

/-- Admission: the scan of R155 admits an entry only within the budget or with nothing reserved, only ALERT while held, and
passes over only entries below the pass limit that are not ALERT and do not fit; the admitted record enters LOADING with the
transfer of R156 and its first LOAD. The kind of a refresh (R151) and its draw (R153). -/
def Obligations.AdmissionStaysWithinTheBudget : Prop :=
  (∀ (recs : Table Rec) (held : Bool) (budget reserved limit : Nat) (q : List Entry),
    (∀ e, e ∈ q → (Table.get recs e.address).isSome = true) →
    let draw (e : Entry) : Nat := ((Table.get recs e.address).map (fun r => drawOf r.cls (kindOf r))).getD 0
    let fits (e : Entry) : Prop := draw e + reserved ≤ budget ∨ reserved = 0
    (∀ f, scanQueue recs held budget reserved limit q = some f →
      fits f.entry ∧ f.draw = draw f.entry ∧ (held = true → f.entry.cls = .alert)
        ∧ (∃ r, Table.get recs f.entry.address = some r ∧ f.kind = kindOf r)
        ∧ ∃ before after, q = before ++ f.entry :: after ∧ f.skipped = before.map (·.address)
            ∧ ∀ e, e ∈ before → ¬ fits e ∧ e.cls ≠ .alert ∧ e.pass < limit ∧ held = false)
    ∧ (∀ e rest, q = e :: rest → fits e → (held = true → e.cls = .alert) →
        ∃ f, scanQueue recs held budget reserved limit q = some f ∧ f.entry = e ∧ f.skipped = []))
  ∧ (∀ x : Rec,
    let limit := match x.cls with
      | .s => 8
      | .m => 6
      | .l => 4
    kindOf x = if x.shown ≠ none ∧ x.lastTemplate = some x.wantedTemplate ∧ x.ghost < limit ∧ x.forcedFull = false then .part
      else .full)
  ∧ drawOf .s .full = 45 ∧ drawOf .s .part = 25 ∧ drawOf .m .full = 90 ∧ drawOf .m .part = 50 ∧ drawOf .l .full = 150
  ∧ drawOf .l .part = 85
  ∧ (∀ (s : State) (ix : SegIx) (f : Found) (x : Rec), s.resetPin = false → (s.seg ix).bus = none → (s.seg ix).mode = .run →
    let g := s.seg ix
    let a := f.entry.address
    g.drops = [] → (∀ b y h, s.rec? ix b = some y → y.state = .refreshing h → h.due = none) → RecordsGood s →
    g.transfer = none → s.rec? ix a = some x →
    scanQueue g.recs s.nu.held (s.budget ix) g.reserved s.ps.options.passLimit g.queue = some f →
    let face : List Byte × Half × Template := match x.binding.bind (Table.get s.fr.faces) with
      | some y => (y.wanted, y.digest, y.template)
      | none => ([0x01], 0x0101, .blank)
    let total := (face.1.length + 63) / 64
    exec (.chooseExchange ix) s = .next (s.setSeg ix { g with
      recs := Table.put g.recs a { x with state := .loading }
      queue := (g.queue.filter (fun e => e.address ≠ a)).map
        (fun e => if f.skipped.contains e.address then { e with pass := e.pass + 1 } else e)
      bus := some (.load a 0 total (face.1.take 64))
      transfer := some { address := a, kind := f.kind, draw := f.draw, cls := f.entry.cls, sequence := f.entry.sequence
                         encoding := face.1, digest := face.2.1, template := face.2.2, total, next := 0, sends := 1
                         ready := false, abandoned := false } }))

/-- R157: the reference duration by class and kind, and the temperature factor between its breakpoints. R158: D and the grace;
D is worked when SHOW is built and sent in it, the deadline is D and the final deadline D and the grace after the end of the
SHOW exchange, and a temperature that a poll brings during the refresh changes none of them. -/
def Obligations.DurationsScaleWithTemperature : Prop :=
  refDuration .s .full = 180 ∧ refDuration .s .part = 40 ∧ refDuration .m .full = 260 ∧ refDuration .m .part = 55
  ∧ refDuration .l .full = 420 ∧ refDuration .l .part = 80
  ∧ (∀ t : Int, t < -10 → tempFactor t = 1024) ∧ (∀ t : Int, 60 ≤ t → tempFactor t = 240)
  ∧ (∀ t : Int, -10 ≤ t → t < 0 → tempFactor t = 1024 + Int.tdiv ((640 - 1024) * (t + 10)) 10)
  ∧ (∀ t : Int, 0 ≤ t → t < 10 → tempFactor t = 640 + Int.tdiv ((384 - 640) * t) 10)
  ∧ (∀ t : Int, 10 ≤ t → t < 20 → tempFactor t = 384 + Int.tdiv ((272 - 384) * (t - 10)) 10)
  ∧ (∀ t : Int, 20 ≤ t → t < 30 → tempFactor t = 272 + Int.tdiv ((240 - 272) * (t - 20)) 10)
  ∧ (∀ t : Int, 30 ≤ t → t < 40 → tempFactor t = 240 + Int.tdiv ((224 - 240) * (t - 30)) 10)
  ∧ (∀ t : Int, 40 ≤ t → t < 50 → tempFactor t = 224)
  ∧ (∀ t : Int, 50 ≤ t → t < 60 → tempFactor t = 224 + Int.tdiv ((240 - 224) * (t - 50)) 10)
  ∧ tempFactor 25 = 256 ∧ (∀ cls kind, durationOf cls kind 25 = refDuration cls kind)
  ∧ (∀ cls kind (t : Int), -40 ≤ t → t ≤ 85 → 0 ≤ tempFactor t
      ∧ durationOf cls kind t = (refDuration cls kind * (tempFactor t).toNat + 255) / 256
      ∧ 35 ≤ durationOf cls kind t ∧ durationOf cls kind t ≤ 1680)
  ∧ (∀ d, graceOf d = max 50 ((d + 3) / 4))
  ∧ (∀ ix a kind digest d,
    let covered := [byte a, 0x03, 5, if kind = .full then 1 else 2] ++ halfBytes digest ++ two d
    Exchange.frame ix (.showFace a kind digest d) = covered ++ halfBytes (crc16 covered))
  ∧ (∀ (s : State) (ix : SegIx) (t : Transfer) (x : Rec), s.resetPin = false → (s.seg ix).bus = none →
    (s.seg ix).mode = .run ∨ ((s.seg ix).mode = .draining ∧ (s.seg ix).drained = false) → RecordsGood s →
    (s.seg ix).drops = [] → (∀ a y f, s.rec? ix a = some y → y.state = .refreshing f → f.due = none) →
    (s.seg ix).transfer = some t → t.ready = true → t.total ≤ t.next → s.rec? ix t.address = some x →
    ∃ u, exec (.chooseExchange ix) s = .next u
      ∧ (u.seg ix).bus = some (.showFace t.address t.kind t.digest (durationOf x.cls t.kind x.temp)))
  ∧ (∀ (s : State) (ix : SegIx) (a : Nat) (kind : RefreshKind) (digest : Half) (d : Nat) (heard : Heard) (t : Transfer) (x : Rec),
    s.resetPin = false → (s.seg ix).bus = some (.showFace a kind digest d) → (s.seg ix).transfer = some t →
    s.rec? ix a = some x → readShow s.lateBytes a heard ≠ .valid false →
    ∃ u y f, exec (.showExchange ix heard) s = .next (endExchange ix u) ∧ u.rec? ix a = some y ∧ y.state = .refreshing f
      ∧ f.duration = d ∧ f.deadline = s.time + d ∧ f.nextPoll = f.deadline ∧ f.final = f.deadline + graceOf d)
  ∧ (∀ (s : State) (ix : SegIx) (a : Nat) (heard : Heard) (x : Rec) (f : Refresh), s.resetPin = false →
    s.rec? ix a = some x → x.state = .refreshing f →
    ((s.seg ix).bus = some (.poll a) →
      ∃ u y, exec (.roundRobinPoll ix heard) s = .next (endExchange ix u) ∧ u.rec? ix a = some y ∧ y.state = .refreshing f)
    ∧ (∀ rep, (s.seg ix).bus = some (.completion a) → readState s.lateBytes a heard = .valid rep → rep.busy = true → f.finalWaits = false →
      ∃ u y, exec (.completionPoll ix heard) s = .next (endExchange ix u) ∧ u.rec? ix a = some y ∧ y.state = .refreshing f))

/-- R135: the key register shifts up with the feedback of bits 15, 13, 12 and 10, starts at the segment's seed, and gives its
low byte after each eight shifts, twelve bytes in all. -/
def Obligations.WakeKeyIsMadeByTheShiftRegister : Prop :=
  (∀ r : Half,
    (keyShift r).getLsbD 0 = Bool.xor (Bool.xor (r.getLsbD 15) (r.getLsbD 13)) (Bool.xor (r.getLsbD 12) (r.getLsbD 10))
    ∧ ∀ i, i < 15 → (keyShift r).getLsbD (i + 1) = r.getLsbD i)
  ∧ keySeed .sc0 = 0x5A3C ∧ keySeed .sc1 = 0x5B3D ∧ keySeed .sc2 = 0x583E ∧ keySeed .sc3 = 0x593F
  ∧ (∀ ix i, i < 12 → (wakeKey ix).length = 12
      ∧ (wakeKey ix).getD i 0 = ((List.range (8 * (i + 1))).foldl (fun r _ => keyShift r) (keySeed ix)).setWidth 8)

/-! ## Sign buses: polls -/

/-- ROUND_ROBIN_POLL: the pointer moves on; a good STATE reply gives miss count 0, temperature, cold flag and, in ONLINE and
QUEUED, the shown digest with the need evaluated; a miss counts, and at the miss limit an ONLINE or QUEUED record is LOST.
What was heard is VALID when it begins with a whole reply frame of the address with a kind that answers, which ends the reply;
any other activity is GARBLED. A field of an answer is read from its place in the body; a byte the body has not is a free value.
When a record needs a refresh, its derived class, and the higher of two classes. -/
def Obligations.RoundRobinPollsAreTaken : Prop :=
  (∀ (s : State) (ix : SegIx) (a : Nat) (heard : Heard), s.resetPin = false → (s.seg ix).bus = some (.poll a) →
    ∃ u, exec (.roundRobinPoll ix heard) s = .next (endExchange ix u)
      ∧ OnlyRecord ix a s u ∧ (u.seg ix).pointer = (if 96 ≤ a then 1 else a + 1) ∧ u.fr = s.fr
      ∧ (u.seg ix).transfer = (s.seg ix).transfer ∧ (u.seg ix).reserved = (s.seg ix).reserved
      ∧ (s.rec? ix a = none → u.seg ix = { s.seg ix with pointer := (u.seg ix).pointer })
      ∧ (∀ x, s.rec? ix a = some x →
          let idle := x.state = .online ∨ x.state = .queued
          (∀ rep, readState s.lateBytes a heard = .valid rep →
            let temp := if -40 ≤ rep.temp ∧ rep.temp ≤ 85 then rep.temp else x.temp
            let cold := decide (temp < s.ps.options.refreshFloor)
            let y := { x with miss := 0, temp, cold, shown := if idle then rep.shown else x.shown }
            (idle → NeedJudged ix a .maint y s u)
              ∧ (¬ idle → u.rec? ix a = some y ∧ (u.seg ix).queue = (s.seg ix).queue
                  ∧ (u.seg ix).sequence = (s.seg ix).sequence)
              ∧ (x.cold = false → cold = true → flagSet u .cold = true))
          ∧ (readState s.lateBytes a heard = .silent ∨ readState s.lateBytes a heard = .garbled →
              let y := { x with miss := min (x.miss + 1) 255 }
              (u.seg ix).sequence = (s.seg ix).sequence
              ∧ (idle → s.ps.options.missLimit ≤ y.miss → IsLost ix a y u)
              ∧ (¬ (idle ∧ s.ps.options.missLimit ≤ y.miss) →
                  u.rec? ix a = some y ∧ (u.seg ix).queue = (s.seg ix).queue))))
  ∧ (∀ (address : Byte) (kinds : List Byte) (heard : Heard),
    let good (line : List Byte) (kind : Byte) (body : List Byte) : Prop :=
      let covered := [address, kind, byte body.length] ++ body
      kind ∈ kinds ∧ body.length ≤ 80 ∧ ∃ later, line = covered ++ halfBytes (crc16 covered) ++ later
    (readReply address kinds heard = .silent ↔ heard = .silent)
    ∧ (∀ kind body, readReply address kinds heard = .valid kind body ↔ ∃ line, heard = .bytes line false ∧ good line kind body)
    ∧ (readReply address kinds heard = .garbled ↔ ∃ line bad, heard = .bytes line bad
        ∧ (bad = true ∨ ∀ kind body, ¬ good line kind body)))
  ∧ (∀ (late : Nat → Byte) (a : Nat) (heard : Heard),
    let heardAs (kind : Byte) (body : List Byte) : Prop := readReply (byte a) [kind] heard = .valid kind body
    let inSlot (kind : Byte) (body : List Byte) : Prop := readReply 0xFE [kind] heard = .valid kind body
    let shown (body : List Byte) (f : Nat) : Option Half :=
      let b (i : Nat) : Byte := body.getD i (late i)
      if (b f).getLsbD 1 then some (half (b (f + 1)) (b (f + 2))) else none
    let carries (body : List Byte) (i : Nat) (v : Byte) : Prop := v = body.getD i (late i)
    let serial (body : List Byte) (n : Serial) : Prop := serialBytes n = (List.range 6).map (fun i => body.getD i (late i))
    let answers {α : Type} (x : Answer α) (kinds : List Byte) (address : Byte) : Prop :=
      (x = .silent ↔ heard = .silent) ∧ (x = .garbled ↔ readReply address kinds heard = .garbled)
    answers (readState late a heard) [0x81] (byte a) ∧ answers (readIdent late a heard) [0x84] (byte a)
    ∧ answers (readAck late a heard) [0x82] (byte a) ∧ answers (readShow late a heard) [0x83, 0x93] (byte a)
    ∧ answers (readAsk late heard) [0x86] 0xFE ∧ answers (readGive late heard) [0x87] 0xFE
    ∧ (∀ rep, readState late a heard = .valid rep ↔ ∃ body v t, heardAs 0x81 body ∧ carries body 0 v ∧ carries body 3 t
        ∧ rep = { busy := v.getLsbD 0, shown := shown body 0, temp := t.toInt })
    ∧ (∀ id, readIdent late a heard = .valid id ↔ ∃ body, heardAs 0x84 body ∧ serial body id.serial ∧ carries body 6 id.cls
        ∧ id.shown = shown body 7)
    ∧ (∀ i, readAck late a heard = .valid i ↔ ∃ body v, heardAs 0x82 body ∧ carries body 0 v ∧ i = v.toNat)
    ∧ (∀ ok : Bool, readShow late a heard = .valid ok ↔
        ∃ body, readReply (byte a) [0x83, 0x93] heard = .valid (if ok then 0x83 else 0x93) body)
    ∧ (∀ n, readAsk late heard = .valid n ↔ ∃ body, inSlot 0x86 body ∧ serial body n)
    ∧ (∀ k, readGive late heard = .valid k ↔ ∃ body, inSlot 0x87 body ∧ carries body 0 k))
  ∧ (∀ x : Rec,
    (x.needs = true ↔ x.cold = false ∧ (x.shown = none ∨ x.shown ≠ some x.wantedDigest ∨ x.forcedFull = true))
    ∧ x.derived = if x.shown = some x.wantedDigest then .maint else if x.wantedTemplate = .notice then .alert else .normal)
  ∧ (∀ c d : QueueClass,
    higher c d = if c = .alert ∨ d = .alert then .alert else if c = .normal ∨ d = .normal then .normal else .maint)

/-- RETURN_PROBE: no good reply counts a miss; the record's own serial with a good class brings it back ONLINE with its last
template unknown and PANEL, its need evaluated; another serial or a bad class deletes it, marks a DROP and raises PANEL. -/
def Obligations.ReturnProbesAreTaken : Prop :=
  ∀ (s : State) (ix : SegIx) (a : Nat) (heard : Heard) (x : Rec), s.resetPin = false → (s.seg ix).bus = some (.probe a) →
    s.rec? ix a = some x →
    ∃ u, exec (.returnProbe ix heard) s = .next (endExchange ix u)
      ∧ (u.seg ix).pointer = (if 96 ≤ a then 1 else a + 1) ∧ (∀ b, b ≠ a → (u.rec? ix b).map Rec.kept = (s.rec? ix b).map Rec.kept)
      ∧ (readIdent s.lateBytes a heard = .silent ∨ readIdent s.lateBytes a heard = .garbled →
          let pointer := (u.seg ix).pointer
          u = s.setSeg ix { s.seg ix with pointer, recs := Table.put (s.seg ix).recs a { x with miss := min (x.miss + 1) 255 } })
      ∧ (∀ id c, readIdent s.lateBytes a heard = .valid id → id.serial = x.serial → PanelClass.ofCode id.cls = some c →
          FollowsSeg ix s u ∧ flagSet u .panel = true ∧ ∃ y, u.rec? ix a = some y
            ∧ y.kept = ({ x with state := .online, miss := 0, shown := id.shown, lastTemplate := none, cls := c
                                 ghost := if c = x.cls then x.ghost else ghostLimit c } : Rec).kept
            ∧ (y.state = if y.needs then .queued else .online)
            ∧ (c = x.cls ∨ x.binding = none → u.fr = s.fr ∧ y.wantedDigest = x.wantedDigest
                ∧ y.wantedTemplate = x.wantedTemplate)
            ∧ (RecordsGood s → (∀ e, e ∈ (s.seg ix).queue → e.address ≠ a) → OnlyRecord ix a s u ∧ (u.seg ix).transfer = (s.seg ix).transfer
                ∧ (u.seg ix).reserved = (s.seg ix).reserved
                ∧ (y.needs = true →
                    { address := a, cls := y.derived, sequence := (s.seg ix).sequence, pass := 0 } ∈ (u.seg ix).queue
                      ∧ (u.seg ix).sequence = ((s.seg ix).sequence + 1) % 4294967296)
                ∧ (y.needs = false → (u.seg ix).sequence = (s.seg ix).sequence)))
      ∧ (∀ id, readIdent s.lateBytes a heard = .valid id → id.serial ≠ x.serial ∨ PanelClass.ofCode id.cls = none →
          FollowsSeg ix (unpinned ix a s) u ∧ flagSet u .panel = true ∧ u.rec? ix a = none
            ∧ u.seg ix = { (s.seg ix).without a x (u.seg ix).drops with pointer := (u.seg ix).pointer }
            ∧ (∀ b, b ∈ (u.seg ix).drops ↔ b = a ∨ b ∈ (s.seg ix).drops) ∧ (∀ j, j ≠ ix → u.seg j = s.seg j)
            ∧ (∀ n, x.binding = some n → Table.get u.nu.pins n = none ∧ Table.get u.fr.faces n = none))

/-! ## Sign buses: transfers and refreshes -/

/-- LOAD_EXCHANGE: an ACK of the index sent makes the next chunk present; any other outcome is a failed chunk, repeated until
its third send fails and the transfer is abandoned with a miss. A transfer that a wanted-face change abandoned meanwhile ends
here, whatever was heard, without a miss, its record judged as it now stands. -/
def Obligations.ChunksAreAcknowledgedOrRepeated : Prop :=
  ∀ (s : State) (ix : SegIx) (a index total : Nat) (data : List Byte) (heard : Heard), s.resetPin = false →
    (s.seg ix).bus = some (.load a index total data) →
    let c := Instr.loadExchange ix heard
    let g := s.seg ix
    (g.transfer = none → exec c s = .next (endExchange ix s))
    ∧ (∀ t, g.transfer = some t → t.abandoned = false →
        (readAck s.lateBytes a heard = .valid index → exec c s = .next (endExchange ix (s.setSeg ix
          { g with transfer := some { t with next := t.next + 1, sends := 0, ready := false } })))
        ∧ (readAck s.lateBytes a heard ≠ .valid index → t.sends < 3 → exec c s = .next (endExchange ix s))
        ∧ (∀ x, readAck s.lateBytes a heard ≠ .valid index → 3 ≤ t.sends → s.rec? ix t.address = some x →
            ∃ u, exec c s = .next (endExchange ix u)
              ∧ LeavesLoading ix t.address t { x with miss := min (x.miss + 1) 255 } s u))
    ∧ (∀ t x, g.transfer = some t → t.abandoned = true → s.rec? ix t.address = some x →
        ∃ u, exec c s = .next (endExchange ix u) ∧ LeavesLoading ix t.address t x s u)

/-- SHOW_EXCHANGE: SHOWN starts a confirmed refresh, no good reply an unconfirmed one with a miss; its draw is reserved and
its deadlines run from now. REFUSED leaves LOADING with the last template unknown. -/
def Obligations.ShowStartsTheRefresh : Prop :=
  ∀ (s : State) (ix : SegIx) (a : Nat) (kind : RefreshKind) (digest : Half) (duration : Nat) (heard : Heard) (t : Transfer)
    (x : Rec), s.resetPin = false → (s.seg ix).bus = some (.showFace a kind digest duration) →
    (s.seg ix).transfer = some t → s.rec? ix a = some x →
    let c := Instr.showExchange ix heard
    let g := s.seg ix
    let refresh (confirmed : Bool) : Refresh :=
      { kind := t.kind, draw := t.draw, digest := t.digest, template := t.template, duration
        deadline := s.time + duration, final := s.time + duration + max 50 ((duration + 3) / 4), confirmed
        due := none, nextPoll := s.time + duration, finalWaits := false }
    let begun (y : Rec) (confirmed : Bool) : State := s.setSeg ix { g with
      recs := Table.put g.recs a { y with state := .refreshing (refresh confirmed) }
      reserved := g.reserved + t.draw
      transfer := none }
    (readShow s.lateBytes a heard = .valid true → exec c s = .next (endExchange ix (begun x true)))
    ∧ (readShow s.lateBytes a heard = .silent ∨ readShow s.lateBytes a heard = .garbled →
        exec c s = .next (endExchange ix (begun { x with miss := min (x.miss + 1) 255 } false)))
    ∧ (readShow s.lateBytes a heard = .valid false →
        ∃ u, exec c s = .next (endExchange ix u) ∧ LeavesLoading ix a t { x with lastTemplate := none } s u)

/-- COMPLETION_POLL_DUE and FINAL_DEADLINE: a poll time short of the final deadline waits to be sent, the next is 10 cs later;
at the final deadline the part gives up, unless a completion poll of the record is in progress, which it waits for. -/
def Obligations.RefreshTimesAreTaken : Prop :=
  ∀ (s : State) (ix : SegIx) (a : Nat) (x : Rec) (f : Refresh), s.resetPin = false → s.rec? ix a = some x →
    x.state = .refreshing f →
    let due := Instr.completionPollDue ix a
    let final := Instr.finalDeadline ix a
    let now : State := { s with time := max s.time f.final }
    let unknown : Rec := { x with shown := none, lastTemplate := none, miss := min (x.miss + 1) 255 }
    (f.nextPoll < f.final → exec due s = .next ({ s with time := max s.time f.nextPoll }.putRec ix a
        { x with state := .refreshing { f with due := some (f.due.getD f.nextPoll), nextPoll := f.nextPoll + 10 } }))
    ∧ (f.final ≤ f.nextPoll → exec due s = .next s)
    ∧ ((s.seg ix).bus = some (.completion a) →
        exec final s = .next (now.putRec ix a { x with state := .refreshing { f with finalWaits := true } }))
    ∧ ((s.seg ix).bus ≠ some (.completion a) →
        ∃ u, LeavesRefreshing ix a f.draw unknown now u
          ∧ ((u.seg ix).mode ≠ .draining ∨ (u.seg ix).drained = false → exec final s = .next u)
          ∧ ((u.seg ix).mode = .draining → (u.seg ix).drained = true →
              exec final s = .next (u.setSeg ix { u.seg ix with mode := .keying, bus := some .key })))

/-- COMPLETION_POLL: not busy completes the refresh by R167; busy takes temperature and a miss count of 0; no good reply
changes nothing; a final deadline that came meanwhile is then taken if the refresh still runs. -/
def Obligations.CompletionPollsEndRefreshes : Prop :=
  ∀ (s : State) (ix : SegIx) (a : Nat) (heard : Heard) (x : Rec) (f : Refresh), s.resetPin = false →
    (s.seg ix).bus = some (.completion a) → s.rec? ix a = some x → x.state = .refreshing f →
    let c := Instr.completionPoll ix heard
    let gaveUp (y : Rec) (u : State) : Prop :=
      LeavesRefreshing ix a f.draw { y with shown := none, lastTemplate := none, miss := min (y.miss + 1) 255 } s u
    (readState s.lateBytes a heard = .silent ∨ readState s.lateBytes a heard = .garbled →
      (f.finalWaits = false → exec c s = .next (endExchange ix s))
      ∧ (f.finalWaits = true → ∃ u, exec c s = .next (endExchange ix u) ∧ gaveUp x u))
    ∧ (∀ rep, readState s.lateBytes a heard = .valid rep →
        let temp := if -40 ≤ rep.temp ∧ rep.temp ≤ 85 then rep.temp else x.temp
        let cold := decide (temp < s.ps.options.refreshFloor)
        let y := { x with miss := 0, temp, cold }
        (rep.busy = true → f.finalWaits = false → ∃ u, exec c s = .next (endExchange ix u)
          ∧ OnlyRecord ix a s u ∧ u.fr = s.fr ∧ u.seg ix = { s.seg ix with recs := Table.put (s.seg ix).recs a y }
          ∧ (x.cold = false → cold = true → flagSet u .cold = true))
        ∧ (rep.busy = true → f.finalWaits = true → ∃ u, exec c s = .next (endExchange ix u) ∧ gaveUp y u)
        ∧ (rep.busy = false →
            let z : Rec :=
              if f.confirmed = true ∨ rep.shown = some f.digest then
                { y with shown := rep.shown, lastTemplate := some f.template, forcedFull := false
                         ghost := if f.kind = .full then 0 else x.ghost + 1 }
              else { y with shown := rep.shown, lastTemplate := none }
            ∃ u, exec c s = .next (endExchange ix u) ∧ LeavesRefreshing ix a f.draw z s u
              ∧ (x.cold = false → cold = true → flagSet u .cold = true)))

/-! ## Sign buses: roll call and enrolment -/

/-- DROP_EXCHANGE and ROLL_CALL_IDENT: a DROP sent is no longer pending; roll call creates a record, drops a shared or bad
address with PANEL, or finds none, and moves to the next address, after 96 to RUN. -/
def Obligations.RollCallGoesThroughTheAddresses : Prop :=
  ∀ (s : State) (ix : SegIx) (heard : Heard), s.resetPin = false →
    let g := s.seg ix
    let drop := Instr.dropExchange ix
    let ident := Instr.rollCallIdent ix heard
    (∀ u : State, (u.seg ix).rollAddr < 96 →
      rollAdvance ix u = u.setSeg ix { u.seg ix with
        rollAddr := (u.seg ix).rollAddr + 1, bus := some (.rollIdent ((u.seg ix).rollAddr + 1)) })
    ∧ (∀ u : State, u.resetPin = false → 96 ≤ (u.seg ix).rollAddr →
        exec (.chooseExchange ix) (u.setSeg ix { u.seg ix with bus := none, mode := .run }) = .next (rollAdvance ix u))
    ∧ (∀ a, g.bus = some (.drop a) →
        exec drop s = .next (endExchange ix (s.setSeg ix { g with drops := g.drops.filter (fun b => b ≠ a) })))
    ∧ (∀ a, g.bus = some (.giveDrop a) → exec drop s = .next (endExchange ix s))
    ∧ (∀ a, g.bus = some (.rollDrop a) → s.rec? ix a = none → exec drop s = .next (rollAdvance ix s))
    ∧ (∀ a, g.bus = some (.rollIdent a) →
        let dropped := (raise .panel s).setSeg ix { g with bus := some (.rollDrop a) }
        (readIdent s.lateBytes a heard = .silent → exec ident s = .next (rollAdvance ix s))
        ∧ (readIdent s.lateBytes a heard = .garbled → exec ident s = .next dropped)
        ∧ (∀ id, readIdent s.lateBytes a heard = .valid id → PanelClass.ofCode id.cls = none → exec ident s = .next dropped)
        ∧ (∀ id k, readIdent s.lateBytes a heard = .valid id → PanelClass.ofCode id.cls = some k →
            ∃ u y, exec ident s = .next (rollAdvance ix u) ∧ OnlyRecord ix a s u ∧ FlightsKept ix s u ∧ u.rec? ix a = some y
              ∧ (∀ n, y.binding = some n → s.slotOf id.serial = some n)
              ∧ ({ y with binding := none } : Rec).kept
                  = { serial := id.serial, cls := k, binding := none, state := .online, shown := id.shown
                      lastTemplate := none, ghost := match k with | .s => 8 | .m => 6 | .l => 4
                      temp := 25, cold := false, miss := 0, forcedFull := false, wantedDigest := 0, wantedTemplate := .blank }
              ∧ y.state = (if y.needs then .queued else .online)
              ∧ (y.needs = true → (∀ e, e ∈ g.queue → e.address ≠ a) →
                  { address := a, cls := y.derived, sequence := g.sequence, pass := 0 } ∈ (u.seg ix).queue
                    ∧ (u.seg ix).sequence = (g.sequence + 1) % 4294967296)
              ∧ (y.needs = false → (u.seg ix).sequence = g.sequence)
              ∧ (s.rec? ix a = none → RecordsGood s → ∀ n, s.slotOf id.serial = some n →
                  (s.holder n = none → y.binding = some n)
                  ∧ (s.holder n ≠ none → y.binding = none ∧ flagSet u .stray = true ∧ flagSet u .panel = true))
              ∧ (s.slotOf id.serial = none → y.binding = none ∧ u.fr = s.fr ∧ flagSet u .stray = true)))

/-- DRAIN_COMPLETE, KEY_EXCHANGE, ASK_EXCHANGE and the choices outside RUN: a drained segment keys; KEY starts the search at
the empty prefix; each step asks for the top prefix; a collision splits it, the branch of 0 on top; one answer is given the
lowest free address; an empty stack, no free address and a waiting stop end the enrolment. -/
def Obligations.EnrolmentSearchesTheTree : Prop :=
  ∀ (s : State) (ix : SegIx) (heard : Heard), s.resetPin = false →
    let g := s.seg ix
    let choose := Instr.chooseExchange ix
    let begins (e : Exchange) : State := s.setSeg ix { g with bus := some e }
    let keying := s.setSeg ix { g with mode := .keying, bus := some .key }
    let ended (result : EnrolResult) : State := raise .enrol (s.setSeg ix
      { g with stack := [], stopWaiting := false, lastEnrol := some (result, g.enrolCount), mode := .run })
    (g.mode = .draining → g.drained = true → exec (.drainComplete ix) s = .next keying ∧ exec choose s = .next keying)
    ∧ (g.mode ≠ .draining ∨ g.drained = false → exec (.drainComplete ix) s = .next s)
    ∧ (g.bus = none →
        (g.mode = .starting → s.ps.plan = .loading → exec choose s = .next s)
        ∧ (g.mode = .starting → s.ps.plan ≠ .loading → exec choose s = .next (begins (.rollIdent g.rollAddr)))
        ∧ (g.mode = .keying → exec choose s = .next (begins .key))
        ∧ (g.mode = .searching → g.stopWaiting = true → exec choose s = exec choose (ended .stopped))
        ∧ (g.mode = .searching → g.stopWaiting = false → g.stack = [] → exec choose s = exec choose (ended .done))
        ∧ (∀ stem rest, g.mode = .searching → g.stopWaiting = false → g.stack = stem :: rest →
            exec choose s = .next (s.setSeg ix { g with stack := rest, bus := some (.ask stem) })))
    ∧ (g.bus = some .key →
        exec (.keyExchange ix) s = .next (endExchange ix (s.setSeg ix { g with mode := .searching, stack := [[]] })))
    ∧ (∀ stem, g.bus = some (.ask stem) →
        let c := Instr.askExchange ix heard
        let collided := readAsk s.lateBytes heard = .garbled ∨ ∃ n, readAsk s.lateBytes heard = .valid n ∧ stemOf stem n = false
        let free (a : Nat) : Prop := 1 ≤ a ∧ a ≤ 96 ∧ s.rec? ix a = none ∧ a ∉ g.drops
        (readAsk s.lateBytes heard = .silent → exec c s = .next (endExchange ix s))
        ∧ (collided → stem.length < 48 → exec c s = .next (endExchange ix
            (s.setSeg ix { g with stack := (stem ++ [false]) :: (stem ++ [true]) :: g.stack })))
        ∧ (collided → 48 ≤ stem.length → exec c s = .next (endExchange ix (raise .panel s)))
        ∧ (∀ n, readAsk s.lateBytes heard = .valid n → stemOf stem n = true →
            (g.stopWaiting = true → exec c s = .next (endExchange ix s))
            ∧ (g.stopWaiting = false → (∀ a, ¬ free a) → exec c s = .next (endExchange ix (ended .full)))
            ∧ (∀ a, g.stopWaiting = false → free a → (∀ b, free b → a ≤ b) → exec c s = .next (begins (.give n a)))))

/-- GIVE_EXCHANGE: no good reply or a bad class sends a DROP; a good GIVE-ACK creates the record, counted and queued, displaces
a LOST holder of its slot with PANEL, or is refused with a DROP and PANEL when a live record holds the slot. -/
def Obligations.GivenPanelsAreEnrolledOrRefused : Prop :=
  ∀ (s : State) (ix : SegIx) (heard : Heard) (serial : Serial) (a : Nat), s.resetPin = false →
    (s.seg ix).bus = some (.give serial a) →
    let c := Instr.giveExchange ix heard
    let dropped (s : State) : State := s.setSeg ix { s.seg ix with bus := some (.giveDrop a) }
    let enrolled (d u : State) (y : Rec) (k : PanelClass) : Prop :=
      u.rec? ix a = some y ∧ (u.seg ix).enrolCount = (s.seg ix).enrolCount + 1
        ∧ y.serial = serial ∧ y.cls = k ∧ y.shown = none ∧ y.lastTemplate = none ∧ y.ghost = ghostLimit k ∧ y.temp = 25
        ∧ y.cold = false ∧ y.miss = 0 ∧ y.forcedFull = false ∧ y.state = .queued
        ∧ OnlyRecord ix a (d.setSeg ix { d.seg ix with enrolCount := (s.seg ix).enrolCount + 1 }) u ∧ FlightsKept ix d u
        ∧ ((∀ e, e ∈ (s.seg ix).queue → e.address ≠ a) →
            { address := a, cls := y.derived, sequence := (s.seg ix).sequence, pass := 0 } ∈ (u.seg ix).queue)
        ∧ (u.seg ix).sequence = ((s.seg ix).sequence + 1) % 4294967296
    (readGive s.lateBytes heard = .silent ∨ readGive s.lateBytes heard = .garbled → exec c s = .next (dropped s))
    ∧ (∀ code, readGive s.lateBytes heard = .valid code → PanelClass.ofCode code = none →
        exec c s = .next (dropped (raise .panel s)))
    ∧ (∀ code k, readGive s.lateBytes heard = .valid code → PanelClass.ofCode code = some k →
        (s.slotOf serial = none → ∃ u y, exec c s = .next (endExchange ix u)
          ∧ enrolled s u y k ∧ y.binding = none ∧ u.fr = s.fr ∧ flagSet u .stray = true)
        ∧ (∀ n, s.slotOf serial = some n → s.holder n = none → s.rec? ix a = none →
            ∃ u y, exec c s = .next (endExchange ix u) ∧ enrolled s u y k ∧ y.binding = some n)
        ∧ (∀ n h, s.slotOf serial = some n → s.holder n = some h → h.rec_.state = .lost → s.rec? ix a = none → RecordsGood s →
            ∃ d u y, exec c s = .next (endExchange ix u)
              ∧ FollowsSeg h.seg (unpinned h.seg h.address s) d ∧ (∀ j, j ≠ h.seg → d.seg j = s.seg j)
              ∧ d.seg h.seg = (s.seg h.seg).without h.address h.rec_ (d.seg h.seg).drops
              ∧ (∀ b, b ∈ (d.seg h.seg).drops ↔ b = h.address ∨ b ∈ (s.seg h.seg).drops)
              ∧ enrolled d u y k ∧ y.binding = some n
              ∧ u.rec? h.seg h.address = none ∧ h.address ∈ (u.seg h.seg).drops ∧ flagSet u .panel = true
              ∧ Table.get u.nu.pins n = none)
        ∧ (∀ n h, s.slotOf serial = some n → s.holder n = some h → h.rec_.state ≠ .lost →
            exec c s = .next (dropped (raise .panel s))))

/-! ## FR -/

/-- R73, R74: a slot recomputed shows the NOTICE face of the highest level, lowest zone that reaches it; else its pin's copy;
else its role face. Its role face is kept whatever the precedence gives, and no other slot's face changes. R72: a face whose
encoding differs is delivered to the bound record's segment, an equal one is not. R150, R161, R165: what the delivery does
there by the record's state. The digest of an encoding (R207) and the bytes of a text field (R206). -/
def Obligations.FacesFollowPrecedence : Prop :=
  (∀ (s : State) (slot : Nat) (p : PanelSlot) (h : Place), TablesGood s → Table.get s.ps.panels slot = some p →
    s.holder slot = some h →
    let t := recomputeSlot slot s
    let reaches (e : Nat × Notice) : Prop := e ∈ s.nu.notices ∧ p.zones.getLsbD e.1 = true ∧ e.2.level ≠ .advisory
    let role := (roleFaceOf s p h.rec_.cls (s.pageIndex slot)).face
    Follows s t ∧ (∀ m, m ≠ slot → Table.get t.fr.faces m = Table.get s.fr.faces m)
      ∧ (∀ old f, Table.get s.fr.faces slot = some old → Table.get t.fr.faces slot = some f →
          (old.wanted = f.wanted → t.sc = s.sc)
          ∧ (old.wanted ≠ f.wanted → t.sc = (wantedFaceChange h.seg h.address f.digest f.template s).sc))
      ∧ (∀ f, Table.get s.fr.faces slot = none → Table.get t.fr.faces slot = some f →
          t.sc = (wantedFaceChange h.seg h.address f.digest f.template s).sc)
      ∧ ∃ f, Table.get t.fr.faces slot = some f ∧ f.role = role.encode
        ∧ (∀ e, reaches e →
            (∀ x, reaches x → x.2.level.code.toNat < e.2.level.code.toNat ∨ (x.2.level = e.2.level ∧ e.1 ≤ x.1)) →
            let text := (readRef s.text e.2.text).cut 240
            f.source = .notice ∧ f.template = .notice ∧ f.digest = fletcher16 f.wanted
              ∧ f.wanted = [0x06, 0x0F, e.2.level.code, 0x10, byte e.1] ++ textField 0x11 text)
        ∧ (∀ pin, (∀ e, ¬ reaches e) → Table.get s.nu.pins slot = some pin →
            f.source = .pin ∧ f.wanted = pin.copy ∧ f.digest = pin.digest)
        ∧ ((∀ e, ¬ reaches e) → Table.get s.nu.pins slot = none →
            f.source = .role ∧ f.wanted = role.encode ∧ f.digest = fletcher16 role.encode ∧ f.template = role.template))
  ∧ (∀ (s : State) (ix : SegIx) (a : Nat) (x : Rec) (digest : Half) (template : Template), s.rec? ix a = some x →
    let y := { x with wantedDigest := digest, wantedTemplate := template }
    let u := wantedFaceChange ix a digest template s
    let put := s.putRec ix a y
    OnlyRecord ix a s u ∧ u.fr = s.fr
      ∧ (x.state = .online ∨ x.state = .queued → NeedJudged ix a .maint y s u ∧ FlightsKept ix s u)
      ∧ (x.state = .lost ∨ (∃ f, x.state = .refreshing f) → u = put)
      ∧ (∀ v, x.state = .loading → (s.seg ix).transfer = some v →
          let bus := (s.seg ix).bus
          ((∃ kind d n, bus = some (.showFace a kind d n)) → u = put)
          ∧ ((∃ i n data, bus = some (.load a i n data)) →
              u = put.setSeg ix { put.seg ix with transfer := some { v with abandoned := true } })
          ∧ ((∀ kind d n, bus ≠ some (.showFace a kind d n)) → (∀ i n data, bus ≠ some (.load a i n data)) →
              LeavesLoading ix a v y s u)))
  ∧ (∀ bytes : List Byte,
    let sums := bytes.foldl (fun (s : Nat × Nat) b => ((s.1 + b.toNat) % 255, (s.2 + (s.1 + b.toNat) % 255) % 255)) (0, 0)
    fletcher16 bytes = BitVec.ofNat 16 (sums.2 * 256 + sums.1))
  ∧ (∀ (code : Nat) (c : Clip),
    textField code c = [byte (code + 128 * c.clipped.toNat), byte c.bytes.length] ++ c.bytes)

/-- R76–R85: a door plate's candidates, its current and next session with their ties, and its closed, idle and session faces
byte by byte; a directory's line list in its order, its page count and the page it shows byte by byte. R75: the banner is the
ADVISORY of the lowest zone in the mask, cut to 128 bytes, unless a higher level reaches the slot. R71, R72, R87: every step from
a good clock keeps every bound slot's face as its inputs give it, at a page index below the page count. The exception is a change
of the door lead while a cancelled session takes it: visibility moves, ST delivers no session change and FR is not told (R37). -/
def Obligations.RoleFacesShowTheDay : Prop :=
  (∀ (s : State) (index : Nat) (p : Space) (banner : Option Clip), spaceHolding s.lu.spaces index = some p →
    Table.rising s.sessions = true →
    let c := candidates s p.sections
    let text (r : TextRef) (width : Nat) : Clip := (readRef s.text r).cut width
    let name := text p.name 64
    let more := if 0 < p.more then [0x02, byte p.more] else []
    let bannerBytes := (banner.map (textField 0x0B)).getD []
    let now (x : Session) : Bool := x.phase = .doors || x.phase = .live || x.phase = .overrun
    let running (e : Nat × Session) : Prop := e ∈ c ∧ e.2.cancelled = false ∧ now e.2 = true
    let visible (e : Nat × Session) : Prop := e ∈ c ∧ visibleAt s.clock s.ps.options.doorLead e.2 = true
    let coming (e : Nat × Session) : Prop := e ∈ c ∧ e.2.cancelled = false ∧ e.2.phase = .upcoming
      ∧ e.2.start ≤ s.clock.minute + s.ps.options.nextWindow
    let first (e x : Nat × Session) : Prop := e.2.start < x.2.start ∨ (e.2.start = x.2.start ∧ e.1 ≤ x.1)
    (∀ e, e ∈ c ↔ s.clock.mode ≠ .unset ∧ e ∈ s.sessions ∧ e.2.day = s.clock.day ∧ ∃ i, i ∈ e.2.sections ∧ i ∈ p.sections)
    ∧ (∀ x, visibleAt s.clock s.ps.options.doorLead x = true ↔ x.cancelled = true ∧ s.clock.mode ≠ .unset
        ∧ s.clock.day = x.day ∧ x.start - x.lead.getD s.ps.options.doorLead ≤ s.clock.minute ∧ s.clock.minute < x.stop)
    ∧ (∀ e, currentOf s c = some e → (running e ∧ ∀ x, running x → first e x)
        ∨ ((∀ x, ¬ running x) ∧ visible e ∧ ∀ x, visible x → first e x))
    ∧ (currentOf s c = none → (∀ x, ¬ running x) ∧ ∀ x, ¬ visible x)
    ∧ (∀ e, nextOf s c = some e → coming e ∧ ∀ x, coming x → first e x)
    ∧ (nextOf s c = none → ∀ x, ¬ coming x)
    ∧ (p.closed = true → (doorFace s index banner).encode = 0x04 :: textField 0x01 name)
    ∧ (p.closed = false → currentOf s c = none → nextOf s c = none →
        (doorFace s index banner).encode = 0x02 :: (textField 0x01 name ++ more ++ bannerBytes))
    ∧ (∀ cur nxt, p.closed = false → currentOf s c = cur → nextOf s c = nxt → cur ≠ none ∨ nxt ≠ none →
        let titleOf (x : Session) : TextRef := if x.withheld then s.ps.options.privateText else x.title
        let title := cur.map (fun e => text (titleOf e.2) 160)
        let speaker := match cur with
          | some e => if e.2.withheld then none else e.2.speaker.map (fun r => text r 96)
          | none => none
        let nextTitle := nxt.map (fun e => text (titleOf e.2) 96)
        let layout : Bool := match cur with
          | some e => !e.2.placed
          | none => false
        let several : Bool := 1 < (c.filter (fun e => !e.2.cancelled && now e.2)).length
        let off : Bool := match cur with
          | some e => e.2.cancelled
          | none => false
        let clipped : Bool := ([some name, title, speaker, nextTitle, banner].filterMap id).any (fun x => x.clipped)
        let marks := layout.toNat + 2 * several.toNat + 4 * off.toNat + 8 * clipped.toNat
        (doorFace s index banner).encode = 0x03 :: (textField 0x01 name ++ more
          ++ (title.map (textField 0x03)).getD [] ++ (speaker.map (textField 0x04)).getD []
          ++ (match cur with
              | some e => [0x05] ++ two e.2.start ++ two e.2.effectiveEnd ++ [0x06, e.2.phase.code]
              | none => [])
          ++ (if 0 < marks then [0x07, byte marks] else [])
          ++ (match cur with
              | some e => if 0 < e.2.track then [0x08, byte e.2.track] else []
              | none => [])
          ++ (nextTitle.map (textField 0x09)).getD []
          ++ (match nxt with
              | some e => [0x0A] ++ two e.2.start
              | none => [])
          ++ bannerBytes)))
  ∧ (∀ (s : State) (cls : PanelClass) (first count index : Nat) (heading : TextRef) (serial : Serial) (zones : Half),
    let list := lineList s first count
    let lines := match cls with
      | .s => 4
      | .m => 8
      | .l => 12
    let spaceWidth := match cls with
      | .s => 16
      | .m => 24
      | .l => 32
    let titleWidth := match cls with
      | .s => 32
      | .m => 48
      | .l => 64
    let pages := max 1 ((list.length + lines - 1) / lines)
    let shown := if index < pages then index else 0
    let face := roleFaceOf s { serial, role := .directory first count heading, zones } cls index
    let m := s.clock.minute
    let horizon := s.ps.options.horizon
    let text (r : TextRef) (width : Nat) : Clip := (readRef s.text r).cut width
    let inLine (t : Clip) : List Byte := byte (t.bytes.length + 128 * t.clipped.toNat) :: t.bytes
    let line (e : Listed) (number : Nat) : List Byte :=
      let space := text e.space.name spaceWidth
      let title := text e.session.title titleWidth
      let marks := (!e.session.placed).toNat + 4 * e.session.cancelled.toNat + 8 * (space.clipped || title.clipped).toNat
      [0x0E] ++ two number ++ inLine space ++ inLine title ++ two e.session.start ++ two e.session.effectiveEnd
        ++ [e.session.phase.code, byte marks]
    let page := (list.drop (shown * lines)).take lines
    let bannerBytes := ((bannerOf s zones).map (textField 0x0B)).getD []
    face.pages = some pages ∧ face.index = shown ∧ face.face.template = .directory
    ∧ face.face.encode = 0x05 :: (textField 0x0C (text heading 64) ++ [0x0D, byte (shown + 1), byte pages]
        ++ page.zipIdx.flatMap (fun e => line e.1 (shown * lines + 1 + e.2)) ++ bannerBytes)
    ∧ list.Pairwise (fun x y => x.session.start < y.session.start ∨ (x.session.start = y.session.start
        ∧ (x.space.anchor < y.space.anchor ∨ (x.space.anchor = y.space.anchor ∧ x.number ≤ y.number))))
    ∧ (∀ e, e ∈ list ↔ (e.number, e.session) ∈ s.sessions ∧ s.clock.mode ≠ .unset ∧ e.session.day = s.clock.day
        ∧ e.session.withheld = false ∧ e.session.homeSpace s.lu.spaces = some e.space ∧ e.space.closed = false
        ∧ first ≤ e.space.anchor ∧ e.space.anchor < first + count
        ∧ (if e.session.cancelled then m < e.session.start ∧ e.session.start ≤ m + horizon
           else e.session.phase = .doors ∨ e.session.phase = .live ∨ e.session.phase = .overrun
            ∨ (e.session.phase = .upcoming ∧ e.session.start ≤ m + horizon))))
  ∧ (∀ (s : State) (zones : Half), Table.rising s.nu.notices = true →
    let inMask (e : Nat × Notice) : Prop := e ∈ s.nu.notices ∧ zones.getLsbD e.1 = true
    ((∃ e, inMask e ∧ e.2.level ≠ .advisory) → bannerOf s zones = none)
    ∧ ((∀ e, ¬ inMask e) → bannerOf s zones = none)
    ∧ (∀ e, inMask e → (∀ x, inMask x → x.2.level = .advisory ∧ e.1 ≤ x.1) →
        bannerOf s zones = some ((readRef s.text e.2.text).cut 128)))
  ∧ (∀ (s : State) (p : PanelSlot) (cls : PanelClass) (index sec : Nat), p.role = .door sec →
    (roleFaceOf s p cls index).face = doorFace s sec (bannerOf s p.zones) ∧ (roleFaceOf s p cls index).pages = none)
  ∧ (∀ (c : Clip) (width : Nat), (c.cut width).bytes = c.bytes.take width
    ∧ ((c.cut width).clipped = true ↔ c.clipped = true ∨ width < c.bytes.length))
  ∧ (∀ s t : State, ClockGood s.clock ∧ TablesGood s ∧ RecordsGood s ∧ FacesNow s → step s = .next t →
    t.ps.options.doorLead = s.ps.options.doorLead ∨ (∀ e, e ∈ s.sessions → e.2.cancelled = true → e.2.lead ≠ none) →
    FacesNow t)

/-! ## Resets and the load -/

/-- POWER_ON, PIN_RESET_ASSERT, PIN_RESET_RELEASE: every block at its reset values, the flash kept but for a save that was
under way, which stops: its header erased before the header stage and partly written in it (free bytes of log 9); while RESET is
asserted ATTN is released and nothing else has an effect. -/
def Obligations.ResetsReturnEveryBlock : Prop :=
  ∀ s : State,
    let n := s.li.served
    let flash : Flash := match s.ps.save with
      | none => s.ps.flash
      | some v =>
        if v.stage = .header then
          { bytes := (List.range 16).map (fun i => Config.flashByte n i) ++ v.body, beyond := none, torn := true }
        else { bytes := List.replicate 16 0xFF, beyond := some n, torn := false }
    let after (cause : ResetCause) (pin : Bool) : State := { State.reset with
      pending := s.pending, resetPin := pin, time := s.time, orders := s.orders
      li := { State.reset.li with cause, attn := !pin, served := s.li.served }
      ps := { State.reset.ps with flash } }
    exec .powerOn s = .next (after .power s.resetPin)
    ∧ (s.resetPin = false → exec .pinResetAssert s = .next (after .pin true) ∧ exec .pinResetRelease s = .next s)
    ∧ (s.resetPin = true → exec .pinResetRelease s = .next (after s.li.cause false)
        ∧ ∀ c : Instr, c ≠ .powerOn → c ≠ .pinResetRelease → exec c s = .next s)

/-- LOAD_END: with no good image the plan is EMPTY at revision 0 as it stood; a good image gives plan, options, tables and
text pages 0–15; roll call begins on every STARTING segment, faces stand as the plan now gives them, and so do sessions that
stood so before, and nothing happens unless the plan is LOADING. A save then a load gives the plan back: the image written of a
plan whose tables keep the laws of the content check is read as that plan. The bytes of an image, and its CRC-32 (R192, R207; the
entries' order and a DOOR slot's unused bytes are the model's, logs 35 and 37). -/
def Obligations.LoadEndsReadyOrEmpty : Prop :=
  (∀ (s : State) (answers : Bool), s.resetPin = false →
    (s.ps.plan ≠ .loading → exec (.loadEnd answers) s = .next s)
    ∧ (s.ps.plan = .loading → ∃ t, exec (.loadEnd answers) s = .next t
        ∧ t.li.kept = s.li.kept ∧ t.clock = s.clock ∧ t.nu = s.nu ∧ t.time = s.time ∧ t.resetPin = s.resetPin
        ∧ t.pending = s.pending ∧ t.lu.spaces = deriveSpaces t.lu ∧ FacesNow t
        ∧ (AllCurrent s → AllCurrent t)
        ∧ (∀ ix, (s.seg ix).recs = [] → t.seg ix = { s.seg ix with
            bus := if (s.seg ix).mode = .starting then some (.rollIdent (s.seg ix).rollAddr) else (s.seg ix).bus })
        ∧ (answers = false ∨ s.ps.flash.torn = true ∨ readImage s.ps.flash = none →
            t.ps = { s.ps with plan := .empty } ∧ t.text = s.text ∧ t.lu.sections = s.lu.sections ∧ t.lu.walls = s.lu.walls
              ∧ t.lu.combos = s.lu.combos)
        ∧ (∀ rev i, answers = true → s.ps.flash.torn = false → readImage s.ps.flash = some (rev, i) →
            t.ps = { s.ps with plan := .ready, revision := rev, options := i.options, panels := i.panels }
              ∧ (∀ b, t.text.read b = if b < i.text.length then i.text.getD b 0 else s.text.read b)
              ∧ t.lu.sections = Table.mapVals (fun x => { name := x.name, code := x.code, closed := false }) i.sections
              ∧ t.lu.walls = Table.mapVals (fun w => { a := w.1, b := w.2, forced := .free, last := .nothing
                                                       candidate := .nothing, run := 0, filtered := .unknown }) i.walls
              ∧ t.lu.combos = i.combos)))
  ∧ (∀ s : State, PlanSaveable s →
    let body := imageBody (imageOf s)
    let saved : Flash := { bytes := imageHeader s.ps.revision body ++ body, beyond := none, torn := false }
    readImage saved = some (s.ps.revision, imageOf s)
      ∧ (imageOf s).sections = s.lu.sections.map (fun e => (e.1, { name := e.2.name, code := e.2.code }))
      ∧ (imageOf s).walls = s.lu.walls.map (fun e => (e.1, (e.2.a, e.2.b))) ∧ (imageOf s).combos = s.lu.combos
      ∧ (imageOf s).panels = s.ps.panels ∧ (imageOf s).options = s.ps.options
      ∧ (imageOf s).text = (List.range 4096).map (fun b => s.text.read b))
  ∧ (∀ (revision : Nat) (body : List Byte), imageHeader revision body =
    [0xC4, 0x4B, 0x4E, 0x50, 1, 0] ++ two revision ++ four body.length ++ four (crc32 body).toNat)
  ∧ (∀ i : Image,
    let block (bytes : List Byte) : List Byte := two bytes.length ++ bytes
    let ref (r : TextRef) : List Byte := [r.page, r.offset, r.length]
    let role (r : Role) : List Byte := match r with
      | .door sec => [1, byte sec, 0, 0, 0, 0]
      | .directory first count heading => [2, byte first, byte count] ++ ref heading
    imageBody i =
      block (byte i.sections.length :: i.sections.flatMap (fun e => [byte e.1] ++ ref e.2.name ++ codeBytes e.2.code))
      ++ block (byte i.walls.length :: i.walls.flatMap (fun e => [byte e.1, byte e.2.1, byte e.2.2]))
      ++ block (byte i.combos.length :: i.combos.flatMap (fun e =>
          [byte e.1] ++ ref e.2.name ++ [byte e.2.set.length] ++ e.2.set.map byte))
      ++ block (two i.panels.length ++ i.panels.flatMap (fun e =>
          two e.1 ++ serialBytes e.2.serial ++ role e.2.role ++ halfBytes e.2.zones))
      ++ block ((List.range 15).flatMap (fun n => signedTwo (i.options.value n)) ++ ref i.options.privateText)
      ++ block i.text)
  ∧ (crc32 [] = 0 ∧ ∀ (bytes : List Byte) (b : Byte),
    let shift (r : BitVec 32) : BitVec 32 := if r.getLsbD 0 then (r >>> 1) ^^^ 0xEDB88320 else r >>> 1
    crc32 (bytes ++ [b]) = ~~~ ((List.range 8).foldl (fun r _ => shift r) (~~~ crc32 bytes ^^^ b.setWidth 32)))

/-! ## Invariants -/

/-- Clock, hold timer, options, plan state with revision and save, text pool and attention set stay good; so do the space
list, which stays the derived one, and, from a good clock, the session map, in which every record stays in range and current and
no two clash. -/
def Obligations.EveryStepKeepsTheBlocksGood : Prop :=
  (∀ s t : State,
    ClockGood s.clock ∧ HoldGood s ∧ OptionsGood s.ps.options ∧ PlanGood s.ps ∧ TextGood s ∧ FlagsGood s → step s = .next t →
    ClockGood t.clock ∧ HoldGood t ∧ OptionsGood t.ps.options ∧ PlanGood t.ps ∧ TextGood t ∧ FlagsGood t)
  ∧ (∀ s t : State, SpacesGood s → step s = .next t → SpacesGood t)
  ∧ ∀ s t : State, ClockGood s.clock ∧ SessionsGood s → step s = .next t → SessionsGood t

/-- Every table stays in order, every segment's records keep distinct addresses, and no plan slot comes to be bound to two
records. A record stays bound to a slot of its own serial alone, pins and faces stand for bound slots only, and every segment
keeps its laws: addresses, queue, transfer, reserved draw, ghost counts, exchange, roll call and search. -/
def Obligations.EveryStepKeepsTheTablesGood : Prop :=
  (∀ s t : State, TablesGood s ∧ RecordsGood s → step s = .next t → TablesGood t ∧ RecordsGood t)
  ∧ ∀ s t : State, TablesGood s ∧ RecordsGood s ∧ BindingsGood s ∧ SegmentsGood s → step s = .next t →
    BindingsGood t ∧ SegmentsGood t

/-- The invariants hold after power-on. -/
def Obligations.ResetIsGood : Prop :=
  ClockGood State.reset.clock ∧ HoldGood State.reset ∧ OptionsGood State.reset.ps.options ∧ PlanGood State.reset.ps
    ∧ TextGood State.reset ∧ FlagsGood State.reset ∧ TablesGood State.reset ∧ RecordsGood State.reset
    ∧ SpacesGood State.reset ∧ SessionsGood State.reset ∧ BindingsGood State.reset ∧ SegmentsGood State.reset
    ∧ FacesNow State.reset

end Statements
end

