-- ==== Sys2Proof/Laws/State.lean ====
section
/-! SUPPORT. What each update of State leaves as it was: one lemma per field per update. -/

namespace Sys2Proof.Machine

@[simp] theorem setAttention_pending (s : State) (x : Half) : (s.setAttention x).pending = s.pending := rfl
@[simp] theorem setAttention_resetPin (s : State) (x : Half) : (s.setAttention x).resetPin = s.resetPin := rfl
@[simp] theorem setAttention_lu (s : State) (x : Half) : (s.setAttention x).lu = s.lu := rfl
@[simp] theorem setAttention_clock (s : State) (x : Half) : (s.setAttention x).clock = s.clock := rfl
@[simp] theorem setAttention_sessions (s : State) (x : Half) : (s.setAttention x).sessions = s.sessions := rfl
@[simp] theorem setAttention_text (s : State) (x : Half) : (s.setAttention x).text = s.text := rfl
@[simp] theorem setAttention_fr (s : State) (x : Half) : (s.setAttention x).fr = s.fr := rfl
@[simp] theorem setAttention_nu (s : State) (x : Half) : (s.setAttention x).nu = s.nu := rfl
@[simp] theorem setAttention_sc (s : State) (x : Half) : (s.setAttention x).sc = s.sc := rfl
@[simp] theorem setAttention_ps (s : State) (x : Half) : (s.setAttention x).ps = s.ps := rfl
@[simp] theorem setAttention_time (s : State) (x : Half) : (s.setAttention x).time = s.time := rfl
@[simp] theorem setAttention_orders (s : State) (x : Half) : (s.setAttention x).orders = s.orders := rfl

@[simp] theorem setMask_pending (s : State) (x : Half) : (s.setMask x).pending = s.pending := rfl
@[simp] theorem setMask_resetPin (s : State) (x : Half) : (s.setMask x).resetPin = s.resetPin := rfl
@[simp] theorem setMask_lu (s : State) (x : Half) : (s.setMask x).lu = s.lu := rfl
@[simp] theorem setMask_clock (s : State) (x : Half) : (s.setMask x).clock = s.clock := rfl
@[simp] theorem setMask_sessions (s : State) (x : Half) : (s.setMask x).sessions = s.sessions := rfl
@[simp] theorem setMask_text (s : State) (x : Half) : (s.setMask x).text = s.text := rfl
@[simp] theorem setMask_fr (s : State) (x : Half) : (s.setMask x).fr = s.fr := rfl
@[simp] theorem setMask_nu (s : State) (x : Half) : (s.setMask x).nu = s.nu := rfl
@[simp] theorem setMask_sc (s : State) (x : Half) : (s.setMask x).sc = s.sc := rfl
@[simp] theorem setMask_ps (s : State) (x : Half) : (s.setMask x).ps = s.ps := rfl
@[simp] theorem setMask_time (s : State) (x : Half) : (s.setMask x).time = s.time := rfl
@[simp] theorem setMask_orders (s : State) (x : Half) : (s.setMask x).orders = s.orders := rfl

@[simp] theorem dropOrder_pending (s : State) : (s.dropOrder).pending = s.pending := rfl
@[simp] theorem dropOrder_li (s : State) : (s.dropOrder).li = s.li := rfl
@[simp] theorem dropOrder_resetPin (s : State) : (s.dropOrder).resetPin = s.resetPin := rfl
@[simp] theorem dropOrder_lu (s : State) : (s.dropOrder).lu = s.lu := rfl
@[simp] theorem dropOrder_clock (s : State) : (s.dropOrder).clock = s.clock := rfl
@[simp] theorem dropOrder_sessions (s : State) : (s.dropOrder).sessions = s.sessions := rfl
@[simp] theorem dropOrder_text (s : State) : (s.dropOrder).text = s.text := rfl
@[simp] theorem dropOrder_fr (s : State) : (s.dropOrder).fr = s.fr := rfl
@[simp] theorem dropOrder_nu (s : State) : (s.dropOrder).nu = s.nu := rfl
@[simp] theorem dropOrder_sc (s : State) : (s.dropOrder).sc = s.sc := rfl
@[simp] theorem dropOrder_ps (s : State) : (s.dropOrder).ps = s.ps := rfl
@[simp] theorem dropOrder_time (s : State) : (s.dropOrder).time = s.time := rfl

@[simp] theorem setSeg_pending (s : State) (ix : SegIx) (g : Seg) : (s.setSeg ix g).pending = s.pending := rfl
@[simp] theorem setSeg_li (s : State) (ix : SegIx) (g : Seg) : (s.setSeg ix g).li = s.li := rfl
@[simp] theorem setSeg_resetPin (s : State) (ix : SegIx) (g : Seg) : (s.setSeg ix g).resetPin = s.resetPin := rfl
@[simp] theorem setSeg_lu (s : State) (ix : SegIx) (g : Seg) : (s.setSeg ix g).lu = s.lu := rfl
@[simp] theorem setSeg_clock (s : State) (ix : SegIx) (g : Seg) : (s.setSeg ix g).clock = s.clock := rfl
@[simp] theorem setSeg_sessions (s : State) (ix : SegIx) (g : Seg) : (s.setSeg ix g).sessions = s.sessions := rfl
@[simp] theorem setSeg_text (s : State) (ix : SegIx) (g : Seg) : (s.setSeg ix g).text = s.text := rfl
@[simp] theorem setSeg_fr (s : State) (ix : SegIx) (g : Seg) : (s.setSeg ix g).fr = s.fr := rfl
@[simp] theorem setSeg_nu (s : State) (ix : SegIx) (g : Seg) : (s.setSeg ix g).nu = s.nu := rfl
@[simp] theorem setSeg_ps (s : State) (ix : SegIx) (g : Seg) : (s.setSeg ix g).ps = s.ps := rfl
@[simp] theorem setSeg_time (s : State) (ix : SegIx) (g : Seg) : (s.setSeg ix g).time = s.time := rfl
@[simp] theorem setSeg_orders (s : State) (ix : SegIx) (g : Seg) : (s.setSeg ix g).orders = s.orders := rfl

@[simp] theorem putRec_pending (s : State) (ix : SegIx) (a : Nat) (r : Rec) : (s.putRec ix a r).pending = s.pending := rfl
@[simp] theorem putRec_li (s : State) (ix : SegIx) (a : Nat) (r : Rec) : (s.putRec ix a r).li = s.li := rfl
@[simp] theorem putRec_resetPin (s : State) (ix : SegIx) (a : Nat) (r : Rec) : (s.putRec ix a r).resetPin = s.resetPin := rfl
@[simp] theorem putRec_lu (s : State) (ix : SegIx) (a : Nat) (r : Rec) : (s.putRec ix a r).lu = s.lu := rfl
@[simp] theorem putRec_clock (s : State) (ix : SegIx) (a : Nat) (r : Rec) : (s.putRec ix a r).clock = s.clock := rfl
@[simp] theorem putRec_sessions (s : State) (ix : SegIx) (a : Nat) (r : Rec) : (s.putRec ix a r).sessions = s.sessions := rfl
@[simp] theorem putRec_text (s : State) (ix : SegIx) (a : Nat) (r : Rec) : (s.putRec ix a r).text = s.text := rfl
@[simp] theorem putRec_fr (s : State) (ix : SegIx) (a : Nat) (r : Rec) : (s.putRec ix a r).fr = s.fr := rfl
@[simp] theorem putRec_nu (s : State) (ix : SegIx) (a : Nat) (r : Rec) : (s.putRec ix a r).nu = s.nu := rfl
@[simp] theorem putRec_ps (s : State) (ix : SegIx) (a : Nat) (r : Rec) : (s.putRec ix a r).ps = s.ps := rfl
@[simp] theorem putRec_time (s : State) (ix : SegIx) (a : Nat) (r : Rec) : (s.putRec ix a r).time = s.time := rfl
@[simp] theorem putRec_orders (s : State) (ix : SegIx) (a : Nat) (r : Rec) : (s.putRec ix a r).orders = s.orders := rfl

@[simp] theorem storeFace_pending (s : State) (n : Nat) (role : RoleFace) (f : FaceRec) : (s.storeFace n role f).pending = s.pending := rfl
@[simp] theorem storeFace_li (s : State) (n : Nat) (role : RoleFace) (f : FaceRec) : (s.storeFace n role f).li = s.li := rfl
@[simp] theorem storeFace_resetPin (s : State) (n : Nat) (role : RoleFace) (f : FaceRec) : (s.storeFace n role f).resetPin = s.resetPin := rfl
@[simp] theorem storeFace_lu (s : State) (n : Nat) (role : RoleFace) (f : FaceRec) : (s.storeFace n role f).lu = s.lu := rfl
@[simp] theorem storeFace_clock (s : State) (n : Nat) (role : RoleFace) (f : FaceRec) : (s.storeFace n role f).clock = s.clock := rfl
@[simp] theorem storeFace_sessions (s : State) (n : Nat) (role : RoleFace) (f : FaceRec) : (s.storeFace n role f).sessions = s.sessions := rfl
@[simp] theorem storeFace_text (s : State) (n : Nat) (role : RoleFace) (f : FaceRec) : (s.storeFace n role f).text = s.text := rfl
@[simp] theorem storeFace_nu (s : State) (n : Nat) (role : RoleFace) (f : FaceRec) : (s.storeFace n role f).nu = s.nu := rfl
@[simp] theorem storeFace_sc (s : State) (n : Nat) (role : RoleFace) (f : FaceRec) : (s.storeFace n role f).sc = s.sc := rfl
@[simp] theorem storeFace_ps (s : State) (n : Nat) (role : RoleFace) (f : FaceRec) : (s.storeFace n role f).ps = s.ps := rfl
@[simp] theorem storeFace_time (s : State) (n : Nat) (role : RoleFace) (f : FaceRec) : (s.storeFace n role f).time = s.time := rfl
@[simp] theorem storeFace_orders (s : State) (n : Nat) (role : RoleFace) (f : FaceRec) : (s.storeFace n role f).orders = s.orders := rfl

@[simp] theorem dropFace_pending (s : State) (n : Nat) : (s.dropFace n).pending = s.pending := rfl
@[simp] theorem dropFace_li (s : State) (n : Nat) : (s.dropFace n).li = s.li := rfl
@[simp] theorem dropFace_resetPin (s : State) (n : Nat) : (s.dropFace n).resetPin = s.resetPin := rfl
@[simp] theorem dropFace_lu (s : State) (n : Nat) : (s.dropFace n).lu = s.lu := rfl
@[simp] theorem dropFace_clock (s : State) (n : Nat) : (s.dropFace n).clock = s.clock := rfl
@[simp] theorem dropFace_sessions (s : State) (n : Nat) : (s.dropFace n).sessions = s.sessions := rfl
@[simp] theorem dropFace_text (s : State) (n : Nat) : (s.dropFace n).text = s.text := rfl
@[simp] theorem dropFace_nu (s : State) (n : Nat) : (s.dropFace n).nu = s.nu := rfl
@[simp] theorem dropFace_sc (s : State) (n : Nat) : (s.dropFace n).sc = s.sc := rfl
@[simp] theorem dropFace_ps (s : State) (n : Nat) : (s.dropFace n).ps = s.ps := rfl
@[simp] theorem dropFace_time (s : State) (n : Nat) : (s.dropFace n).time = s.time := rfl
@[simp] theorem dropFace_orders (s : State) (n : Nat) : (s.dropFace n).orders = s.orders := rfl

@[simp] theorem setTime_pending (s : State) (d m x : Nat) : (s.setTime d m x).pending = s.pending := rfl
@[simp] theorem setTime_li (s : State) (d m x : Nat) : (s.setTime d m x).li = s.li := rfl
@[simp] theorem setTime_resetPin (s : State) (d m x : Nat) : (s.setTime d m x).resetPin = s.resetPin := rfl
@[simp] theorem setTime_lu (s : State) (d m x : Nat) : (s.setTime d m x).lu = s.lu := rfl
@[simp] theorem setTime_sessions (s : State) (d m x : Nat) : (s.setTime d m x).sessions = s.sessions := rfl
@[simp] theorem setTime_text (s : State) (d m x : Nat) : (s.setTime d m x).text = s.text := rfl
@[simp] theorem setTime_fr (s : State) (d m x : Nat) : (s.setTime d m x).fr = s.fr := rfl
@[simp] theorem setTime_nu (s : State) (d m x : Nat) : (s.setTime d m x).nu = s.nu := rfl
@[simp] theorem setTime_sc (s : State) (d m x : Nat) : (s.setTime d m x).sc = s.sc := rfl
@[simp] theorem setTime_ps (s : State) (d m x : Nat) : (s.setTime d m x).ps = s.ps := rfl
@[simp] theorem setTime_time (s : State) (d m x : Nat) : (s.setTime d m x).time = s.time := rfl
@[simp] theorem setTime_orders (s : State) (d m x : Nat) : (s.setTime d m x).orders = s.orders := rfl

@[simp] theorem setOptions_pending (s : State) (o : Options) : (s.setOptions o).pending = s.pending := rfl
@[simp] theorem setOptions_li (s : State) (o : Options) : (s.setOptions o).li = s.li := rfl
@[simp] theorem setOptions_resetPin (s : State) (o : Options) : (s.setOptions o).resetPin = s.resetPin := rfl
@[simp] theorem setOptions_lu (s : State) (o : Options) : (s.setOptions o).lu = s.lu := rfl
@[simp] theorem setOptions_clock (s : State) (o : Options) : (s.setOptions o).clock = s.clock := rfl
@[simp] theorem setOptions_sessions (s : State) (o : Options) : (s.setOptions o).sessions = s.sessions := rfl
@[simp] theorem setOptions_text (s : State) (o : Options) : (s.setOptions o).text = s.text := rfl
@[simp] theorem setOptions_fr (s : State) (o : Options) : (s.setOptions o).fr = s.fr := rfl
@[simp] theorem setOptions_nu (s : State) (o : Options) : (s.setOptions o).nu = s.nu := rfl
@[simp] theorem setOptions_sc (s : State) (o : Options) : (s.setOptions o).sc = s.sc := rfl
@[simp] theorem setOptions_time (s : State) (o : Options) : (s.setOptions o).time = s.time := rfl
@[simp] theorem setOptions_orders (s : State) (o : Options) : (s.setOptions o).orders = s.orders := rfl

@[simp] theorem commitEdit_pending (s : State) : (commitEdit s).pending = s.pending := rfl
@[simp] theorem commitEdit_li (s : State) : (commitEdit s).li = s.li := rfl
@[simp] theorem commitEdit_resetPin (s : State) : (commitEdit s).resetPin = s.resetPin := rfl
@[simp] theorem commitEdit_lu (s : State) : (commitEdit s).lu = s.lu := rfl
@[simp] theorem commitEdit_clock (s : State) : (commitEdit s).clock = s.clock := rfl
@[simp] theorem commitEdit_sessions (s : State) : (commitEdit s).sessions = s.sessions := rfl
@[simp] theorem commitEdit_text (s : State) : (commitEdit s).text = s.text := rfl
@[simp] theorem commitEdit_fr (s : State) : (commitEdit s).fr = s.fr := rfl
@[simp] theorem commitEdit_nu (s : State) : (commitEdit s).nu = s.nu := rfl
@[simp] theorem commitEdit_sc (s : State) : (commitEdit s).sc = s.sc := rfl
@[simp] theorem commitEdit_time (s : State) : (commitEdit s).time = s.time := rfl
@[simp] theorem commitEdit_orders (s : State) : (commitEdit s).orders = s.orders := rfl

@[simp] theorem raise_pending (s : State) (f : Flag) : (raise f s).pending = s.pending := rfl
@[simp] theorem raise_resetPin (s : State) (f : Flag) : (raise f s).resetPin = s.resetPin := rfl
@[simp] theorem raise_lu (s : State) (f : Flag) : (raise f s).lu = s.lu := rfl
@[simp] theorem raise_clock (s : State) (f : Flag) : (raise f s).clock = s.clock := rfl
@[simp] theorem raise_sessions (s : State) (f : Flag) : (raise f s).sessions = s.sessions := rfl
@[simp] theorem raise_text (s : State) (f : Flag) : (raise f s).text = s.text := rfl
@[simp] theorem raise_fr (s : State) (f : Flag) : (raise f s).fr = s.fr := rfl
@[simp] theorem raise_nu (s : State) (f : Flag) : (raise f s).nu = s.nu := rfl
@[simp] theorem raise_sc (s : State) (f : Flag) : (raise f s).sc = s.sc := rfl
@[simp] theorem raise_ps (s : State) (f : Flag) : (raise f s).ps = s.ps := rfl
@[simp] theorem raise_time (s : State) (f : Flag) : (raise f s).time = s.time := rfl
@[simp] theorem raise_orders (s : State) (f : Flag) : (raise f s).orders = s.orders := rfl

@[simp] theorem raiseIf_pending (s : State) (c : Bool) (f : Flag) : (raiseIf c f s).pending = s.pending := by unfold raiseIf; split <;> rfl
@[simp] theorem raiseIf_resetPin (s : State) (c : Bool) (f : Flag) : (raiseIf c f s).resetPin = s.resetPin := by unfold raiseIf; split <;> rfl
@[simp] theorem raiseIf_lu (s : State) (c : Bool) (f : Flag) : (raiseIf c f s).lu = s.lu := by unfold raiseIf; split <;> rfl
@[simp] theorem raiseIf_clock (s : State) (c : Bool) (f : Flag) : (raiseIf c f s).clock = s.clock := by unfold raiseIf; split <;> rfl
@[simp] theorem raiseIf_sessions (s : State) (c : Bool) (f : Flag) : (raiseIf c f s).sessions = s.sessions := by unfold raiseIf; split <;> rfl
@[simp] theorem raiseIf_text (s : State) (c : Bool) (f : Flag) : (raiseIf c f s).text = s.text := by unfold raiseIf; split <;> rfl
@[simp] theorem raiseIf_fr (s : State) (c : Bool) (f : Flag) : (raiseIf c f s).fr = s.fr := by unfold raiseIf; split <;> rfl
@[simp] theorem raiseIf_nu (s : State) (c : Bool) (f : Flag) : (raiseIf c f s).nu = s.nu := by unfold raiseIf; split <;> rfl
@[simp] theorem raiseIf_sc (s : State) (c : Bool) (f : Flag) : (raiseIf c f s).sc = s.sc := by unfold raiseIf; split <;> rfl
@[simp] theorem raiseIf_ps (s : State) (c : Bool) (f : Flag) : (raiseIf c f s).ps = s.ps := by unfold raiseIf; split <;> rfl
@[simp] theorem raiseIf_time (s : State) (c : Bool) (f : Flag) : (raiseIf c f s).time = s.time := by unfold raiseIf; split <;> rfl
@[simp] theorem raiseIf_orders (s : State) (c : Bool) (f : Flag) : (raiseIf c f s).orders = s.orders := by unfold raiseIf; split <;> rfl

@[simp] theorem clearFlags_pending (s : State) (x : Half) : (clearFlags x s).pending = s.pending := rfl
@[simp] theorem clearFlags_resetPin (s : State) (x : Half) : (clearFlags x s).resetPin = s.resetPin := rfl
@[simp] theorem clearFlags_lu (s : State) (x : Half) : (clearFlags x s).lu = s.lu := rfl
@[simp] theorem clearFlags_clock (s : State) (x : Half) : (clearFlags x s).clock = s.clock := rfl
@[simp] theorem clearFlags_sessions (s : State) (x : Half) : (clearFlags x s).sessions = s.sessions := rfl
@[simp] theorem clearFlags_text (s : State) (x : Half) : (clearFlags x s).text = s.text := rfl
@[simp] theorem clearFlags_fr (s : State) (x : Half) : (clearFlags x s).fr = s.fr := rfl
@[simp] theorem clearFlags_nu (s : State) (x : Half) : (clearFlags x s).nu = s.nu := rfl
@[simp] theorem clearFlags_sc (s : State) (x : Half) : (clearFlags x s).sc = s.sc := rfl
@[simp] theorem clearFlags_ps (s : State) (x : Half) : (clearFlags x s).ps = s.ps := rfl
@[simp] theorem clearFlags_time (s : State) (x : Half) : (clearFlags x s).time = s.time := rfl
@[simp] theorem clearFlags_orders (s : State) (x : Half) : (clearFlags x s).orders = s.orders := rfl

@[simp] theorem setReceiver_pending (s : State) (x : Receiver) : (setReceiver x s).pending = s.pending := rfl
@[simp] theorem setReceiver_resetPin (s : State) (x : Receiver) : (setReceiver x s).resetPin = s.resetPin := rfl
@[simp] theorem setReceiver_lu (s : State) (x : Receiver) : (setReceiver x s).lu = s.lu := rfl
@[simp] theorem setReceiver_clock (s : State) (x : Receiver) : (setReceiver x s).clock = s.clock := rfl
@[simp] theorem setReceiver_sessions (s : State) (x : Receiver) : (setReceiver x s).sessions = s.sessions := rfl
@[simp] theorem setReceiver_text (s : State) (x : Receiver) : (setReceiver x s).text = s.text := rfl
@[simp] theorem setReceiver_fr (s : State) (x : Receiver) : (setReceiver x s).fr = s.fr := rfl
@[simp] theorem setReceiver_nu (s : State) (x : Receiver) : (setReceiver x s).nu = s.nu := rfl
@[simp] theorem setReceiver_sc (s : State) (x : Receiver) : (setReceiver x s).sc = s.sc := rfl
@[simp] theorem setReceiver_ps (s : State) (x : Receiver) : (setReceiver x s).ps = s.ps := rfl
@[simp] theorem setReceiver_time (s : State) (x : Receiver) : (setReceiver x s).time = s.time := rfl
@[simp] theorem setReceiver_orders (s : State) (x : Receiver) : (setReceiver x s).orders = s.orders := rfl

@[simp] theorem loseBinding_pending (s : State) (n : Nat) : (loseBinding n s).pending = s.pending := rfl
@[simp] theorem loseBinding_li (s : State) (n : Nat) : (loseBinding n s).li = s.li := rfl
@[simp] theorem loseBinding_resetPin (s : State) (n : Nat) : (loseBinding n s).resetPin = s.resetPin := rfl
@[simp] theorem loseBinding_lu (s : State) (n : Nat) : (loseBinding n s).lu = s.lu := rfl
@[simp] theorem loseBinding_clock (s : State) (n : Nat) : (loseBinding n s).clock = s.clock := rfl
@[simp] theorem loseBinding_sessions (s : State) (n : Nat) : (loseBinding n s).sessions = s.sessions := rfl
@[simp] theorem loseBinding_text (s : State) (n : Nat) : (loseBinding n s).text = s.text := rfl
@[simp] theorem loseBinding_fr (s : State) (n : Nat) : (loseBinding n s).fr = s.fr := rfl
@[simp] theorem loseBinding_sc (s : State) (n : Nat) : (loseBinding n s).sc = s.sc := rfl
@[simp] theorem loseBinding_ps (s : State) (n : Nat) : (loseBinding n s).ps = s.ps := rfl
@[simp] theorem loseBinding_time (s : State) (n : Nat) : (loseBinding n s).time = s.time := rfl
@[simp] theorem loseBinding_orders (s : State) (n : Nat) : (loseBinding n s).orders = s.orders := rfl

@[simp] theorem discardPages_pending (s : State) (n : Nat) : (discardPages n s).pending = s.pending := rfl
@[simp] theorem discardPages_li (s : State) (n : Nat) : (discardPages n s).li = s.li := rfl
@[simp] theorem discardPages_resetPin (s : State) (n : Nat) : (discardPages n s).resetPin = s.resetPin := rfl
@[simp] theorem discardPages_lu (s : State) (n : Nat) : (discardPages n s).lu = s.lu := rfl
@[simp] theorem discardPages_clock (s : State) (n : Nat) : (discardPages n s).clock = s.clock := rfl
@[simp] theorem discardPages_sessions (s : State) (n : Nat) : (discardPages n s).sessions = s.sessions := rfl
@[simp] theorem discardPages_text (s : State) (n : Nat) : (discardPages n s).text = s.text := rfl
@[simp] theorem discardPages_nu (s : State) (n : Nat) : (discardPages n s).nu = s.nu := rfl
@[simp] theorem discardPages_sc (s : State) (n : Nat) : (discardPages n s).sc = s.sc := rfl
@[simp] theorem discardPages_ps (s : State) (n : Nat) : (discardPages n s).ps = s.ps := rfl
@[simp] theorem discardPages_time (s : State) (n : Nat) : (discardPages n s).time = s.time := rfl
@[simp] theorem discardPages_orders (s : State) (n : Nat) : (discardPages n s).orders = s.orders := rfl

@[simp] theorem inService_pending (s : State) (tag : Byte) (asked : Asked) (reply : List Byte) : (s.inService tag asked reply).pending = s.pending := rfl
@[simp] theorem inService_resetPin (s : State) (tag : Byte) (asked : Asked) (reply : List Byte) : (s.inService tag asked reply).resetPin = s.resetPin := rfl
@[simp] theorem inService_lu (s : State) (tag : Byte) (asked : Asked) (reply : List Byte) : (s.inService tag asked reply).lu = s.lu := rfl
@[simp] theorem inService_clock (s : State) (tag : Byte) (asked : Asked) (reply : List Byte) : (s.inService tag asked reply).clock = s.clock := rfl
@[simp] theorem inService_sessions (s : State) (tag : Byte) (asked : Asked) (reply : List Byte) : (s.inService tag asked reply).sessions = s.sessions := rfl
@[simp] theorem inService_text (s : State) (tag : Byte) (asked : Asked) (reply : List Byte) : (s.inService tag asked reply).text = s.text := rfl
@[simp] theorem inService_fr (s : State) (tag : Byte) (asked : Asked) (reply : List Byte) : (s.inService tag asked reply).fr = s.fr := rfl
@[simp] theorem inService_nu (s : State) (tag : Byte) (asked : Asked) (reply : List Byte) : (s.inService tag asked reply).nu = s.nu := rfl
@[simp] theorem inService_sc (s : State) (tag : Byte) (asked : Asked) (reply : List Byte) : (s.inService tag asked reply).sc = s.sc := rfl
@[simp] theorem inService_ps (s : State) (tag : Byte) (asked : Asked) (reply : List Byte) : (s.inService tag asked reply).ps = s.ps := rfl
@[simp] theorem inService_time (s : State) (tag : Byte) (asked : Asked) (reply : List Byte) : (s.inService tag asked reply).time = s.time := rfl
@[simp] theorem inService_orders (s : State) (tag : Byte) (asked : Asked) (reply : List Byte) : (s.inService tag asked reply).orders = s.orders := rfl

@[simp] theorem setTime_clock (s : State) (d m x : Nat) :
    (s.setTime d m x).clock = { s.clock with day := d, minute := m, second := x } := rfl

@[simp] theorem seg_setSeg_same (s : State) (ix : SegIx) (g : Seg) : (s.setSeg ix g).seg ix = g := by
  cases ix <;> rfl

theorem seg_setSeg_other (s : State) {ix j : SegIx} (g : Seg) (h : j ≠ ix) : (s.setSeg ix g).seg j = s.seg j := by
  cases ix <;> cases j <;> first | exact absurd rfl h | rfl

@[simp] theorem setSeg_setSeg (s : State) (ix : SegIx) (g g' : Seg) : (s.setSeg ix g).setSeg ix g' = s.setSeg ix g' := by
  cases ix <;> rfl

@[simp] theorem setSeg_seg (s : State) (ix : SegIx) : s.setSeg ix (s.seg ix) = s := by
  cases ix <;> rfl

end Sys2Proof.Machine
end

