-- ==== Sys2Proof/Laws/Tables.lean ====
section
/-! SUPPORT. Laws of the tables, the text pool and the arrangements. -/

namespace Sys2Proof.Machine

/-! ## Tables -/

theorem Table.get_nil {α : Type} (n : Nat) : Table.get ([] : Table α) n = none := rfl

theorem Table.get_cons {α : Type} (k : Nat) (v : α) (t : Table α) (n : Nat) :
    Table.get ((k, v) :: t) n = if k = n then some v else Table.get t n := rfl

/-- A table read where it was written. -/
@[simp] theorem Table.get_put_same {α : Type} (t : Table α) (n : Nat) (x : α) : Table.get (Table.put t n x) n = some x := by
  induction t with
  | nil => simp [Table.put, Table.get]
  | cons e t ih =>
    obtain ⟨k, v⟩ := e
    unfold Table.put
    split
    · simp [Table.get]
    · rename_i h
      split
      · simp [Table.get]
      · simp [Table.get, ih, Ne.symm h]

/-- A table that already holds what is written. -/
theorem Table.put_get {α : Type} {t : Table α} {n : Nat} {x : α} (h : Table.get t n = some x) : Table.put t n x = t := by
  induction t with
  | nil => cases h
  | cons e t ih =>
    obtain ⟨k, v⟩ := e
    rw [Table.get_cons] at h
    unfold Table.put
    by_cases hk : k = n
    · subst hk
      obtain rfl := Option.some.inj ((if_pos rfl).symm.trans h)
      exact if_pos rfl
    · rw [if_neg hk] at h
      rw [if_neg (Ne.symm hk), if_neg (by simp [h]), ih h]

/-- A table read where it was not written. -/
@[simp] theorem Table.get_put_other {α : Type} (t : Table α) {n m : Nat} (x : α) (h : m ≠ n) :
    Table.get (Table.put t n x) m = Table.get t m := by
  induction t with
  | nil => simp [Table.put, Table.get, Ne.symm h]
  | cons e t ih =>
    obtain ⟨k, v⟩ := e
    unfold Table.put
    split
    · rename_i hk
      subst hk
      simp [Table.get, Ne.symm h]
    · split
      · simp [Table.get, Ne.symm h]
      · simp [Table.get, ih]

/-- A table read after entries were left out by number. -/
theorem Table.get_filter_key {α : Type} (p : Nat → Bool) (t : Table α) (n : Nat) :
    Table.get (t.filter (fun e => p e.1)) n = if p n then Table.get t n else none := by
  induction t with
  | nil => simp [Table.get]
  | cons e t ih =>
    obtain ⟨k, v⟩ := e
    by_cases hk : p k
    · by_cases h : k = n
      · subst h
        simp [hk, Table.get]
      · simp [hk, Table.get, h, ih]
    · by_cases h : k = n
      · subst h
        simp [hk, ih]
      · simp [hk, Table.get, h, ih]

/-- A table read after an entry was removed. -/
theorem Table.get_del {α : Type} (t : Table α) (n m : Nat) :
    Table.get (Table.del t n) m = if m = n then none else Table.get t m := by
  have := Table.get_filter_key (fun k => decide (k ≠ n)) t m
  unfold Table.del
  rw [this]
  by_cases h : m = n <;> simp [h]

/-- A table read where an entry was removed. -/
@[simp] theorem Table.get_del_same {α : Type} (t : Table α) (n : Nat) : Table.get (Table.del t n) n = none := by
  simp [Table.get_del]

/-- A table read where no entry was removed. -/
@[simp] theorem Table.get_del_other {α : Type} (t : Table α) {n m : Nat} (h : m ≠ n) :
    Table.get (Table.del t n) m = Table.get t m := by
  simp [Table.get_del, h]

/-- An entry removed is gone whatever was written there. -/
@[simp] theorem Table.del_put_same {α : Type} (t : Table α) (n : Nat) (x : α) : Table.del (Table.put t n x) n = Table.del t n := by
  unfold Table.del
  induction t with
  | nil => simp [Table.put]
  | cons e t ih =>
    obtain ⟨k, v⟩ := e
    unfold Table.put
    split
    · rename_i hk
      subst hk
      simp
    · split
      · simp
      · simp only [List.filter_cons, ih]

/-- A value read after every value was mapped. -/
@[simp] theorem Table.get_mapVals {α β : Type} (f : α → β) (t : Table α) (n : Nat) :
    Table.get (Table.mapVals f t) n = (Table.get t n).map f := by
  induction t with
  | nil => rfl
  | cons e t ih =>
    obtain ⟨k, v⟩ := e
    by_cases h : k = n
    · simp [Table.mapVals, Table.get, h]
    · simp [Table.mapVals, Table.get, h] at *
      exact ih

/-- Replacing an entry by one with the same image leaves the mapped table as it was. -/
theorem Table.mapVals_put {α β : Type} (f : α → β) (t : Table α) (n : Nat) (x y : α)
    (hget : Table.get t n = some y) (hf : f x = f y) : Table.mapVals f (Table.put t n x) = Table.mapVals f t := by
  induction t with
  | nil => simp [Table.get] at hget
  | cons e t ih =>
    obtain ⟨k, v⟩ := e
    unfold Table.put
    by_cases h : n = k
    · subst h
      simp [Table.get] at hget
      subst hget
      simp [Table.mapVals, hf]
    · have hget' : Table.get t n = some y := by
        simpa [Table.get, Ne.symm h] using hget
      simp [h, hget']
      have := ih hget'
      simp only [Table.mapVals, List.map_cons] at *
      rw [this]

/-- Mapping twice. -/
theorem Table.mapVals_mapVals {α β γ : Type} (f : α → β) (g : β → γ) (t : Table α) :
    Table.mapVals g (Table.mapVals f t) = Table.mapVals (fun x => g (f x)) t := by
  simp [Table.mapVals]

/-- Mapping with functions that agree. -/
theorem Table.mapVals_congr {α β : Type} {f g : α → β} (t : Table α) (h : ∀ x, f x = g x) :
    Table.mapVals f t = Table.mapVals g t := by
  have : f = g := funext h
  rw [this]

/-- The numbers of a mapped table. -/
@[simp] theorem Table.keys_mapVals {α β : Type} (f : α → β) (t : Table α) :
    Table.keys (Table.mapVals f t) = Table.keys t := by
  simp [Table.keys, Table.mapVals, Function.comp_def]

/-- The mapped table read at a number whose entry is known. -/
theorem Table.get_of_mapVals_eq {α β : Type} {f : α → β} {t t' : Table α} (h : Table.mapVals f t = Table.mapVals f t') (n : Nat) :
    (Table.get t n).map f = (Table.get t' n).map f := by
  rw [← Table.get_mapVals, ← Table.get_mapVals, h]

/-! ## Arrangements -/

theorem insertAt_perm {α : Type} (k : Nat) (x : α) (l : List α) : (insertAt k x l).Perm (x :: l) := by
  induction k generalizing l with
  | zero => exact List.Perm.refl _
  | succ k ih =>
    cases l with
    | nil => exact List.Perm.refl _
    | cons y l => exact ((ih l).cons y).trans (List.Perm.swap x y l)

/-- An arrangement holds the same things. -/
theorem arrange_perm {α : Type} (n : Nat) (l : List α) : (arrange n l).Perm l := by
  induction l generalizing n with
  | nil => exact List.Perm.refl _
  | cons x l ih => exact (insertAt_perm _ x _).trans ((ih _).cons x)

/-- A thing put in just past the first part stands between the parts. -/
theorem insertAt_length {α : Type} (a b : List α) (x : α) : insertAt a.length x (a ++ b) = a ++ x :: b := by
  induction a with
  | nil => cases b <;> rfl
  | cons y a ih => exact congrArg (y :: ·) ih

/-- Every order of a list is an arrangement of it. -/
theorem exists_arrange {α : Type} {l l' : List α} (h : l'.Perm l) : ∃ n, arrange n l = l' := by
  induction l generalizing l' with
  | nil => exact ⟨0, h.eq_nil.symm⟩
  | cons x l ih =>
    obtain ⟨a, b, rfl⟩ := List.append_of_mem (h.mem_iff.2 List.mem_cons_self)
    have hp := List.Perm.cons_inv (List.perm_middle.symm.trans h)
    have hk : a.length < l.length + 1 := by have := hp.length_eq; simp only [List.length_append] at this; omega
    obtain ⟨m, hm⟩ := ih hp
    refine ⟨a.length + (l.length + 1) * m, ?_⟩
    rw [arrange, Nat.add_mul_mod_self_left, Nat.mod_eq_of_lt hk, Nat.add_mul_div_left _ _ (Nat.succ_pos _),
      Nat.div_eq_of_lt hk, Nat.zero_add, hm, insertAt_length]

/-- With no order on the tape, things are taken as listed. -/
theorem arrange_zero {α : Type} (l : List α) : arrange 0 l = l := by
  induction l with
  | nil => rfl
  | cons x l ih => simp [arrange, ih, insertAt]

/-- What holds of the state and survives each thing done holds after all of them. -/
theorem forEach_keeps {α : Type} (P : State → Prop) (l : List α) (f : α → State → State)
    (hdrop : ∀ s, P s → P s.dropOrder) (hf : ∀ x ∈ l, ∀ s, P s → P (f x s)) (s : State) (h : P s) : P (forEach l f s) := by
  unfold forEach
  have hmem : ∀ x ∈ arrange s.nextOrder l, x ∈ l := fun x hx => (arrange_perm _ l).mem_iff.mp hx
  generalize arrange s.nextOrder l = l' at hmem
  have h0 : P s.dropOrder := hdrop s h
  generalize s.dropOrder = s0 at h0
  induction l' generalizing s0 with
  | nil => exact h0
  | cons x l' ih =>
    exact ih (fun y hy => hmem y (List.mem_cons_of_mem _ hy)) (f x s0) (hf x (hmem x (List.mem_cons_self)) s0 h0)

/-! ## The text pool -/

/-- A byte written is read back, and no other byte changes. -/
theorem TextMem.read_write (m : TextMem) (a b : Nat) (v : Byte) :
    (m.write a v).read b = if b = a then v else m.read b := by
  unfold TextMem.write TextMem.read
  split
  · rename_i hv
    by_cases h : b = a <;> simp [h, hv]
  · by_cases h : b = a <;> simp [h]

/-- Bytes written at rising addresses: inside the run the byte given, outside it the byte before. -/
theorem TextMem.read_writeAll (m : TextMem) (a b : Nat) (bs : List Byte) :
    (m.writeAll a bs).read b = if a ≤ b ∧ b < a + bs.length then bs.getD (b - a) 0 else m.read b := by
  induction bs generalizing m a with
  | nil =>
    have h : ¬ (a ≤ b ∧ b < a + ([] : List Byte).length) := by
      simp only [List.length_nil]
      omega
    rw [if_neg h]
    rfl
  | cons v bs ih =>
    simp only [TextMem.writeAll, ih, TextMem.read_write, List.length_cons]
    by_cases h1 : b = a
    · subst h1
      simp
    · by_cases h2 : a + 1 ≤ b ∧ b < a + 1 + bs.length
      · have h3 : a ≤ b ∧ b < a + (bs.length + 1) := by omega
        have h4 : b - a = (b - (a + 1)) + 1 := by omega
        simp [h2, h3, h4]
      · have h3 : ¬ (a ≤ b ∧ b < a + (bs.length + 1)) := by omega
        rw [if_neg h2, if_neg h3, if_neg h1]

/-- A page cleared reads 0x00, and no other page changes. -/
theorem TextMem.read_clearPage (m : TextMem) (page b : Nat) :
    (m.clearPage page).read b = if b / Config.pageBytes = page then 0 else m.read b := by
  unfold TextMem.clearPage TextMem.read
  have := Table.get_filter_key (fun k => decide (k / Config.pageBytes ≠ page)) m b
  simp only [decide_not] at this
  rw [show (fun c : Host.Cell => decide (c.1 / Config.pageBytes ≠ page)) = (fun c => !decide (c.1 / Config.pageBytes = page)) by
    funext c; simp]
  rw [this]
  by_cases h : b / Config.pageBytes = page <;> simp [h]

/-- RESTART's clearing: schedule pages read 0x00, plan pages as before. -/
theorem TextMem.read_clearSchedule (m : TextMem) (b : Nat) :
    m.clearSchedule.read b = if b / Config.pageBytes < Config.planPages then m.read b else 0 := by
  unfold TextMem.clearSchedule TextMem.read
  have := Table.get_filter_key (fun k => decide (k / Config.pageBytes < Config.planPages)) m b
  rw [this]
  by_cases h : b / Config.pageBytes < Config.planPages <;> simp [h]

/-! ### The canonical form -/

theorem Table.rising_iff {α : Type} (t : Table α) : Table.rising t = true ↔ t.Pairwise (fun x y => x.1 < y.1) := by
  induction t with
  | nil => simp [Table.rising]
  | cons e t ih =>
    cases t with
    | nil => simp [Table.rising]
    | cons e' t =>
      obtain ⟨k, v⟩ := e
      obtain ⟨k', v'⟩ := e'
      simp only [Table.rising, Bool.and_eq_true, decide_eq_true_eq, ih, List.pairwise_cons, List.mem_cons,
        forall_eq_or_imp]
      constructor
      · rintro ⟨h1, h2, h3⟩
        exact ⟨⟨h1, fun e he => lt_trans h1 (h2 e he)⟩, h2, h3⟩
      · rintro ⟨⟨h1, _⟩, h2, h3⟩
        exact ⟨h1, h2, h3⟩

theorem Table.mem_put {α : Type} {t : Table α} {n : Nat} {x : α} {e : Nat × α} (h : e ∈ Table.put t n x) :
    e = (n, x) ∨ e ∈ t := by
  induction t with
  | nil => simpa [Table.put] using h
  | cons e' t ih =>
    obtain ⟨k, v⟩ := e'
    unfold Table.put at h
    split at h
    · rcases List.mem_cons.mp h with h | h
      · exact Or.inl h
      · exact Or.inr (List.mem_cons_of_mem _ h)
    · split at h
      · rcases List.mem_cons.mp h with h | h
        · exact Or.inl h
        · exact Or.inr h
      · rcases List.mem_cons.mp h with h | h
        · exact Or.inr (by simp [h])
        · rcases ih h with h | h
          · exact Or.inl h
          · exact Or.inr (List.mem_cons_of_mem _ h)

theorem Table.get_none_of_rising {α : Type} {t : Table α} {n : Nat} (h : ∀ e ∈ t, n < e.1) : Table.get t n = none := by
  induction t with
  | nil => rfl
  | cons e t ih =>
    obtain ⟨k, v⟩ := e
    have hk : n < k := h (k, v) (List.mem_cons_self)
    simp [Table.get, Nat.ne_of_gt hk, ih (fun e he => h e (List.mem_cons_of_mem _ he))]

/-- Writing keeps the numbers rising. -/
theorem Table.rising_put {α : Type} {t : Table α} (h : Table.rising t = true) (n : Nat) (x : α) :
    Table.rising (Table.put t n x) = true := by
  rw [Table.rising_iff] at *
  induction t with
  | nil => simp [Table.put]
  | cons e t ih =>
    obtain ⟨k, v⟩ := e
    rw [List.pairwise_cons] at h
    unfold Table.put
    split
    · rename_i hk
      subst hk
      exact List.pairwise_cons.mpr ⟨h.1, h.2⟩
    · rename_i hk
      split
      · rename_i h1
        refine List.pairwise_cons.mpr ⟨?_, List.pairwise_cons.mpr h⟩
        intro e he
        rcases List.mem_cons.mp he with he | he
        · subst he; exact h1.1
        · exact lt_trans h1.1 (h.1 e he)
      · rename_i h1
        have hlt : k < n := by
          rcases Nat.lt_trichotomy n k with h2 | h2 | h2
          · exact absurd ⟨h2, by rw [Table.get_none_of_rising (fun e he => lt_trans h2 (h.1 e he))]; rfl⟩ h1
          · exact absurd h2 hk
          · exact h2
        refine List.pairwise_cons.mpr ⟨?_, ih h.2⟩
        intro e he
        rcases Table.mem_put he with he | he
        · subst he; exact hlt
        · exact h.1 e he

/-- Leaving entries out keeps the numbers rising. -/
theorem Table.rising_filter {α : Type} {t : Table α} (h : Table.rising t = true) (p : Nat × α → Bool) :
    Table.rising (t.filter p) = true := by
  rw [Table.rising_iff] at *
  exact h.filter p

/-- A byte inside the pool written keeps the canonical form. -/
theorem TextMem.wf_write {m : TextMem} (h : m.wf = true) {a : Nat} (ha : a < Config.pages * Config.pageBytes) (v : Byte) :
    (m.write a v).wf = true := by
  unfold TextMem.wf at *
  simp only [Bool.and_eq_true, List.all_eq_true, decide_eq_true_eq, ne_eq] at *
  unfold TextMem.write
  split
  · refine ⟨Table.rising_filter h.1 _, fun c hc => ?_⟩
    exact h.2 c (List.mem_of_mem_filter hc)
  · rename_i hv
    refine ⟨Table.rising_put h.1 _ _, fun c hc => ?_⟩
    rcases Table.mem_put hc with hc | hc
    · subst hc
      exact ⟨by simpa using hv, by simpa using ha⟩
    · exact h.2 c hc

/-- A run of bytes inside the pool written keeps the canonical form. -/
theorem TextMem.wf_writeAll {m : TextMem} (h : m.wf = true) (bs : List Byte) {a : Nat}
    (ha : a + bs.length ≤ Config.pages * Config.pageBytes) : (m.writeAll a bs).wf = true := by
  induction bs generalizing m a with
  | nil => exact h
  | cons v bs ih =>
    simp only [List.length_cons] at ha
    exact ih (TextMem.wf_write h (by omega) v) (by omega)

/-- Clearing pages keeps the canonical form. -/
theorem TextMem.wf_filter {m : TextMem} (h : m.wf = true) (p : Host.Cell → Bool) : TextMem.wf (m.filter p) = true := by
  unfold TextMem.wf at *
  simp only [Bool.and_eq_true, List.all_eq_true] at *
  exact ⟨Table.rising_filter h.1 _, fun c hc => h.2 c (List.mem_of_mem_filter hc)⟩

theorem TextMem.wf_clearPage {m : TextMem} (h : m.wf = true) (page : Nat) : (m.clearPage page).wf = true := TextMem.wf_filter h _

theorem TextMem.wf_clearSchedule {m : TextMem} (h : m.wf = true) : m.clearSchedule.wf = true := TextMem.wf_filter h _

end Sys2Proof.Machine
end

