-- ==== Sys2Proof/Laws/Follows.lean ====
section
/-! SUPPORT. What the deliveries inside a command leave as it was: one lemma per shared operation (`Follows`). -/

namespace Sys2Proof.Machine

/-! ## The relation -/

theorem and_grow_trans {a b c : Half} (h : a &&& b = a) (h' : b &&& c = b) : a &&& c = a := by
  rw [← h, BitVec.and_assoc, h', h]

theorem Follows.refl (s : State) : Follows s s := ⟨rfl, BitVec.and_self, id⟩

theorem Follows.trans {s t u : State} (h : Follows s t) (h' : Follows t u) : Follows s u :=
  ⟨h'.kept.trans h.kept, and_grow_trans h.grow h'.grow, fun g => h'.good (h.good g)⟩

/-- A change that leaves LI alone. -/
theorem Follows.of_li {s t : State} (h : t.kept = s.kept) (hli : t.li = s.li) (hpin : t.resetPin = s.resetPin) : Follows s t :=
  ⟨h, by rw [hli, BitVec.and_self], fun g => by unfold FlagsGood at *; rw [hli, hpin]; exact g⟩

/-! ### Fields read through it -/

section Fields

variable {s t : State} (h : Follows s t)
include h

theorem Follows.pending : t.pending = s.pending := by
  have := congrArg State.pending h.kept
  exact this
theorem Follows.resetPin : t.resetPin = s.resetPin := by
  have := congrArg State.resetPin h.kept
  exact this
theorem Follows.lu : t.lu = s.lu := by
  have := congrArg State.lu h.kept
  exact this
theorem Follows.clock : t.clock = s.clock := by
  have := congrArg State.clock h.kept
  exact this
theorem Follows.text : t.text = s.text := by
  have := congrArg State.text h.kept
  exact this
theorem Follows.nu : t.nu = s.nu := by
  have := congrArg State.nu h.kept
  exact this
theorem Follows.ps : t.ps = s.ps := by
  have := congrArg State.ps h.kept
  exact this
theorem Follows.time : t.time = s.time := by
  have := congrArg State.time h.kept
  exact this
theorem Follows.link : t.li.kept = s.li.kept := congrArg State.li h.kept
theorem Follows.segs : t.sc.kept = s.sc.kept := congrArg State.sc h.kept
theorem Follows.stored : Table.mapVals Session.stored t.sessions = Table.mapVals Session.stored s.sessions :=
  congrArg State.sessions h.kept

end Fields

/-! ## Segments -/

theorem Segs.kept_set (g : Segs) (ix : SegIx) (x : Seg) : (g.set ix x).kept = g.kept.set ix x.kept := by
  cases ix <;> rfl

theorem Segs.kept_get (g : Segs) (ix : SegIx) : g.kept.get ix = (g.get ix).kept := by
  cases ix <;> rfl

theorem Segs.set_get (g : Segs) (ix : SegIx) : g.set ix (g.get ix) = g := by
  cases ix <;> rfl

theorem Segs.get_set_same (g : Segs) (ix : SegIx) (x : Seg) : (g.set ix x).get ix = x := by
  cases ix <;> rfl

theorem Segs.get_set_other (g : Segs) {ix j : SegIx} (x : Seg) (h : j ≠ ix) : (g.set ix x).get j = g.get j := by
  cases ix <;> cases j <;> first | exact absurd rfl h | rfl

theorem Follows.seg {s t : State} (h : Follows s t) (ix : SegIx) : (t.seg ix).kept = (s.seg ix).kept := by
  have := congrArg (fun g => Segs.get g ix) h.segs
  simpa [Segs.kept_get, State.seg] using this

/-- A segment replaced by one that differs in its queue, its transfer and its records' places only. -/
theorem Follows.setSeg (s : State) (ix : SegIx) (g : Seg) (h : g.kept = (s.seg ix).kept) : Follows s (s.setSeg ix g) := by
  refine Follows.of_li ?_ rfl rfl
  have : (s.sc.set ix g).kept = s.sc.kept := by
    rw [Segs.kept_set, h]
    have : (s.seg ix).kept = s.sc.kept.get ix := (Segs.kept_get s.sc ix).symm
    rw [this, Segs.set_get]
  unfold State.kept State.setSeg
  rw [this]

/-- A record replaced by one that differs in its place and wanted face only. -/
theorem Seg.kept_putRec {g : Seg} {a : Nat} {r r' : Rec} (hget : Table.get g.recs a = some r) (hr : r'.kept = r.kept) :
    ({ g with recs := Table.put g.recs a r' } : Seg).kept = g.kept := by
  unfold Seg.kept
  simp only [Table.mapVals_put Rec.kept g.recs a r' r hget hr]

theorem Follows.putRec {s : State} {ix : SegIx} {a : Nat} {r r' : Rec} (hget : s.rec? ix a = some r) (hr : r'.kept = r.kept) :
    Follows s (s.putRec ix a r') :=
  Follows.setSeg s ix _ (Seg.kept_putRec hget hr)

theorem Seg.kept_enqueue {g : Seg} {a : Nat} {r : Rec} (c : QueueClass) (hget : Table.get g.recs a = some r)
    (hr : (RecState.queued).inFlight = r.state.inFlight) : (g.enqueue a r c).kept = g.kept := by
  have h : ({ r with state := .queued } : Rec).kept = r.kept := by unfold Rec.kept; simp [hr]
  have := Seg.kept_putRec (r' := { r with state := .queued }) hget h
  unfold Seg.enqueue
  unfold Seg.kept at *
  simpa using this

theorem Seg.kept_setOnline {g : Seg} {a : Nat} {r r' : Rec} (hget : Table.get g.recs a = some r)
    (hr : ({ r' with state := .online } : Rec).kept = r.kept) : (g.setOnline a r').kept = g.kept := by
  have := Seg.kept_putRec hget hr
  unfold Seg.setOnline
  unfold Seg.kept at *
  simpa using this

theorem Seg.kept_setLost {g : Seg} {a : Nat} {r r' : Rec} (hget : Table.get g.recs a = some r)
    (hr : ({ r' with state := .lost } : Rec).kept = r.kept) : (g.setLost a r').kept = g.kept := by
  have := Seg.kept_putRec hget hr
  unfold Seg.setLost
  unfold Seg.kept at *
  simpa using this

theorem Seg.kept_requeue {g : Seg} {a : Nat} {r r' : Rec} (c : QueueClass) (n : Nat) (hget : Table.get g.recs a = some r)
    (hr : ({ r' with state := .queued } : Rec).kept = r.kept) : (g.requeue a r' c n).kept = g.kept := by
  have := Seg.kept_putRec hget hr
  unfold Seg.requeue
  unfold Seg.kept at *
  simpa using this

/-- A need evaluated touches the queue and the record's place in it only (R150). -/
theorem Seg.kept_evaluate (g : Seg) (a : Nat) (least : QueueClass) : (g.evaluate a least).kept = g.kept := by
  unfold Seg.evaluate
  cases hget : Table.get g.recs a with
  | none => rfl
  | some r =>
    cases hs : r.state with
    | online =>
      simp only [hs]
      split
      · exact Seg.kept_enqueue _ hget (by rw [hs]; rfl)
      · rfl
    | queued =>
      simp only [hs]
      split
      · rfl
      · exact Seg.kept_setOnline hget (by unfold Rec.kept; simp [hs, RecState.inFlight])
    | loading => simp only [hs]
    | refreshing f => simp only [hs]
    | lost => simp only [hs]

/-! ## Flags -/

theorem or_flag_good {a : Half} (f : Flag) (h : a &&& 0xF000 = 0) : (a ||| f.bit) &&& 0xF000 = 0 := by
  have hb : f.bit &&& 0xF000 = 0 := by cases f <;> decide
  ext i hi
  have h1 := congrArg (fun x : Half => x.getLsbD i) h
  have h2 := congrArg (fun x : Half => x.getLsbD i) hb
  simp only [BitVec.getLsbD_and] at h1 h2
  simp only [← BitVec.getLsbD_eq_getElem, BitVec.getLsbD_and, BitVec.getLsbD_or, Bool.and_or_distrib_right]
  rw [h1, h2]
  exact Bool.or_self _

/-- A raise sets one flag. -/
theorem raise_follows (f : Flag) (s : State) : Follows s (raise f s) := by
  refine ⟨rfl, ?_, fun g => ?_⟩
  · show s.li.attention &&& (s.li.attention ||| f.bit) = s.li.attention
    ext i hi
    simp only [BitVec.getElem_and, BitVec.getElem_or]
    cases s.li.attention[i] <;> rfl
  · exact ⟨or_flag_good f g.1, rfl⟩

theorem raiseIf_follows (c : Bool) (f : Flag) (s : State) : Follows s (raiseIf c f s) := by
  unfold raiseIf
  split
  · exact raise_follows f s
  · exact Follows.refl s

/-! ## Orders -/

theorem dropOrder_follows (s : State) : Follows s s.dropOrder := Follows.of_li rfl rfl rfl

theorem forEach_follows {α : Type} (l : List α) (f : α → State → State) (hf : ∀ x ∈ l, ∀ s, Follows s (f x s)) (s : State) :
    Follows s (forEach l f s) :=
  forEach_keeps (Follows s) l f (fun t h => h.trans (dropOrder_follows t)) (fun x hx t h => h.trans (hf x hx t)) s (Follows.refl s)

theorem deliver_follows (l : List (State → State)) (hl : ∀ f ∈ l, ∀ s, Follows s (f s)) (s : State) : Follows s (deliver l s) :=
  forEach_follows l (fun f => f) hl s

/-! ## Wanted faces at the segments -/

theorem evaluate_follows (ix : SegIx) (a : Nat) (s : State) : Follows s (evaluate ix a s) :=
  Follows.setSeg s ix _ (Seg.kept_evaluate _ _ _)

theorem loseRecord_follows {s : State} {ix : SegIx} {a : Nat} {r r' : Rec} (hget : s.rec? ix a = some r)
    (hr : ({ r' with state := .lost } : Rec).kept = r.kept) : Follows s (loseRecord ix a r' s) :=
  (Follows.setSeg s ix _ (Seg.kept_setLost hget hr)).trans (raise_follows _ _)

theorem Rec.kept_state {r r' : Rec} {st : RecState} (hr : r'.kept = r.kept) (hst : st.inFlight = .online)
    (hs : r.state.inFlight = .online) : ({ r' with state := st } : Rec).kept = r.kept := by
  unfold Rec.kept at *
  rw [hst]
  rw [hs] at hr ⊢
  simpa using congrArg (fun x : Rec => ({ x with state := .online } : Rec)) hr

/-- A record that leaves LOADING (R160, R161, R163, R170). -/
theorem leaveLoading_follows {s : State} {ix : SegIx} {a : Nat} {r r' : Rec} (t : Transfer) (hget : s.rec? ix a = some r)
    (hr : r'.kept = r.kept) (hs : r.state.inFlight = .online) : Follows s (leaveLoading ix a t r' s) := by
  have h1 : Follows s (s.setSeg ix { s.seg ix with transfer := none }) := Follows.setSeg s ix _ rfl
  have hget1 : (s.setSeg ix { s.seg ix with transfer := none }).rec? ix a = some r := by
    simpa [State.rec?] using hget
  unfold leaveLoading
  refine h1.trans ?_
  generalize s.setSeg ix { s.seg ix with transfer := none } = u at *
  simp only
  split
  · exact loseRecord_follows hget1 (Rec.kept_state hr rfl hs)
  · split
    · exact Follows.setSeg u ix _ (Seg.kept_requeue _ _ hget1 (Rec.kept_state hr rfl hs))
    · exact Follows.setSeg u ix _ (Seg.kept_setOnline hget1 (Rec.kept_state hr rfl hs))

theorem wantedFaceChange_follows (ix : SegIx) (a : Nat) (digest : Half) (template : Template) (s : State) :
    Follows s (wantedFaceChange ix a digest template s) := by
  unfold wantedFaceChange
  cases hget : s.rec? ix a with
  | none => exact Follows.refl s
  | some r =>
    simp only
    have h1 : Follows s (s.putRec ix a { r with wantedDigest := digest, wantedTemplate := template }) :=
      Follows.putRec hget rfl
    refine h1.trans ?_
    have hget1 : (s.putRec ix a { r with wantedDigest := digest, wantedTemplate := template }).rec? ix a
        = some { r with wantedDigest := digest, wantedTemplate := template } := by
      simp [State.rec?, State.putRec]
    generalize s.putRec ix a { r with wantedDigest := digest, wantedTemplate := template } = u at *
    split
    · rename_i t hst htr
      split
      · exact Follows.refl u
      · split
        · exact Follows.setSeg u ix _ rfl
        · refine leaveLoading_follows t hget1 rfl ?_
          simp [hst, RecState.inFlight]
    · exact evaluate_follows ix a u

/-! ## FR and ST -/

theorem storeFace_follows (s : State) (slot : Nat) (role : RoleFace) (f : FaceRec) : Follows s (s.storeFace slot role f) :=
  Follows.of_li rfl rfl rfl

theorem dropFace_follows (s : State) (slot : Nat) : Follows s (s.dropFace slot) := Follows.of_li rfl rfl rfl

theorem recomputeSlot_follows (slot : Nat) (s : State) : Follows s (recomputeSlot slot s) := by
  unfold recomputeSlot
  split
  · simp only
    split
    · exact storeFace_follows _ _ _ _
    · exact (storeFace_follows _ _ _ _).trans (wantedFaceChange_follows _ _ _ _ _)
  · exact dropFace_follows _ _

theorem recomputeAll_follows (s : State) : Follows s (recomputeAll s) :=
  forEach_follows _ _ (fun slot _ s => recomputeSlot_follows slot s) s

theorem recomputeZone_follows (zone : Nat) (s : State) : Follows s (recomputeZone zone s) :=
  forEach_follows _ _ (fun slot _ s => recomputeSlot_follows slot s) s

theorem carouselStep_follows (minute : Nat) (s : State) : Follows s (carouselStep minute s) := by
  unfold carouselStep
  split
  · exact Follows.of_li rfl rfl rfl
  · exact Follows.refl s

theorem resolverMinute_follows (minute : Nat) (s : State) : Follows s (resolverMinute minute s) :=
  (carouselStep_follows minute s).trans (recomputeAll_follows _)

theorem stored_update (clock : Clock) (lead : Nat) (spaces : List Space) (r : Session) :
    (r.update clock lead spaces).stored = r.stored := rfl

theorem stored_judgeWarning (r : Session) : r.judgeWarning.stored = r.stored := rfl

theorem updateSessions_follows (s : State) : Follows s (updateSessions s) := by
  unfold updateSessions
  have h : Follows s { s with sessions := Table.mapVals Session.judgeWarning (Table.mapVals s.evalSession s.sessions) } := by
    refine Follows.of_li ?_ rfl rfl
    unfold State.kept
    simp only [Table.mapVals_mapVals]
    rfl
  exact h.trans (raiseIf_follows _ _ _)

theorem reevaluateAll_follows (changed : Bool) (s : State) : Follows s (reevaluateAll changed s) := by
  unfold reevaluateAll
  split
  · exact (updateSessions_follows s).trans (recomputeAll_follows _)
  · exact updateSessions_follows s

theorem reevaluateSessions_follows (s : State) : Follows s (reevaluateSessions s) := reevaluateAll_follows false s

/-- One record stored and re-evaluated: the map with that record, and its deliveries. -/
theorem reevaluateOne_follows (changed : Bool) (number : Nat) (r : Session) (s : State) :
    Follows { s with sessions := Table.put s.sessions number r } (reevaluateOne changed number r s) := by
  unfold reevaluateOne
  have h : Follows { s with sessions := Table.put s.sessions number r }
      { s with sessions := Table.put s.sessions number (s.evalSession r).judgeWarning } := by
    refine Follows.of_li ?_ rfl rfl
    unfold State.kept
    have : ∀ (t : Table Session) (x y : Session), x.stored = y.stored →
        Table.mapVals Session.stored (Table.put t number x) = Table.mapVals Session.stored (Table.put t number y) := by
      intro t x y hxy
      induction t with
      | nil => simp [Table.put, Table.mapVals, hxy]
      | cons e t ih =>
        obtain ⟨k, v⟩ := e
        unfold Table.put
        split
        · simp [Table.mapVals, hxy]
        · split
          · simp [Table.mapVals, hxy]
          · simp only [Table.mapVals, List.map_cons] at *
            rw [ih]
    simp only [this s.sessions (s.evalSession r).judgeWarning r rfl]
  have hr := h.trans (raiseIf_follows (s.evalSession r).warns .layout _)
  simp only
  split
  · exact hr.trans (recomputeAll_follows _)
  · exact hr

/-- A record that a request leaves as it was, and that stands as the inputs give it, brings no delivery and no change (R37). -/
theorem reevaluateOne_same {number : Nat} {r : Session} {s : State} (hg : Table.get s.sessions number = some r)
    (hc : Current s r) : reevaluateOne false number r s = s := by
  obtain ⟨hp, hh, hl, hw⟩ := hc
  have he : s.evalSession r = r := by
    unfold State.evalSession Session.update
    simp only [← hp, ← hh, ← hl]
  have hj : r.judgeWarning = r := by
    unfold Session.judgeWarning
    rw [← hw]
  have hn : r.warns = false := by
    unfold Session.warns
    rw [← hw]
    cases r.warned <;> rfl
  unfold reevaluateOne
  simp [he, hj, hn, Session.moved, raiseIf, Table.put_get hg]

/-- The spaces re-derived (R17): the space list is as derived from the tables. -/
theorem rederive_follows (s : State) : Follows { s with lu := s.lu.derived } (rederive s) := by
  unfold rederive Layout.derived
  simp only
  split
  · rename_i h
    rw [h]
    exact Follows.refl s
  · refine deliver_follows _ ?_ _
    intro f hf s
    rcases List.mem_cons.mp hf with hf | hf
    · subst hf; exact reevaluateSessions_follows s
    · rcases List.mem_cons.mp hf with hf | hf
      · subst hf; exact recomputeAll_follows s
      · exact absurd hf (List.not_mem_nil)

/-- The tables of LU replaced and the spaces re-derived. -/
theorem rederive_lu (s : State) (lu : Layout) : Follows { s with lu := lu.derived } (rederive { s with lu }) :=
  rederive_follows { s with lu }

/-! ## Requests -/

/-- A request entered in service, on both sides. -/
theorem Follows.inService {s t : State} (h : Follows s t) (tag : Byte) (asked : Asked) (reply : List Byte) :
    Follows (s.inService tag asked reply) (t.inService tag asked reply) := by
  refine ⟨?_, h.grow, fun g => ?_⟩
  · have hl : t.li.kept = s.li.kept := h.link
    have hk := h.kept
    unfold State.kept State.inService at *
    unfold Link.kept at *
    simp only [State.mk.injEq, Link.mk.injEq] at *
    refine ⟨hk.1, ?_, hk.2.2⟩
    simp [hl]
  · have := h.good g
    exact this

end Sys2Proof.Machine
end

