-- ==== Sys2Proof/Laws/Bus.lean ====
section
/-! SUPPORT. What work on one sign bus leaves as it was: one lemma per operation (`FollowsSeg`). -/

namespace Sys2Proof.Machine

/-! ## The relation -/

theorem FollowsSeg.refl (ix : SegIx) (s : State) : FollowsSeg ix s s := ⟨rfl, BitVec.and_self, id⟩

theorem FollowsSeg.trans {ix : SegIx} {s t u : State} (h : FollowsSeg ix s t) (h' : FollowsSeg ix t u) : FollowsSeg ix s u :=
  ⟨h'.kept.trans h.kept, and_grow_trans h.grow h'.grow, fun g => h'.good (h.good g)⟩

theorem State.kept_setSeg (s : State) (ix : SegIx) (g : Seg) : (s.setSeg ix g).kept = s.kept.setSeg ix g.kept := by
  unfold State.kept State.setSeg
  simp only [Segs.kept_set]

theorem Follows.toSeg {s t : State} (h : Follows s t) (ix : SegIx) : FollowsSeg ix s t :=
  ⟨by rw [State.kept_setSeg, State.kept_setSeg, h.kept], h.grow, h.good⟩

/-- The segment itself replaced. -/
theorem FollowsSeg.setSeg (s : State) (ix : SegIx) (g : Seg) : FollowsSeg ix s (s.setSeg ix g) :=
  ⟨by simp, BitVec.and_self, id⟩

theorem FollowsSeg.putRec (s : State) (ix : SegIx) (a : Nat) (r : Rec) : FollowsSeg ix s (s.putRec ix a r) :=
  FollowsSeg.setSeg s ix _

section Fields

variable {ix : SegIx} {s t : State} (h : FollowsSeg ix s t)
include h

theorem FollowsSeg.pending : t.pending = s.pending := by
  have := congrArg State.pending h.kept
  exact this
theorem FollowsSeg.resetPin : t.resetPin = s.resetPin := by
  have := congrArg State.resetPin h.kept
  exact this
theorem FollowsSeg.lu : t.lu = s.lu := by
  have := congrArg State.lu h.kept
  exact this
theorem FollowsSeg.clock : t.clock = s.clock := by
  have := congrArg State.clock h.kept
  exact this
theorem FollowsSeg.text : t.text = s.text := by
  have := congrArg State.text h.kept
  exact this
theorem FollowsSeg.nu : t.nu = s.nu := by
  have := congrArg State.nu h.kept
  exact this
theorem FollowsSeg.ps : t.ps = s.ps := by
  have := congrArg State.ps h.kept
  exact this
theorem FollowsSeg.time : t.time = s.time := by
  have := congrArg State.time h.kept
  exact this
theorem FollowsSeg.link : t.li.kept = s.li.kept := by
  have := congrArg State.li h.kept
  exact this
theorem FollowsSeg.stored : Table.mapVals Session.stored t.sessions = Table.mapVals Session.stored s.sessions := by
  have := congrArg State.sessions h.kept
  exact this

/-- The other segments keep all but their queues, transfers and records' places. -/
theorem FollowsSeg.other {j : SegIx} (hj : j ≠ ix) : (t.seg j).kept = (s.seg j).kept := by
  have := congrArg (fun x => x.sc.get j) h.kept
  simp only [State.kept_setSeg] at this
  have e : ∀ u : State, (u.kept.setSeg ix Seg.atReset.kept).sc.get j = (u.seg j).kept := by
    intro u
    show (u.kept.sc.set ix Seg.atReset.kept).get j = _
    rw [Segs.get_set_other _ _ hj]
    exact Segs.kept_get u.sc j
  simpa [e] using this

end Fields

/-! ## Records -/

theorem loseRecord_seg (ix : SegIx) (a : Nat) (r : Rec) (s : State) : FollowsSeg ix s (loseRecord ix a r s) :=
  (FollowsSeg.setSeg s ix _).trans ((raise_follows _ _).toSeg ix)

theorem evaluate_seg (ix : SegIx) (a : Nat) (s : State) : FollowsSeg ix s (evaluate ix a s) :=
  (evaluate_follows ix a s).toSeg ix

theorem leaveLoading_seg (ix : SegIx) (a : Nat) (t : Transfer) (r : Rec) (s : State) :
    FollowsSeg ix s (leaveLoading ix a t r s) := by
  unfold leaveLoading
  refine (FollowsSeg.setSeg s ix { s.seg ix with transfer := none }).trans ?_
  generalize s.setSeg ix { s.seg ix with transfer := none } = u
  simp only
  split
  · exact loseRecord_seg ix a r u
  · split
    · exact FollowsSeg.setSeg u ix _
    · exact FollowsSeg.setSeg u ix _

theorem leaveRefreshing_seg (ix : SegIx) (a : Nat) (r : Rec) (s : State) : FollowsSeg ix s (leaveRefreshing ix a r s) := by
  unfold leaveRefreshing
  split
  · exact loseRecord_seg ix a r s
  · exact (FollowsSeg.setSeg s ix _).trans (evaluate_seg ix a _)

theorem resetPage_follows (slot : Nat) (s : State) : Follows s (resetPage slot s) := by
  unfold resetPage
  split
  · exact Follows.of_li rfl rfl rfl
  · exact Follows.refl s

theorem resolverLoses_follows (slot : Nat) (s : State) : Follows s (resolverLoses slot s) :=
  (dropFace_follows s slot).trans (resetPage_follows slot _)

theorem bindRecord_seg (ix : SegIx) (a slot : Nat) (s : State) : FollowsSeg ix s (bindRecord ix a slot s) := by
  unfold bindRecord
  split
  · exact FollowsSeg.refl ix s
  · exact (FollowsSeg.putRec s ix a _).trans
      (((dropFace_follows _ _).trans ((resetPage_follows _ _).trans (recomputeSlot_follows _ _))).toSeg ix)

theorem kept_loseBinding (slot : Nat) {s t : State} (h : t.kept = s.kept) : (loseBinding slot t).kept = (loseBinding slot s).kept := by
  unfold loseBinding State.kept at *
  simp only [State.mk.injEq] at h ⊢
  obtain ⟨h1, h2, h3, h4, h5, h6, h7, h8, h9, h10, h11, h12, -⟩ := h
  exact ⟨h1, h2, h3, h4, h5, h6, h7, h8, by rw [h9], h10, h11, h12, trivial⟩

theorem FollowsSeg.loseBinding {ix : SegIx} {s t : State} (h : FollowsSeg ix s t) (slot : Nat) :
    FollowsSeg ix (loseBinding slot s) (loseBinding slot t) := by
  refine ⟨?_, h.grow, h.good⟩
  have e : ∀ u : State, (Machine.loseBinding slot u).setSeg ix Seg.atReset = Machine.loseBinding slot (u.setSeg ix Seg.atReset) :=
    fun u => rfl
  rw [e, e]
  exact kept_loseBinding slot h.kept

/-- A record made stray: its slot's pin goes (R100), flags rise, its segment changes. -/
theorem makeStray_seg (ix : SegIx) (a : Nat) (s : State) : FollowsSeg ix (unpinned ix a s) (makeStray ix a s) := by
  unfold makeStray unpinned
  cases hget : s.rec? ix a with
  | none => exact FollowsSeg.refl ix s
  | some r =>
    cases hb : r.binding with
    | none => simpa [hb] using FollowsSeg.refl ix s
    | some slot =>
      simp only [Option.bind_some, hb]
      have h1 : FollowsSeg ix s (resolverLoses slot (raise .stray (s.putRec ix a { r with binding := none }))) :=
        (FollowsSeg.putRec s ix a _).trans (((raise_follows _ _).trans (resolverLoses_follows _ _)).toSeg ix)
      exact (h1.loseBinding slot).trans ((wantedFaceChange_follows _ _ _ _ _).toSeg ix)

/-- A record deleted: its slot's pin goes (R100), its segment changes. -/
theorem deleteRecord_seg (ix : SegIx) (a : Nat) (s : State) : FollowsSeg ix (unpinned ix a s) (deleteRecord ix a s) := by
  unfold deleteRecord unpinned
  cases hget : s.rec? ix a with
  | none => exact FollowsSeg.refl ix s
  | some r =>
    cases hb : r.binding with
    | none => simpa [hb] using FollowsSeg.setSeg s ix _
    | some slot =>
      simp only [Option.bind_some, hb]
      exact ((FollowsSeg.setSeg s ix _).trans ((resolverLoses_follows _ _).toSeg ix)).loseBinding slot

theorem markDrop_seg (ix : SegIx) (a : Nat) (s : State) : FollowsSeg ix s (markDrop ix a s) := FollowsSeg.setSeg s ix _

theorem createRecord_seg (ix : SegIx) (a : Nat) (serial : Serial) (cls : PanelClass) (shown : Option Half) (s : State) :
    FollowsSeg ix s (createRecord ix a serial cls shown s) := by
  unfold createRecord
  refine (FollowsSeg.putRec s ix a (Rec.fresh serial cls shown)).trans ?_
  generalize s.putRec ix a (Rec.fresh serial cls shown) = u
  refine FollowsSeg.trans ?_ (evaluate_seg ix a _)
  split
  · exact (raise_follows _ _).toSeg ix
  · split
    · exact bindRecord_seg ix a _ u
    · exact ((raise_follows _ _).trans (raise_follows _ _)).toSeg ix

theorem recordReturns_seg (ix : SegIx) (a : Nat) (r : Rec) (c : PanelClass) (shown : Option Half) (s : State) :
    FollowsSeg ix s (recordReturns ix a r c shown s) := by
  unfold recordReturns
  refine (FollowsSeg.putRec s ix a (r.returned c shown)).trans ?_
  refine ((raise_follows .panel _).toSeg ix).trans ?_
  simp only
  refine FollowsSeg.trans ?_ (evaluate_seg ix a _)
  split
  · split
    · exact FollowsSeg.refl ix _
    · exact (recomputeSlot_follows _ _).toSeg ix
  · exact FollowsSeg.refl ix _

theorem recordReplaced_seg (ix : SegIx) (a : Nat) (s : State) : FollowsSeg ix (unpinned ix a s) (recordReplaced ix a s) :=
  (deleteRecord_seg ix a s).trans ((markDrop_seg ix a _).trans ((raise_follows _ _).toSeg ix))

/-! ## The choice of the next exchange -/

theorem admit_seg (ix : SegIx) (f : Found) (r : Rec) (s : State) : FollowsSeg ix s (admitEntry ix f r s) := FollowsSeg.setSeg s ix _

theorem chooseByUse_seg (ix : SegIx) (s : State) : FollowsSeg ix s (chooseByUse ix s) := by
  unfold chooseByUse
  simp only
  split
  · exact FollowsSeg.setSeg s ix _
  · split
    · exact FollowsSeg.setSeg s ix _
    · split
      · exact FollowsSeg.setSeg s ix _
      · split
        · exact admit_seg ix _ _ s
        · exact FollowsSeg.setSeg s ix _

theorem endEnrolment_seg (ix : SegIx) (result : EnrolResult) (s : State) : FollowsSeg ix s (endEnrolment ix result s) :=
  (FollowsSeg.setSeg s ix _).trans ((raise_follows _ _).toSeg ix)

theorem chooseNext_seg (ix : SegIx) (s : State) : FollowsSeg ix s (chooseNext ix s) := by
  unfold chooseNext
  simp only
  split
  · exact chooseByUse_seg ix s
  · split
    · exact FollowsSeg.setSeg s ix _
    · exact chooseByUse_seg ix s
  · exact FollowsSeg.setSeg s ix _
  · split
    · exact (endEnrolment_seg ix _ s).trans (chooseByUse_seg ix _)
    · split
      · exact (endEnrolment_seg ix _ s).trans (chooseByUse_seg ix _)
      · exact FollowsSeg.setSeg s ix _
  · split
    · exact FollowsSeg.refl ix s
    · exact FollowsSeg.setSeg s ix _

theorem endExchange_seg (ix : SegIx) (s : State) : FollowsSeg ix s (endExchange ix s) :=
  (FollowsSeg.setSeg s ix _).trans (chooseNext_seg ix _)

theorem judgeDrain_seg (ix : SegIx) (s : State) : FollowsSeg ix s (judgeDrain ix s) := by
  unfold judgeDrain
  simp only
  split
  · exact FollowsSeg.setSeg s ix _
  · exact FollowsSeg.refl ix s

theorem chooseIfQuiet_seg (ix : SegIx) (s : State) : FollowsSeg ix s (chooseIfQuiet ix s) := by
  unfold chooseIfQuiet
  split
  · exact chooseNext_seg ix s
  · exact FollowsSeg.refl ix s

/-! ## The ends of exchanges -/

theorem pollAnswered_seg (ix : SegIx) (a : Nat) (r : Rec) (rep : StateReport) (s : State) :
    FollowsSeg ix s (pollAnswered ix a r rep s) :=
  (FollowsSeg.putRec s ix a _).trans (((raiseIf_follows _ _ _).toSeg ix).trans (evaluate_seg ix a _))

theorem pollMissed_seg (ix : SegIx) (a : Nat) (r : Rec) (s : State) : FollowsSeg ix s (pollMissed ix a r s) := by
  unfold pollMissed
  simp only
  split
  · exact loseRecord_seg ix a _ s
  · exact FollowsSeg.putRec s ix a _

theorem pollOutcome_seg (ix : SegIx) (a : Nat) (heard : Heard) (s : State) : FollowsSeg ix s (pollOutcome ix a heard s) := by
  unfold pollOutcome
  split
  · exact FollowsSeg.refl ix s
  · split
    · exact pollAnswered_seg ix a _ _ s
    · exact pollMissed_seg ix a _ s
    · exact pollMissed_seg ix a _ s

theorem movePointer_seg (ix : SegIx) (a : Nat) (s : State) : FollowsSeg ix s (movePointer ix a s) := FollowsSeg.setSeg s ix _

theorem endPoll_seg (ix : SegIx) (heard : Heard) (s : State) : FollowsSeg ix s (endPoll ix heard s) := by
  unfold endPoll
  split
  · exact (pollOutcome_seg ix _ heard s).trans ((movePointer_seg ix _ _).trans (endExchange_seg ix _))
  · exact FollowsSeg.refl ix s

/-- A return probe: what it leaves, with the pin of a record that it finds replaced gone or not. -/
theorem probeOutcome_seg (ix : SegIx) (a : Nat) (heard : Heard) (s : State) :
    FollowsSeg ix s (probeOutcome ix a heard s) ∨ FollowsSeg ix (unpinned ix a s) (probeOutcome ix a heard s) := by
  unfold probeOutcome
  split
  · exact Or.inl (FollowsSeg.refl ix s)
  · split
    · exact Or.inl (FollowsSeg.putRec s ix a _)
    · exact Or.inl (FollowsSeg.putRec s ix a _)
    · split
      · split
        · exact Or.inl (recordReturns_seg ix a _ _ _ s)
        · exact Or.inr (recordReplaced_seg ix a s)
      · exact Or.inr (recordReplaced_seg ix a s)

theorem chunkFailed_seg (ix : SegIx) (t : Transfer) (s : State) : FollowsSeg ix s (chunkFailed ix t s) := by
  unfold chunkFailed
  split
  · exact FollowsSeg.refl ix s
  · split
    · exact FollowsSeg.setSeg s ix _
    · exact leaveLoading_seg ix _ t _ s

theorem endAbandoned_seg (ix : SegIx) (t : Transfer) (s : State) : FollowsSeg ix s (endAbandoned ix t s) := by
  unfold endAbandoned
  split
  · exact FollowsSeg.setSeg s ix _
  · exact leaveLoading_seg ix _ t _ s

theorem loadOutcome_seg (ix : SegIx) (a index : Nat) (heard : Heard) (s : State) :
    FollowsSeg ix s (loadOutcome ix a index heard s) := by
  unfold loadOutcome
  split
  · exact FollowsSeg.refl ix s
  · split
    · exact endAbandoned_seg ix _ s
    · split
      · split
        · exact FollowsSeg.setSeg s ix _
        · exact chunkFailed_seg ix _ s
      · exact chunkFailed_seg ix _ s
      · exact chunkFailed_seg ix _ s

theorem endLoad_seg (ix : SegIx) (heard : Heard) (s : State) : FollowsSeg ix s (endLoad ix heard s) := by
  unfold endLoad
  split
  · exact (loadOutcome_seg ix _ _ heard s).trans (endExchange_seg ix _)
  · exact FollowsSeg.refl ix s

theorem enterRefreshing_seg (ix : SegIx) (a : Nat) (t : Transfer) (r : Rec) (duration : Nat) (confirmed : Bool) (s : State) :
    FollowsSeg ix s (enterRefreshing ix a t r duration confirmed s) := FollowsSeg.setSeg s ix _

theorem showOutcome_seg (ix : SegIx) (a duration : Nat) (heard : Heard) (s : State) :
    FollowsSeg ix s (showOutcome ix a duration heard s) := by
  unfold showOutcome
  split
  · split
    · exact enterRefreshing_seg ix a _ _ _ _ s
    · exact leaveLoading_seg ix a _ _ s
    · exact enterRefreshing_seg ix a _ _ _ _ s
    · exact enterRefreshing_seg ix a _ _ _ _ s
  · exact FollowsSeg.refl ix s

theorem endShow_seg (ix : SegIx) (heard : Heard) (s : State) : FollowsSeg ix s (endShow ix heard s) := by
  unfold endShow
  split
  · exact (showOutcome_seg ix _ _ heard s).trans (endExchange_seg ix _)
  · exact FollowsSeg.refl ix s

theorem releaseDraw_seg (ix : SegIx) (draw : Nat) (s : State) : FollowsSeg ix s (releaseDraw ix draw s) := FollowsSeg.setSeg s ix _

theorem completeRefresh_seg (ix : SegIx) (a : Nat) (r : Rec) (f : Refresh) (rep : StateReport) (s : State) :
    FollowsSeg ix s (completeRefresh ix a r f rep s) :=
  ((raiseIf_follows _ _ _).toSeg ix).trans ((releaseDraw_seg ix _ _).trans (leaveRefreshing_seg ix a _ _))

theorem giveUp_seg (ix : SegIx) (a : Nat) (r : Rec) (f : Refresh) (s : State) : FollowsSeg ix s (giveUp ix a r f s) :=
  (releaseDraw_seg ix _ s).trans (leaveRefreshing_seg ix a _ _)

theorem finalAfterPoll_seg (ix : SegIx) (a : Nat) (s : State) : FollowsSeg ix s (finalAfterPoll ix a s) := by
  unfold finalAfterPoll
  split
  · split
    · split
      · exact giveUp_seg ix a _ _ s
      · exact FollowsSeg.refl ix s
    all_goals exact FollowsSeg.refl ix s
  · exact FollowsSeg.refl ix s

theorem completionOutcome_seg (ix : SegIx) (a : Nat) (heard : Heard) (s : State) :
    FollowsSeg ix s (completionOutcome ix a heard s) := by
  unfold completionOutcome
  split
  · split
    · split
      · exact (FollowsSeg.putRec s ix a _).trans ((raiseIf_follows _ _ _).toSeg ix)
      · exact completeRefresh_seg ix a _ _ _ s
    · exact FollowsSeg.refl ix s
  · exact FollowsSeg.refl ix s

theorem endCompletion_seg (ix : SegIx) (heard : Heard) (s : State) : FollowsSeg ix s (endCompletion ix heard s) := by
  unfold endCompletion
  split
  · exact (completionOutcome_seg ix _ heard s).trans ((finalAfterPoll_seg ix _ _).trans (endExchange_seg ix _))
  · exact FollowsSeg.refl ix s

theorem rollAdvance_seg (ix : SegIx) (s : State) : FollowsSeg ix s (rollAdvance ix s) := by
  unfold rollAdvance
  simp only
  split
  · exact (FollowsSeg.setSeg s ix _).trans (chooseNext_seg ix _)
  · exact FollowsSeg.setSeg s ix _

theorem endRollIdent_seg (ix : SegIx) (heard : Heard) (s : State) : FollowsSeg ix s (endRollIdent ix heard s) := by
  unfold endRollIdent
  split
  · split
    · split
      · exact (createRecord_seg ix _ _ _ _ s).trans (rollAdvance_seg ix _)
      · exact ((raise_follows _ _).toSeg ix).trans (FollowsSeg.setSeg _ ix _)
    · exact ((raise_follows _ _).toSeg ix).trans (FollowsSeg.setSeg _ ix _)
    · exact rollAdvance_seg ix s
  · exact FollowsSeg.refl ix s

theorem endKey_seg (ix : SegIx) (s : State) : FollowsSeg ix s (endKey ix s) := by
  unfold endKey
  split
  · exact (FollowsSeg.setSeg s ix _).trans (endExchange_seg ix _)
  · exact FollowsSeg.refl ix s

theorem askCollided_seg (ix : SegIx) (stem : Bits) (s : State) : FollowsSeg ix s (askCollided ix stem s) := by
  unfold askCollided
  split
  · exact FollowsSeg.setSeg s ix _
  · exact (raise_follows _ _).toSeg ix

theorem askAnswered_seg (ix : SegIx) (serial : Serial) (s : State) : FollowsSeg ix s (askAnswered ix serial s) := by
  unfold askAnswered
  split
  · exact endExchange_seg ix s
  · split
    · exact (endEnrolment_seg ix _ s).trans (endExchange_seg ix _)
    · exact FollowsSeg.setSeg s ix _

theorem endAsk_seg (ix : SegIx) (heard : Heard) (s : State) : FollowsSeg ix s (endAsk ix heard s) := by
  unfold endAsk
  split
  · split
    · exact endExchange_seg ix s
    · exact (askCollided_seg ix _ s).trans (endExchange_seg ix _)
    · split
      · exact askAnswered_seg ix _ s
      · exact (askCollided_seg ix _ s).trans (endExchange_seg ix _)
  · exact FollowsSeg.refl ix s

theorem enrolRecord_seg (ix : SegIx) (a : Nat) (serial : Serial) (c : PanelClass) (s : State) :
    FollowsSeg ix s (enrolRecord ix a serial c s) :=
  (createRecord_seg ix a serial c none s).trans ((FollowsSeg.setSeg _ ix _).trans (endExchange_seg ix _))

theorem displace_seg (p : Place) (s : State) : FollowsSeg p.seg (unpinned p.seg p.address s) (displace p s) :=
  (deleteRecord_seg p.seg p.address s).trans (markDrop_seg _ _ _)

end Sys2Proof.Machine
end

