-- ==== Sys2Proof/Laws/Bytes.lean ====
section
/-! SUPPORT. Words written in bytes and read back. -/

namespace Sys2Proof.Machine

theorem half_halfBytes (h : Half) : half (h.extractLsb' 8 8) (h.extractLsb' 0 8) = h := by
  apply BitVec.eq_of_getLsbD_eq
  intro i hi
  simp only [half, BitVec.getLsbD_append, BitVec.getLsbD_extractLsb']
  have hi' : i < 16 := hi
  interval_cases i <;> simp

theorem code4_codeBytes (c : ShortCode) :
    code4 (c.extractLsb' 24 8) (c.extractLsb' 16 8) (c.extractLsb' 8 8) (c.extractLsb' 0 8) = c := by
  apply BitVec.eq_of_getLsbD_eq
  intro i hi
  simp only [code4, BitVec.getLsbD_append, BitVec.getLsbD_extractLsb']
  have hi' : i < 32 := hi
  interval_cases i <;> simp

theorem serial6_serialBytes (n : Serial) :
    serial6 (n.extractLsb' 40 8) (n.extractLsb' 32 8) (n.extractLsb' 24 8) (n.extractLsb' 16 8) (n.extractLsb' 8 8)
      (n.extractLsb' 0 8) = n := by
  apply BitVec.eq_of_getLsbD_eq
  intro i hi
  simp only [serial6, BitVec.getLsbD_append, BitVec.getLsbD_extractLsb']
  have hi' : i < 48 := hi
  interval_cases i <;> simp

/-- A number below 65536 in two bytes, read back. -/
theorem half_two (n : Nat) (h : n < 65536) : (half (BitVec.ofNat 8 (n / 256)) (BitVec.ofNat 8 n)).toNat = n := by
  simp only [half, BitVec.toNat_append, BitVec.toNat_ofNat, Nat.shiftLeft_eq]
  rw [Nat.mul_comm, ← Nat.two_pow_add_eq_or_of_lt (Nat.mod_lt _ (by decide))]
  omega

end Sys2Proof.Machine
end

