-- ==== Sys2Proof/Laws/Image.lean ====
section
/-! SUPPORT. The plan image: its blocks, its header and the flash that holds them, written and read back. -/

namespace Sys2Proof.Machine

/-! ## Blocks -/

/-- A block read from the front of what was written. -/
theorem takeBlock_block (bs rest : List Byte) (h : bs.length < 65536) : takeBlock (block bs ++ rest) = some (bs, rest) := by
  have hn := half_two bs.length h
  simp [block, two, takeBlock, num2, hn]

/-- Six blocks written and read back. -/
theorem sixBlocks_blocks {b1 b2 b3 b4 b5 b6 : List Byte} (h1 : b1.length < 65536) (h2 : b2.length < 65536)
    (h3 : b3.length < 65536) (h4 : b4.length < 65536) (h5 : b5.length < 65536) (h6 : b6.length < 65536) :
    sixBlocks (block b1 ++ block b2 ++ block b3 ++ block b4 ++ block b5 ++ block b6) = some (b1, b2, b3, b4, b5, b6) := by
  have h := takeBlock_block b6 [] h6
  rw [List.append_nil] at h
  simp only [List.append_assoc, sixBlocks, takeBlock_block, h1, h2, h3, h4, h5, h]

/-! ## The flash -/

/-- Bytes held are read as they stand. -/
theorem Flash.read_held (f : Flash) (address n : Nat) (h : address + n ≤ f.bytes.length) :
    f.read address n = (f.bytes.drop address).take n := by
  have : n - min n (f.bytes.length - address) = 0 := by omega
  simp [Flash.read, this]

/-- A word in four bytes, most significant first. -/
theorem four_toNat (c : BitVec 32) : four c.toNat = codeBytes c := by
  have h : ∀ k, BitVec.ofNat 8 (c.toNat / 2 ^ k) = c.extractLsb' k 8 := by
    intro k
    rw [BitVec.extractLsb', Nat.shiftRight_eq_div_pow]
  have h0 : BitVec.ofNat 8 c.toNat = c.extractLsb' 0 8 := by simpa using h 0
  have h24 : BitVec.ofNat 8 (c.toNat / 2 ^ 16 / 2 ^ 8) = c.extractLsb' 24 8 := by
    rw [Nat.div_div_eq_div_mul, ← Nat.pow_add]
    exact h 24
  simp only [four, two, codeBytes, h0, List.cons_append, List.nil_append, show (65536 : Nat) = 2 ^ 16 from rfl,
    show (256 : Nat) = 2 ^ 8 from rfl, h24, h]

/-- A number below 2^32 in four bytes, read back. -/
theorem num4_four (n : Nat) (h : n < 4294967296) : ∃ a b c d, four n = [a, b, c, d] ∧ num4 a b c d = n := by
  have e := four_toNat (BitVec.ofNat 32 n)
  have hn : (BitVec.ofNat 32 n).toNat = n := by
    rw [BitVec.toNat_ofNat]
    omega
  rw [hn] at e
  refine ⟨_, _, _, _, e, ?_⟩
  rw [num4, code4_codeBytes, hn]

/-- A good header over a body: the load reads the body (R192, R193). -/
theorem readImage_header (revision : Nat) (body : List Byte) (hr : 1 ≤ revision) (hr' : revision ≤ 65535) (hb : body ≠ [])
    (hl : body.length ≤ 65520) :
    readImage { bytes := imageHeader revision body ++ body, beyond := none, torn := false }
      = (readBody body).map (fun i => (revision, i)) := by
  obtain ⟨a, b, c, d, h4, hn⟩ := num4_four body.length (by omega)
  have hc : four (crc32 body).toNat = codeBytes (crc32 body) := four_toNat _
  have hlen : (imageHeader revision body).length = 16 := by simp [imageHeader, marker, two, h4, hc, codeBytes]
  have hhead : Flash.read { bytes := imageHeader revision body ++ body, beyond := none, torn := false } 0 16
      = imageHeader revision body := by
    rw [Flash.read_held _ _ _ (by simp [hlen])]
    simp [hlen]
  have hbody : Flash.read { bytes := imageHeader revision body ++ body, beyond := none, torn := false } 16 body.length = body := by
    rw [Flash.read_held _ _ _ (by simp [hlen])]
    simp [hlen]
  have hrev := half_two revision (by omega)
  have hpos : body.length ≠ 0 := by simpa using hb
  have hfit : revision ≠ 0 ∧ body.length ≠ 0 ∧ body.length ≤ 65520 := ⟨by omega, hpos, hl⟩
  generalize ({ bytes := imageHeader revision body ++ body, beyond := none, torn := false } : Flash) = f at hhead hbody ⊢
  unfold readImage
  rw [hhead]
  simp only [imageHeader, marker, two, h4, hc, codeBytes, List.cons_append, List.nil_append, num2, hrev, hn, hbody, code4_codeBytes,
    true_and, if_pos hfit]
  rfl

end Sys2Proof.Machine
end

