-- ==== Sys2Proof/Laws/Queue.lean ====
section
/-! SUPPORT. A segment's records and queue under the evaluation of a need, and the ends of transfers and refreshes: what each
leaves in its own record and in the others. -/

namespace Sys2Proof.Machine

/-! ## Segments of a state -/

@[simp] theorem seg_raise (f : Flag) (s : State) (ix : SegIx) : (raise f s).seg ix = s.seg ix := rfl

@[simp] theorem seg_raiseIf (c : Bool) (f : Flag) (s : State) (ix : SegIx) : (raiseIf c f s).seg ix = s.seg ix := by
  unfold raiseIf
  split <;> rfl

@[simp] theorem seg_putRec_same (s : State) (ix : SegIx) (a : Nat) (r : Rec) :
    (s.putRec ix a r).seg ix = { s.seg ix with recs := Table.put (s.seg ix).recs a r } := seg_setSeg_same s ix _

@[simp] theorem rec_putRec_same (s : State) (ix : SegIx) (a : Nat) (r : Rec) : (s.putRec ix a r).rec? ix a = some r := by
  simp [State.rec?]

@[simp] theorem rec_putRec_other (s : State) (ix : SegIx) {a b : Nat} (r : Rec) (h : b ≠ a) :
    (s.putRec ix a r).rec? ix b = s.rec? ix b := by
  simp [State.rec?, h]

@[simp] theorem rec_raise (f : Flag) (s : State) (ix : SegIx) (a : Nat) : (raise f s).rec? ix a = s.rec? ix a := rfl

@[simp] theorem rec_raiseIf (c : Bool) (f : Flag) (s : State) (ix : SegIx) (a : Nat) :
    (raiseIf c f s).rec? ix a = s.rec? ix a := by simp [State.rec?]

/-! ## Flags -/

theorem flag_number_lt (f : Flag) : f.number < 16 := by cases f <;> decide

@[simp] theorem flagSet_raise (f : Flag) (s : State) : flagSet (raise f s) f = true := by
  have h : f.bit.getLsbD f.number = true := by cases f <;> decide
  simp [flagSet, raise, State.setAttention, h]

/-- A flag that was set is set after what follows. -/
theorem flagSet_of_grow {s t : State} (h : s.li.attention &&& t.li.attention = s.li.attention) {f : Flag} (hf : flagSet s f = true) :
    flagSet t f = true := by
  unfold flagSet at *
  have := congrArg (fun x => x.getLsbD f.number) h
  simp [hf] at this
  exact this

/-! ## The queue -/

theorem mem_enterQueue {e x : Entry} {q : List Entry} : e ∈ enterQueue x q ↔ e = x ∨ e ∈ q := by
  induction q with
  | nil => simp [enterQueue]
  | cons y q ih =>
    unfold enterQueue
    split
    · simp
    · simp only [List.mem_cons, ih]
      tauto

theorem mem_leaveQueue {e : Entry} {a : Nat} {q : List Entry} : e ∈ leaveQueue a q ↔ e ∈ q ∧ e.address ≠ a := by
  simp [leaveQueue]

/-- An entry of a record is out of the queue again with the record. -/
@[simp] theorem leaveQueue_enterQueue {e : Entry} {a : Nat} (h : e.address = a) (q : List Entry) :
    leaveQueue a (enterQueue e q) = leaveQueue a q := by
  unfold leaveQueue
  induction q with
  | nil => simp [enterQueue, h]
  | cons x q ih =>
    unfold enterQueue
    split
    · simp [List.filter_cons, h]
    · simp only [List.filter_cons, ih]

@[simp] theorem leaveQueue_leaveQueue (a : Nat) (q : List Entry) : leaveQueue a (leaveQueue a q) = leaveQueue a q := by
  simp [leaveQueue]

theorem entryOf_address {a : Nat} {q : List Entry} {e : Entry} (h : entryOf a q = some e) : e.address = a := by
  simpa using List.find?_some h

/-- Raising an entry moves no other. -/
@[simp] theorem leaveQueue_raiseEntry (a : Nat) (c : QueueClass) (q : List Entry) :
    leaveQueue a (raiseEntry a c q) = leaveQueue a q := by
  unfold raiseEntry
  split
  · rename_i e he
    have ha : e.address = a := entryOf_address he
    have h : ({ e with cls := higher e.cls c } : Entry).address = a := ha
    rw [leaveQueue_enterQueue h, leaveQueue_leaveQueue]
  · rfl

/-- A raised entry is in the queue with its class raised. -/
theorem mem_raiseEntry {a : Nat} {c : QueueClass} {q : List Entry} {e : Entry} (h : entryOf a q = some e) :
    { e with cls := higher e.cls c } ∈ raiseEntry a c q := by
  unfold raiseEntry
  rw [h]
  exact mem_enterQueue.2 (.inl rfl)

theorem higher_maint (c : QueueClass) : higher .maint c = c := by cases c <;> rfl

/-! ## The need evaluated -/

/-- No other record is touched. -/
theorem Seg.evaluate_other (g : Seg) {a b : Nat} (least : QueueClass) (h : b ≠ a) :
    Table.get (g.evaluate a least).recs b = Table.get g.recs b := by
  unfold Seg.evaluate
  split
  · rfl
  · split
    · split
      · simp [Seg.enqueue, h]
      · rfl
    · split
      · rfl
      · simp [Seg.setOnline, h]
    · rfl
    · rfl
    · rfl

theorem Seg.evaluate_reserved (g : Seg) (a : Nat) (least : QueueClass) : (g.evaluate a least).reserved = g.reserved := by
  unfold Seg.evaluate
  repeat' split
  all_goals rfl

theorem Seg.evaluate_pointer (g : Seg) (a : Nat) (least : QueueClass) : (g.evaluate a least).pointer = g.pointer := by
  unfold Seg.evaluate
  repeat' split
  all_goals rfl

/-- An ONLINE record that needs a refresh is QUEUED with an entry of its own. -/
theorem Seg.evaluate_online {g : Seg} {a : Nat} {r : Rec} (least : QueueClass) (h : Table.get g.recs a = some r)
    (hs : r.state = .online) (hn : r.needs = true) : g.evaluate a least = g.enqueue a r (higher least r.derived) := by
  unfold Seg.evaluate
  simp [h, hs, hn]

/-- A QUEUED record that needs a refresh keeps its entry, its class raised. -/
theorem Seg.evaluate_queued {g : Seg} {a : Nat} {r : Rec} (least : QueueClass) (h : Table.get g.recs a = some r)
    (hs : r.state = .queued) (hn : r.needs = true) :
    g.evaluate a least = { g with queue := raiseEntry a (higher least r.derived) g.queue } := by
  unfold Seg.evaluate
  simp [h, hs, hn]

/-- What evaluation leaves of an ONLINE or QUEUED record: QUEUED when it needs a refresh, else ONLINE. -/
theorem Seg.evaluate_idle {g : Seg} {a : Nat} {r : Rec} (least : QueueClass) (h : Table.get g.recs a = some r)
    (hs : r.state = .online ∨ r.state = .queued) :
    Table.get (g.evaluate a least).recs a = some { r with state := if r.needs then .queued else .online } := by
  unfold Seg.evaluate
  rcases hs with hs | hs
  · by_cases hn : r.needs = true
    · simp [h, hs, hn, Seg.enqueue]
    · cases r
      simp_all
  · by_cases hn : r.needs = true
    · cases r
      simp_all
    · simp [h, hs, hn, Seg.setOnline]

/-- Evaluation leaves a record in another state as it is. -/
theorem Seg.evaluate_flying {g : Seg} {a : Nat} {r : Rec} (least : QueueClass) (h : Table.get g.recs a = some r)
    (h1 : r.state ≠ .online) (h2 : r.state ≠ .queued) : g.evaluate a least = g := by
  unfold Seg.evaluate
  rw [h]
  cases hs : r.state <;> simp_all

@[simp] theorem seg_evaluate_same (ix : SegIx) (a : Nat) (s : State) : (evaluate ix a s).seg ix = (s.seg ix).evaluate a .maint :=
  seg_setSeg_same s ix _

/-! ## LOST, and the ends of transfers and refreshes -/

theorem loseRecord_lost (ix : SegIx) (a : Nat) (x : Rec) (s : State) : IsLost ix a x (loseRecord ix a x s) := by
  refine ⟨?_, fun e he => ?_, flagSet_raise _ _⟩
  · simp [loseRecord, State.rec?, Seg.setLost]
  · simp only [loseRecord, seg_raise, seg_setSeg_same, Seg.setLost] at he
    exact (mem_leaveQueue.1 he).2

/-- What stands beside the worked record: its segment seen without it. -/
theorem OnlyRecord.rec_other {ix : SegIx} {a : Nat} {s t : State} (h : OnlyRecord ix a s t) {b : Nat} (hb : b ≠ a) :
    t.rec? ix b = s.rec? ix b := by
  have := congrArg (fun g => Table.get g.recs b) h.beside
  simpa [Seg.beside, hb, State.rec?] using this

/-- The other records' queue entries stand. -/
theorem OnlyRecord.entry_other {ix : SegIx} {a : Nat} {s t : State} (h : OnlyRecord ix a s t) {e : Entry} (he : e.address ≠ a) :
    e ∈ (t.seg ix).queue ↔ e ∈ (s.seg ix).queue := by
  have := congrArg (fun g => e ∈ g.queue) h.beside
  simpa [Seg.beside, mem_leaveQueue, he] using this

theorem OnlyRecord.refl (ix : SegIx) (a : Nat) (s : State) : OnlyRecord ix a s s :=
  ⟨FollowsSeg.refl ix s, rfl, fun _ _ => rfl, rfl, rfl⟩

theorem OnlyRecord.trans {ix : SegIx} {a : Nat} {s t u : State} (h : OnlyRecord ix a s t) (h' : OnlyRecord ix a t u) :
    OnlyRecord ix a s u :=
  ⟨h.1.trans h'.1, h'.2.trans h.2, fun j hj => (h'.3 j hj).trans (h.3 j hj), h'.4.trans h.4, h'.5.trans h.5⟩

/-- A segment changed in nothing that stands beside the record. -/
theorem OnlyRecord.setSeg (ix : SegIx) (a : Nat) (s : State) (g : Seg) (h : g.beside a = (s.seg ix).beside a) :
    OnlyRecord ix a s (s.setSeg ix g) :=
  ⟨FollowsSeg.setSeg s ix g, by rw [seg_setSeg_same, h], fun _ hj => seg_setSeg_other s g hj, rfl, rfl⟩

theorem OnlyRecord.putRec (ix : SegIx) (a : Nat) (x : Rec) (s : State) : OnlyRecord ix a s (s.putRec ix a x) :=
  OnlyRecord.setSeg ix a s _ (by simp [Seg.beside])

theorem OnlyRecord.raise (ix : SegIx) (a : Nat) (f : Flag) (s : State) : OnlyRecord ix a s (raise f s) :=
  ⟨(raise_follows f s).toSeg ix, rfl, fun _ _ => rfl, rfl, rfl⟩

theorem OnlyRecord.raiseIf (ix : SegIx) (a : Nat) (c : Bool) (f : Flag) (s : State) : OnlyRecord ix a s (raiseIf c f s) := by
  unfold Machine.raiseIf
  split
  · exact OnlyRecord.raise ix a f s
  · exact OnlyRecord.refl ix a s

theorem Seg.evaluate_beside (g : Seg) (a : Nat) (least : QueueClass) : (g.evaluate a least).beside a = g.beside a := by
  unfold Seg.evaluate
  repeat' split
  all_goals simp [Seg.beside, Seg.enqueue, Seg.setOnline]

theorem OnlyRecord.evaluate (ix : SegIx) (a : Nat) (s : State) : OnlyRecord ix a s (evaluate ix a s) :=
  OnlyRecord.setSeg ix a s _ (Seg.evaluate_beside _ a _)

theorem loseRecord_only (ix : SegIx) (a : Nat) (x : Rec) (s : State) : OnlyRecord ix a s (loseRecord ix a x s) :=
  (OnlyRecord.setSeg ix a s _ (by simp [Seg.beside, Seg.setLost])).trans (OnlyRecord.raise ix a _ _)

/-- A record put in its segment ONLINE or QUEUED and its need evaluated. -/
theorem evaluate_judges (ix : SegIx) (a : Nat) {x : Rec} {s : State} (h : s.rec? ix a = some x)
    (hs : x.state = .online ∨ x.state = .queued) : NeedJudged ix a .maint x s (evaluate ix a s) := by
  have hget : Table.get (s.seg ix).recs a = some x := h
  have hrec : (evaluate ix a s).rec? ix a = some { x with state := if x.needs then .queued else .online } := by
    show Table.get _ a = _
    rw [seg_evaluate_same]
    exact Seg.evaluate_idle _ hget hs
  refine ⟨fun hn ho => ⟨by simpa [hn] using hrec, ?_, ?_⟩, fun hn hq => ⟨?_, ?_, fun e he => ?_⟩, fun hn => ⟨by simpa [hn] using hrec, ?_, fun hq e he => ?_⟩⟩
  · rw [seg_evaluate_same, Seg.evaluate_online _ hget ho hn]
    exact mem_enterQueue.2 (.inl rfl)
  · rw [seg_evaluate_same, Seg.evaluate_online _ hget ho hn]
    rfl
  · rw [hrec]
    cases x
    simp_all
  · rw [seg_evaluate_same, Seg.evaluate_queued _ hget hq hn]
  · rw [seg_evaluate_same, Seg.evaluate_queued _ hget hq hn]
    exact mem_raiseEntry he
  · rw [seg_evaluate_same]
    unfold Seg.evaluate
    rcases hs with hs | hs <;> simp [hget, hs, hn, Seg.setOnline]
  · rw [seg_evaluate_same] at he
    unfold Seg.evaluate at he
    simp only [hget, hq, hn, Seg.setOnline] at he
    exact (mem_leaveQueue.1 he).2

/-- The end of LOADING. -/
theorem leaveLoading_leaves (ix : SegIx) (a : Nat) (v : Transfer) (x : Rec) (s : State) :
    LeavesLoading ix a v x s (leaveLoading ix a v x s) := by
  unfold LeavesLoading
  have h0 : OnlyRecord ix a s (s.setSeg ix { s.seg ix with transfer := none }) := OnlyRecord.setSeg ix a s _ rfl
  unfold leaveLoading
  simp only [State.missLimit, setSeg_ps]
  split
  · rename_i hm
    refine ⟨h0.trans (loseRecord_only ix a x _), rfl, ?_, ?_, ?_, ?_, fun _ => loseRecord_lost ix a x _, fun h => ?_, fun h => ?_⟩
    all_goals first | omega | simp [loseRecord, Seg.setLost]
  · split
    · rename_i hm hn
      refine ⟨h0.trans (OnlyRecord.setSeg ix a _ _ (by simp [Seg.beside, Seg.requeue])), rfl, ?_, ?_, ?_, ?_,
        fun h => absurd h hm, fun _ _ => ⟨?_, ?_⟩, fun _ h => ?_⟩
      · simp [Seg.requeue]
      · simp [Seg.requeue]
      · simp [Seg.requeue]
      · simp [Seg.requeue]
      · simp [State.rec?, Seg.requeue]
      · simp only [seg_setSeg_same, Seg.requeue]
        exact mem_enterQueue.2 (.inl rfl)
      · simp [hn] at h
    · rename_i hm hn
      refine ⟨h0.trans (OnlyRecord.setSeg ix a _ _ (by simp [Seg.beside, Seg.setOnline])), rfl, ?_, ?_, ?_, ?_,
        fun h => absurd h hm, fun _ h => absurd h hn, fun _ _ => ⟨?_, fun e he => ?_⟩⟩
      · simp [Seg.setOnline]
      · simp [Seg.setOnline]
      · simp [Seg.setOnline]
      · simp [Seg.setOnline]
      · simp [State.rec?, Seg.setOnline]
      · simp only [seg_setSeg_same, Seg.setOnline] at he
        exact (mem_leaveQueue.1 he).2

theorem Seg.evaluate_transfer (g : Seg) (a : Nat) (least : QueueClass) : (g.evaluate a least).transfer = g.transfer := by
  unfold Seg.evaluate
  repeat' split
  all_goals rfl

/-- Pointer, transfer and reserved draw through the evaluation of a need. -/
theorem evaluate_flights (ix : SegIx) (a : Nat) (s : State) : FlightsKept ix s (evaluate ix a s) := by
  unfold FlightsKept
  rw [seg_evaluate_same]
  exact ⟨Seg.evaluate_pointer _ a _, Seg.evaluate_transfer _ a _, Seg.evaluate_reserved _ a _⟩

/-- A need judged from ONLINE is judged alike beside any state with the same sequence counter. -/
theorem NeedJudged.of_online {ix : SegIx} {a : Nat} {least : QueueClass} {x : Rec} {s u t : State} (h : NeedJudged ix a least x u t)
    (ho : x.state = .online) (hq : (u.seg ix).sequence = (s.seg ix).sequence) : NeedJudged ix a least x s t := by
  obtain ⟨h1, -, h3⟩ := h
  rw [hq] at h1 h3
  exact ⟨h1, fun _ hq => absurd (ho.symm.trans hq) (by simp), h3⟩

/-- The end of REFRESHING, the draw released. -/
theorem leaveRefreshing_leaves (ix : SegIx) (a draw : Nat) (x : Rec) (s u : State) (h0 : OnlyRecord ix a s u) (hfr : u.fr = s.fr)
    (hr : (u.seg ix).reserved = (s.seg ix).reserved - draw) (hq : (u.seg ix).sequence = (s.seg ix).sequence)
    (hp : (u.seg ix).pointer = (s.seg ix).pointer) (ht : (u.seg ix).transfer = (s.seg ix).transfer) :
    LeavesRefreshing ix a draw x s (leaveRefreshing ix a x u) := by
  unfold LeavesRefreshing leaveRefreshing
  simp only [State.missLimit, h0.follows.ps]
  split
  · rename_i hm
    refine ⟨h0.trans (loseRecord_only ix a x _), hfr, ?_, ?_, ?_, fun _ => ⟨loseRecord_lost ix a x _, ?_⟩, fun h => ?_⟩
    all_goals first | omega | simp [loseRecord, Seg.setLost, hr, hq, hp, ht]
  · rename_i hm
    have h1 : OnlyRecord ix a u (u.setSeg ix ((u.seg ix).setOnline a x)) :=
      OnlyRecord.setSeg ix a _ _ (by simp [Seg.beside, Seg.setOnline])
    have hget : (u.setSeg ix ((u.seg ix).setOnline a x)).rec? ix a = some { x with state := .online } := by
      simp [State.rec?, Seg.setOnline]
    obtain ⟨f1, f2, f3⟩ := evaluate_flights ix a (u.setSeg ix ((u.seg ix).setOnline a x))
    refine ⟨h0.trans (h1.trans (OnlyRecord.evaluate ix a _)), hfr, f3.trans ?_, f1.trans ?_, f2.trans ?_, fun h => absurd h hm,
      fun _ => (evaluate_judges ix a hget (.inl rfl)).of_online rfl ?_⟩
    all_goals simp [Seg.setOnline, hr, hq, hp, ht]

end Sys2Proof.Machine
end

