-- ==== Sys2Proof/Laws/Service.lean ====
section
/-! SUPPORT. A request in service: what its row answers, once and for every kind (R176–R182). -/

namespace Sys2Proof.Machine

/-! ## The row of a request -/

/-- A request row is that request reaching LI complete. -/
theorem exec_rowOf (tag : Byte) (r : Request) (s : State) :
    exec (rowOf tag r) s = whenUp (requestArrives tag (.request r)) s := by
  cases r <;> rfl

theorem whenUp_up {s : State} (h : s.resetPin = false) (f : State → State) : whenUp f s = .next (f s) := by
  simp [whenUp, h]

theorem whenUp_held {s : State} (h : s.resetPin = true) (f : State → State) : whenUp f s = .next s := by
  simp [whenUp, h]

theorem offer_free {s : State} (h : s.li.service = none) (held : Held) : offer held s = enterService held s := by
  simp [offer, h]

/-- Served at once when LI is free. -/
theorem exec_free {s : State} (h : Free s) (tag : Byte) (r : Request) :
    exec (rowOf tag r) s
      = .next ((answer (.request r) s).1.inService tag (.request r) (answer (.request r) s).2) := by
  rw [exec_rowOf, whenUp_up h.1, requestArrives, offer_free h.2]
  rfl

/-- Refused by a common check. -/
theorem exec_common {s : State} (h : Free s) (tag : Byte) {r : Request} {result : Result} {more : List Byte}
    (hc : commonRefusal r s = some (result, more)) :
    exec (rowOf tag r) s = .next (s.inService tag (.request r) (result.code :: more)) := by
  rw [exec_free h]
  simp [answer, hc]

/-- Refused by its owner. -/
theorem exec_refused {s : State} (h : Free s) (tag : Byte) {r : Request} {result : Result}
    (hc : commonRefusal r s = none) (ho : owner r s = .error result) : Refuses (rowOf tag r) s tag r result := by
  unfold Refuses
  rw [exec_free h]
  simp [answer, hc, ho, finish]

/-- Taken, not a plan edit. -/
theorem exec_taken {s u : State} (h : Free s) (tag : Byte) {r : Request} {items : List Byte}
    (hc : commonRefusal r s = none) (he : expectedRevision r = none) (ho : owner r s = .ok (u, items)) :
    exec (rowOf tag r) s = .next (u.inService tag (.request r) (0x00 :: items)) := by
  rw [exec_free h]
  simp [answer, hc, ho, finish, he, Result.code]

/-- Taken, a plan edit. -/
theorem exec_edit {s u : State} (h : Free s) (tag : Byte) {r : Request} {items : List Byte} {rev : Half}
    (hc : commonRefusal r s = none) (he : expectedRevision r = some rev) (ho : owner r s = .ok (u, items))
    (hps : u.ps.revision = s.ps.revision) :
    exec (rowOf tag r) s = .next ((commitEdit u).inService tag (.request r) (editReply s items)) := by
  rw [exec_free h]
  simp [answer, hc, ho, finish, he, editReply, commitEdit, hps]

/-! ## The common checks -/

/-- A request that is no plan edit passes them once the plan is not LOADING. -/
theorem commonRefusal_other {s : State} {r : Request} (hf : r.fits = true) (hp : s.ps.plan ≠ .loading)
    (he : expectedRevision r = none) : commonRefusal r s = none := by
  simp [commonRefusal, hf, hp, he]

theorem commonRefusal_of_serves {s : State} {r : Request} (h : Serves s r) : commonRefusal r s = none := by
  obtain ⟨_, hf, hl, he⟩ := h
  unfold commonRefusal
  simp only [hf, Bool.not_true, Bool.false_eq_true, if_false]
  split
  · rename_i hx
    exact absurd (hl hx.1) (by simp [hx.2])
  · cases hr : expectedRevision r with
    | none => rfl
    | some rev =>
      have := he rev hr
      simp [this.1, this.2]

/-! ## Follows through service and plan edits -/

/-- A plan edit counted on both sides. -/
theorem Follows.commitEdit {s t : State} (h : Follows s t) : Follows (commitEdit s) (commitEdit t) := by
  refine ⟨?_, h.grow, fun g => h.good g⟩
  have hk := h.kept
  have hps := h.ps
  unfold State.kept Machine.commitEdit at *
  simp only [State.mk.injEq, hps] at *
  exact ⟨hk.1, hk.2.1, hk.2.2.1, hk.2.2.2.1, hk.2.2.2.2.1, hk.2.2.2.2.2.1, hk.2.2.2.2.2.2.1, trivial,
    hk.2.2.2.2.2.2.2.2.1, hk.2.2.2.2.2.2.2.2.2.1, trivial, hk.2.2.2.2.2.2.2.2.2.2.2.1, trivial⟩

/-- A request that is no plan edit, whose owner answers what follows `base`. -/
theorem completes_of_owner {s base u : State} (h : Free s) (tag : Byte) {r : Request} {items : List Byte}
    (hc : commonRefusal r s = none) (he : expectedRevision r = none) (ho : owner r s = .ok (u, items))
    (hu : Follows base u) : Completes (rowOf tag r) s base tag r (0x00 :: items) :=
  ⟨_, exec_taken h tag hc he ho, hu.inService tag _ _⟩

/-- A plan edit whose owner answers what follows `base`. -/
theorem completes_of_edit {s base u : State} (h : Free s) (tag : Byte) {r : Request} {items : List Byte} {rev : Half}
    (hc : commonRefusal r s = none) (he : expectedRevision r = some rev) (ho : owner r s = .ok (u, items))
    (hu : Follows base u) (hps : base.ps.revision = s.ps.revision) :
    Completes (rowOf tag r) s (Machine.commitEdit base) tag r (editReply s items) :=
  ⟨_, exec_edit h tag hc he ho (by rw [hu.ps, hps]), hu.commitEdit.inService tag _ _⟩

end Sys2Proof.Machine
end

