-- ==== Sys2Proof/Laws/Replies.lean ====
section
/-! SUPPORT. What the readers of bus replies answer, and what the lists in reply bodies hold (R19, R49, R108). -/

namespace Sys2Proof.Machine

/-! ## Readers of bus replies (R108) -/

theorem Answer.ofReply_silent {α : Type} (late : Nat → Byte) (read : Byte → (Nat → Byte) → α) (r : BusReply) :
    Answer.ofReply late read r = .silent ↔ r = .silent := by
  cases r <;> simp [Answer.ofReply]

theorem Answer.ofReply_garbled {α : Type} (late : Nat → Byte) (read : Byte → (Nat → Byte) → α) (r : BusReply) :
    Answer.ofReply late read r = .garbled ↔ r = .garbled := by
  cases r <;> simp [Answer.ofReply]

/-- A VALID reply's answer is read from its body, whatever the body's length. -/
theorem Answer.ofReply_valid {α : Type} (late : Nat → Byte) (read : Byte → (Nat → Byte) → α) (r : BusReply) (a : α) :
    Answer.ofReply late read r = .valid a ↔ ∃ k body, r = .valid k body ∧ read k (fun i => body.getD i (late i)) = a := by
  cases r <;> simp [Answer.ofReply]

/-- A VALID reply's kind is one of those that answer. -/
theorem readReply_kind {address : Byte} {kinds : List Byte} {h : Heard} {k : Byte} {body : List Byte}
    (hv : readReply address kinds h = .valid k body) : k ∈ kinds := by
  unfold readReply at hv
  split at hv
  · cases hv
  · cases hv
  · split at hv
    · simp only at hv
      split at hv
      · rename_i hc
        obtain ⟨-, -, -, hk, -⟩ := hc
        cases hv
        exact List.contains_iff_mem.1 hk
      · cases hv
    · cases hv

/-- What SHOW's answer says is which of its two kinds came back. -/
theorem readShow_valid (late : Nat → Byte) (address : Nat) (h : Heard) (ok : Bool) :
    readShow late address h = .valid ok
      ↔ ∃ body, readReply (byte address) [0x83, 0x93] h = .valid (if ok then 0x83 else 0x93) body := by
  rw [readShow, Answer.ofReply_valid]
  constructor
  · rintro ⟨k, body, hr, rfl⟩
    have hk := readReply_kind hr
    rcases List.mem_cons.1 hk with rfl | hk
    · exact ⟨body, hr⟩
    · obtain rfl := List.mem_singleton.1 hk
      exact ⟨body, hr⟩
  · rintro ⟨body, hr⟩
    exact ⟨_, body, hr, by cases ok <;> rfl⟩

/-! ## Whole entries (R19) -/

/-- The entries sent are the first ones, as many as fit. -/
theorem wholeEntries_spec (room : Nat) (l : List (List Byte)) :
    ∃ rest, l = wholeEntries room l ++ rest ∧ (wholeEntries room l).flatten.length ≤ room
      ∧ ∀ e r, rest = e :: r → room < (wholeEntries room l).flatten.length + e.length := by
  induction l generalizing room with
  | nil => exact ⟨[], by simp [wholeEntries]⟩
  | cons a l ih =>
    unfold wholeEntries
    by_cases h : a.length ≤ room
    · obtain ⟨rest, h1, h2, h3⟩ := ih (room - a.length)
      refine ⟨rest, ?_, ?_, ?_⟩
      · rw [if_pos h]
        conv_lhs => rw [h1]
        rfl
      · rw [if_pos h]
        simp only [List.flatten_cons, List.length_append]
        omega
      · intro e r hr
        rw [if_pos h]
        simp only [List.flatten_cons, List.length_append]
        have := h3 e r hr
        omega
    · refine ⟨a :: l, ?_, ?_, ?_⟩ <;> rw [if_neg h] <;> simp
      omega

/-! ## Lists put in order (R49) -/

theorem insertBy_perm {α : Type} (before : α → α → Bool) (x : α) (l : List α) : (insertBy before x l).Perm (x :: l) := by
  induction l with
  | nil => exact .refl _
  | cons y l ih =>
    unfold insertBy
    split
    · exact .refl _
    · exact (ih.cons y).trans (.swap x y l)

theorem sortBy_perm {α : Type} (before : α → α → Bool) (l : List α) : (sortBy before l).Perm l := by
  induction l with
  | nil => exact .refl _
  | cons y l ih => exact (insertBy_perm before y _).trans (ih.cons y)

/-- A list put in order is in order, for a total and transitive order. -/
theorem sortBy_pairwise {α : Type} {before : α → α → Bool} {R : α → α → Prop} (yes : ∀ x y, before x y = true → R x y)
    (no : ∀ x y, before x y = false → R y x) (trans : ∀ x y z, R x y → R y z → R x z) (l : List α) :
    (sortBy before l).Pairwise R := by
  have insert : ∀ x (l : List α), l.Pairwise R → (insertBy before x l).Pairwise R := by
    intro x l
    induction l with
    | nil => simp [insertBy]
    | cons y l ih =>
      intro h
      obtain ⟨h1, h2⟩ := List.pairwise_cons.1 h
      unfold insertBy
      split
      · rename_i hb
        refine List.pairwise_cons.2 ⟨fun z hz => ?_, h⟩
        rcases List.mem_cons.1 hz with rfl | hz
        · exact yes _ _ hb
        · exact trans _ _ _ (yes _ _ hb) (h1 z hz)
      · rename_i hb
        refine List.pairwise_cons.2 ⟨fun z hz => ?_, ih h2⟩
        rcases List.mem_cons.1 ((insertBy_perm _ _ _).mem_iff.1 hz) with rfl | hz
        · exact no _ _ (by simpa using hb)
        · exact h1 z hz
  induction l with
  | nil => exact .nil
  | cons y l ih => exact insert y _ ih

/-- The listing is in order of day, start, lowest booked section and number. -/
theorem sortBy_listed (l : List (Nat × Session)) : (sortBy listedBefore l).Pairwise (fun x y =>
    x.2.day < y.2.day ∨ (x.2.day = y.2.day ∧ (x.2.start < y.2.start ∨ (x.2.start = y.2.start
      ∧ (x.2.lowest < y.2.lowest ∨ (x.2.lowest = y.2.lowest ∧ x.1 ≤ y.1)))))) := by
  refine sortBy_pairwise (fun x y h => ?_) (fun x y h => ?_) (fun x y z h h' => ?_) l
  · unfold listedBefore at h
    repeat' split at h
    all_goals (simp only [decide_eq_true_eq] at h; omega)
  · unfold listedBefore at h
    repeat' split at h
    all_goals (simp only [decide_eq_false_iff_not] at h; omega)
  · omega

end Sys2Proof.Machine
end

