-- ==== Sys2Proof/Tests/Slice0.lean ====
section
/-! SUPPORT. Tests: the well-formedness smoke, small tests of the rows from the manual's worked examples, and for every
statement a concrete state and operands that meet its hypotheses. -/

namespace Sys2Proof.Tests

open Machine

set_option Elab.async false

/-! ## Helpers -/

/-- The state a command answers. -/
def after (c : Instr) (s : State) : State :=
  match exec c s with
  | .next t => t
  | .fault _ => s
  | .refused _ => s

/-- The reply body a command gives. -/
def reply (c : Instr) (s : State) : List Byte := ((after c s).li.service.map (·.reply)).getD []

/-- The state once a command's reply has gone. -/
def served (c : Instr) (s : State) : State := after .replySent (after c s)

/-- The text of a string as bytes. -/
def ascii (w : String) : List Byte := w.toList.map (fun c => byte c.toNat)

/-- READY at revision 41, nothing else placed. -/
def up : State := { State.reset with ps := { State.reset.ps with plan := .ready, revision := 41 } }

/-- LI is free and the plan is not LOADING. -/
def ready (s : State) : Bool := !s.resetPin && s.li.service.isNone && s.ps.plan ≠ .loading

/-- LI is free and the common checks pass. -/
def serves (s : State) (r : Request) : Bool :=
  ready s && r.fits && (expectedRevision r).all (fun rev => s.ps.plan ≠ .saving && rev.toNat = s.ps.revision)

theorem ready_iff {s : State} (h : ready s = true) : Free s ∧ s.ps.plan ≠ .loading := by
  simp [ready] at h
  exact ⟨⟨h.1.1, h.1.2⟩, h.2⟩

theorem serves_iff {s : State} {r : Request} (h : serves s r = true) : Serves s r := by
  simp only [serves, Bool.and_eq_true] at h
  obtain ⟨hf, hp⟩ := ready_iff h.1.1
  refine ⟨hf, h.1.2, fun e => absurd e hp, fun rev hr => ?_⟩
  have := h.2
  simp [hr] at this
  exact this

/-- The records of a state meet R114. -/
def recordsOk (s : State) : Bool :=
  allSegs.all (fun ix => Table.rising (s.seg ix).recs)
    && s.allRecs.all (fun p => s.allRecs.all (fun q =>
        p.rec_.binding.isNone || p.rec_.binding ≠ q.rec_.binding || (p.seg = q.seg && p.address = q.address)))

theorem mem_of_get {α : Type} {t : Table α} {n : Nat} {x : α} (h : Table.get t n = some x) : (n, x) ∈ t := by
  induction t with
  | nil => simp [Table.get] at h
  | cons e t ih =>
    obtain ⟨k, v⟩ := e
    rw [Table.get_cons] at h
    split at h
    · rename_i hk
      simp_all
    · exact List.mem_cons_of_mem _ (ih h)

theorem recordsOk_iff {s : State} (h : recordsOk s = true) : RecordsGood s := by
  simp only [recordsOk, Bool.and_eq_true, List.all_eq_true] at h
  refine ⟨fun ix => h.1 ix (by cases ix <;> decide), fun ix a r jx b q n hr hq hb hc => ?_⟩
  have mem (kx : SegIx) (c : Nat) (x : Rec) (hx : s.rec? kx c = some x) : (⟨kx, c, x⟩ : Place) ∈ s.allRecs := by
    unfold State.allRecs
    refine List.mem_flatMap.2 ⟨kx, by cases kx <;> decide, List.mem_map.2 ⟨(c, x), mem_of_get hx, rfl⟩⟩
  have := h.2 _ (mem ix a r hr) _ (mem jx b q hq)
  simp [hb, hc] at this
  exact this

/-- Every table of a state is in order. -/
def tablesOk (s : State) : Bool :=
  Table.rising s.lu.sections && Table.rising s.lu.walls && Table.rising s.lu.combos && Table.rising s.sessions
    && Table.rising s.nu.notices && Table.rising s.nu.pins && Table.rising s.ps.panels && Table.rising s.fr.faces
    && Table.rising s.fr.pages

theorem tablesOk_iff {s : State} (h : tablesOk s = true) : TablesGood s := by
  simp only [tablesOk, Bool.and_eq_true] at h
  obtain ⟨⟨⟨⟨⟨⟨⟨⟨a, b⟩, c⟩, d⟩, e⟩, f⟩, g⟩, i⟩, j⟩ := h
  exact ⟨a, b, c, d, e, f, g, i, j⟩

/-! ## Well-formedness: each check refuses an ill-formed command -/

theorem test_wf_combination_count : (Instr.defineCombination 0 0 0 ⟨0, 0, 0⟩ (List.replicate 256 0)).wf = false
    ∧ (Instr.defineCombination 0 0 0 ⟨0, 0, 0⟩ (List.replicate 255 0)).wf = true := by decide +kernel

theorem test_wf_session_count :
    (Instr.storeSession 0 ⟨1, 0, 0, 1, 0, 0, 0, ⟨0, 0, 0⟩, ⟨0, 0, 0⟩, List.replicate 256 0⟩).wf = false
    ∧ (Instr.storeSession 0 ⟨1, 0, 0, 1, 0, 0, 0, ⟨0, 0, 0⟩, ⟨0, 0, 0⟩, List.replicate 255 0⟩).wf = true := by decide +kernel

theorem test_wf_text_length : (Instr.putText 0 0 0 0 []).wf = false
    ∧ (Instr.putText 0 0 0 0 (List.replicate 241 1)).wf = false
    ∧ (Instr.putText 0 0 0 0 (List.replicate 240 1)).wf = true := by decide +kernel

theorem test_wf_unknown_kind : (Instr.unknownKind 0 0x01 []).wf = false
    ∧ (Instr.unknownKind 0 0x08 (List.replicate 1025 0)).wf = false
    ∧ (Instr.unknownKind 0 0x08 (List.replicate 1024 0)).wf = true := by decide +kernel

theorem test_wf_frame_bytes : (Instr.hostFrameReceived []).wf = false
    ∧ (Instr.hostFrameReceived (List.replicate 1032 0)).wf = false
    ∧ (Instr.hostFrameReceived (List.replicate 1031 0)).wf = true := by decide +kernel

theorem test_wf_heard : (Instr.roundRobinPoll .sc0 (.bytes [] false)).wf = false
    ∧ (Instr.returnProbe .sc0 (.bytes [] true)).wf = false ∧ (Instr.loadExchange .sc0 (.bytes [] false)).wf = false
    ∧ (Instr.showExchange .sc0 (.bytes [] false)).wf = false ∧ (Instr.completionPoll .sc0 (.bytes [] false)).wf = false
    ∧ (Instr.rollCallIdent .sc0 (.bytes [] false)).wf = false ∧ (Instr.askExchange .sc0 (.bytes [] false)).wf = false
    ∧ (Instr.giveExchange .sc0 (.bytes [] false)).wf = false ∧ (Instr.giveExchange .sc0 (.bytes [0] false)).wf = true := by
  decide +kernel

theorem test_wf_address : (Instr.completionPollDue .sc0 0).wf = false ∧ (Instr.completionPollDue .sc0 97).wf = false
    ∧ (Instr.finalDeadline .sc0 0).wf = false ∧ (Instr.finalDeadline .sc0 97).wf = false
    ∧ (Instr.finalDeadline .sc0 96).wf = true := by decide

theorem test_wf_start_byte : (Instr.frameStartByte 0xA4).wf = false ∧ (Instr.frameStartByte 0xA5).wf = true := by decide

/-- No row of the table gives bits. -/
theorem test_no_word_spells_a_command (nbits w : Nat) : decodeTableWord nbits w = none := rfl

/-! ## Checksums and frames (R207, spec 12) -/

theorem test_digest_door_idle : fletcher16 [0x02, 0x01, 0x03, 0x41, 0x31, 0x32] = 0x75AA := by decide +kernel
theorem test_digest_blank : fletcher16 [0x01] = 0x0101 := by decide +kernel
theorem test_key_seeds : allSegs.map keySeed = [0x5A3C, 0x5B3D, 0x583E, 0x593F] := by decide +kernel

/-- CRC-16 over a frame followed by its own two bytes leaves 0. -/
theorem test_crc16_closes : crc16 ([0x00, 0x00, 0x02, 0x11] ++ halfBytes (crc16 [0x00, 0x00, 0x02, 0x11])) = 0 := by decide +kernel

/-- Six bytes of a stem: its bits first, the rest 0 (R139). -/
theorem test_stem_bytes : stemBytes [false, true, true] = [0x60, 0, 0, 0, 0, 0] ∧ stemOf [false, true, true] 0x600000000000#48 = true
    ∧ stemOf [true] 0x600000000000#48 = false := by decide +kernel

/-! ## LU: Hall B (spec 01) -/

def b1 : TextRef := ⟨3, 0, 2⟩
def b2 : TextRef := ⟨3, 2, 2⟩
def b3 : TextRef := ⟨3, 4, 2⟩
def hallName : TextRef := ⟨3, 6, 6⟩

/-- A wall by pair, filtered state, candidate and run count. -/
def wallAs (a b : Nat) (filtered : Filtered) (candidate : Reading) (run : Nat) : Wall :=
  { a, b, forced := .free, last := candidate, candidate, run, filtered }

def hallLayout (w10 w11 : Wall) : Layout :=
  let lu : Layout :=
    { sections := [(4, ⟨b1, 0x48422D31, false⟩), (5, ⟨b2, 0x48422D32, false⟩), (6, ⟨b3, 0x48422D33, false⟩)]
      walls := [(10, w10), (11, w11)], combos := [(3, ⟨[4, 5, 6], hallName⟩)], spaces := [] }
  lu.derived

/-- Hall B with both walls deployed. -/
def hall : State := { up with lu := hallLayout (wallAs 4 5 .deployed .deployed 20) (wallAs 5 6 .deployed .deployed 20) }

/-- Wall 10 with seven STOWED samples, wall 11 at rest. -/
def folding : State := { up with lu := hallLayout (wallAs 4 5 .deployed .stowed 7) (wallAs 5 6 .deployed .deployed 20) }

/-- Both walls stowed. -/
def joined : State := { up with lu := hallLayout (wallAs 4 5 .stowed .stowed 20) (wallAs 5 6 .stowed .stowed 20) }

theorem test_spaces_apart : hall.lu.spaces.map (fun p => (p.sections, p.more, p.source))
    = [([4], 0, .anchor 4), ([5], 0, .anchor 5), ([6], 0, .anchor 6)] := by decide +kernel

theorem test_spaces_joined : joined.lu.spaces = [{ sections := [4, 5, 6], name := hallName, source := .combo 3, more := 0, closed := false }] := by
  decide +kernel

/-- Sample 48 of the worked example: position 10 stowed, position 11 deployed. -/
theorem test_wall_scan_settles :
    let t := after (.wallScan (1#96 <<< 20 ||| 1#96 <<< 23)) folding
    (Table.get t.lu.walls 10).map (fun w => (w.run, w.filtered)) = some (8, .stowed) ∧ flagSet t .wall = true
      ∧ t.lu.spaces.map (fun p => (p.sections, p.name, p.more)) = [([4, 5], b1, 1), ([6], b3, 0)] := by decide +kernel

/-- A bounce starts a fresh run; the scan is stopped while LOADING. -/
theorem test_wall_scan_bounce_and_load :
    (Table.get (after (.wallScan 0) folding).lu.walls 10).map (fun w => (w.candidate, w.run, w.filtered)) = some (.travel, 1, .deployed)
      ∧ after (.wallScan 0) State.reset = State.reset := by decide +kernel

/-- Forcing wall 11 deployed splits the hall. -/
theorem test_force_wall :
    reply (.forceWall 1 11 2) joined = [0x00, 2]
      ∧ (after (.forceWall 1 11 2) joined).lu.spaces.map (·.sections) = [[4, 5], [6]]
      ∧ reply (.forceWall 1 11 3) joined = [0x03] := by decide +kernel

theorem test_close_section :
    (after (.closeSection 1 6) hall).lu.spaces.map (·.closed) = [false, false, true]
      ∧ (after (.closeSection 1 6) joined).lu.spaces.map (·.closed) = [false]
      ∧ (after (.openSection 1 6) (served (.closeSection 1 6) hall)).lu = hall.lu := by decide +kernel

theorem test_define_section :
    reply (.defineSection 1 41 30 b1 0x41424344) hall = [0x00, 0, 42]
      ∧ (after (.defineSection 1 41 30 b1 0x41424344) hall).lu.spaces.map (·.sections) = [[4], [5], [6], [30]]
      ∧ reply (.defineSection 1 41 96 b1 0) hall = [0x03] ∧ reply (.defineSection 1 40 30 b1 0) hall = [0x04, 0, 41] := by
  decide +kernel

theorem test_remove_section :
    reply (.removeSection 1 41 5) hall = [0x08] ∧ reply (.removeSection 1 41 7) hall = [0x05]
      ∧ reply (.removeSection 1 41 96) hall = [0x03] := by decide +kernel

theorem test_define_wall :
    reply (.defineWall 1 41 12 5 4) hall = [0x07] ∧ reply (.defineWall 1 41 12 4 99) hall = [0x03]
      ∧ reply (.defineWall 1 41 12 4 7) hall = [0x05] ∧ reply (.defineWall 1 41 12 6 4) hall = [0x00, 0, 42]
      ∧ (Table.get (after (.defineWall 1 41 12 6 4) hall).lu.walls 12).map (fun w => (w.a, w.b, w.filtered)) = some (4, 6, .unknown) := by
  decide +kernel

theorem test_remove_wall :
    (after (.removeWall 1 41 11) joined).lu.spaces.map (·.sections) = [[4, 5], [6]]
      ∧ reply (.removeWall 1 41 12) hall = [0x05] := by decide +kernel

theorem test_combinations :
    reply (.defineCombination 1 41 4 b1 [6, 4, 5]) hall = [0x07] ∧ reply (.defineCombination 1 41 3 b1 [6, 4, 5]) hall = [0x00, 0, 42]
      ∧ reply (.defineCombination 1 41 4 b1 [5, 5]) hall = [0x03]
      ∧ (after (.removeCombination 1 41 3) joined).lu.spaces.map (fun p => (p.name, p.more)) = [(b1, 2)] := by decide +kernel

theorem test_read_walls : reply (.readWalls 1) folding = [0x00, 2, 10, 4, 5, 1, 2, 0, 2, 11, 5, 6, 2, 2, 0, 2] := by decide +kernel

theorem test_read_spaces : reply (.readSpaces 1 5) joined = [0x00, 1, 0]
    ∧ reply (.readSpaces 1 6) hall = [0x00, 3, 1, 6, 0, 0, 6, 3, 4, 2, 1, 6, 0x48, 0x42, 0x2D, 0x33, 0] := by decide +kernel

/-! ## EC (spec 02) -/

/-- The clock RUNNING at a time. -/
def timed (s : State) (day minute second : Nat) : State := { s with clock := { mode := .running, day, minute, second } }

theorem test_tick_rolls_over :
    let t := after .secondTick (timed up 3 1439 59)
    t.clock = { mode := .running, day := 4, minute := 0, second := 0 } ∧ flagSet t .clock = true
      ∧ (after .secondTick (timed up 3 1439 58)).clock.second = 59 := by decide +kernel

theorem test_clock_saturates :
    let t := after .secondTick (timed up 15 1439 59)
    t.clock = { mode := .expired, day := 15, minute := 1439, second := 59 } ∧ flagSet t .clock = true
      ∧ after .clockExpire (timed up 15 1439 59) = t ∧ (after .secondTick t).clock = t.clock := by decide +kernel

theorem test_adjust_forward_to_the_quiet_minute :
    reply (.adjustClock 1 20) (timed up 4 239 45) = [0x00, 20, 1, 4, 0, 240, 5] := by decide +kernel

theorem test_adjust_back :
    reply (.adjustClock 1 (BitVec.ofInt 8 (-20))) (timed up 5 0 10) = [0x00, 0xEC, 1, 4, 0x05, 0x9F, 50]
      ∧ reply (.adjustClock 1 (BitVec.ofInt 8 (-30))) (timed up 0 0 10) = [0x00, 0xF6, 1, 0, 0, 0, 0] := by decide +kernel

theorem test_set_and_read_clock :
    reply (.readClock 2) (served (.setClock 1 15 1439 57) up) = [0x00, 1, 15, 0x05, 0x9F, 57]
      ∧ reply (.setClock 1 16 0 0) up = [0x03] ∧ reply (.adjustClock 1 5) up = [0x0A] := by decide +kernel

theorem test_hold_runs_out :
    let s : State := { up with nu := { up.nu with held := true, timer := 1 } }
    (after .secondTick s).nu.held = false ∧ flagSet (after .holdTimeout s) .hold = true
      ∧ reply (.releasePublish 1) { up with nu := { up.nu with held := true, timer := 90 } } = [0x00, 1, 0, 90]
      ∧ (after (.holdPublish 1) up).nu = { up.nu with held := true, timer := 120 } := by decide +kernel

/-! ## ST: a morning in section 4 (spec 03) -/

/-- A session record with what ST holds left to be worked. -/
def sessionOf (start stop : Nat) (sections : List Nat) (lead : Option Nat) : Session :=
  { day := 2, start, stop, sections, title := ⟨20, 0, 7⟩, speaker := none, lead, track := 0, withheld := false
    cancelled := false, extension := 0, earlyEnd := none, warned := false, phase := .future, home := 0, placed := false }

/-- Hall B at a minute of day 2 with the three sessions of the worked example, judged. -/
def morning (minute : Nat) : State :=
  reevaluateSessions { timed hall 2 minute 0 with
    sessions := [(101, sessionOf 540 600 [4] none), (102, sessionOf 630 690 [4] (some 10)), (201, sessionOf 840 960 [4, 5, 6] none)] }

def phaseIn (s : State) (n : Nat) : Option Phase := (Table.get s.sessions n).map (·.phase)

theorem test_phases_of_the_morning :
    [480, 525, 540, 620].map (fun m => (phaseIn (morning m) 101, phaseIn (morning m) 102))
      = [(some .upcoming, some .upcoming), (some .doors, some .upcoming), (some .live, some .upcoming), (some .done, some .doors)] := by
  decide +kernel

/-- 09:50 and 10:12 of the worked example. -/
theorem test_extend_and_end :
    reply (.extendSession 1 101 45) (morning 590) = [0x00, 30, 0x02, 0x76]
      ∧ (let s : State := { served (.extendSession 1 101 45) (morning 590) with clock := { mode := .running, day := 2, minute := 612, second := 0 } }
         phaseIn (reevaluateSessions s) 101 = some .overrun
         ∧ reply (.endSession 1 101) (reevaluateSessions s) = [0x00, 0x02, 0x64]
         ∧ phaseIn (after (.endSession 1 101) (reevaluateSessions s)) 101 = some .done
         ∧ reply (.extendSession 1 101 5) (served (.endSession 1 101) (reevaluateSessions s)) = [0x0B]) := by decide +kernel

/-- 101 ended in its start minute; then a door lead of 60. An order stands on the tape, which a recomputation takes off. -/
def endedAtStart : State :=
  { served (.setOption 1 2 ⟨0, 60, 0⟩) (served (.endSession 1 101) (morning 540)) with orders := [5] }

/-- END again in the start minute: the same reply, and no session change, so FR is not told and nothing moves (R37). -/
theorem test_end_again_in_the_start_minute :
    reply (.endSession 1 101) endedAtStart = [0x00, 0x02, 0x1D]
      ∧ (after (.endSession 1 101) endedAtStart).sessions = endedAtStart.sessions
      ∧ (after (.endSession 1 101) endedAtStart).orders = [5] ∧ (after (.endSession 1 101) { morning 540 with orders := [5] }).orders = []
      ∧ (Table.get endedAtStart.sessions 101).map (fun x => (x.phase, x.earlyEnd)) = some (.live, some 541) := by decide +kernel

/-- SessionsAreExtendedAndEnded: the premise that the record is current. -/
theorem test_meets_SessionsAreExtendedAndEnded_again : AllCurrent endedAtStart ∧ ready endedAtStart = true := by
  unfold AllCurrent Current
  decide +kernel

def spec104 (start : Half) : StoreSpec := ⟨104, 2, start, 650, 0, 0, 0, ⟨20, 0, 7⟩, ⟨0, 0, 0⟩, [4]⟩

/-- 09:52, 10:25 to 10:27 of the worked example, with 102 alone in the way. -/
theorem test_store_cancel_restore :
    reply (.storeSession 1 (spec104 620)) (morning 592) = [0x07]
      ∧ (let s := served (.cancelSession 1 102) (morning 625)
         phaseIn s 102 = some .cancelled ∧ reply (.storeSession 1 (spec104 630)) s = [0x00]
         ∧ reply (.restoreSession 1 102) (served (.storeSession 1 (spec104 630)) s) = [0x07]
         ∧ reply (.listSessions 1 1 2) (served (.storeSession 1 (spec104 630)) s) = [0x00, 0, 4, 2, 0, 102, 0, 104]) := by decide +kernel

theorem test_drop_session :
    reply (.dropSession 1 101) (morning 480) = [0x00] ∧ reply (.dropSession 1 103) (morning 480) = [0x05]
      ∧ reply (.dropSession 1 0) (morning 480) = [0x03] := by decide +kernel

/-- 13:45: the doors of 201 open while the hall is split. -/
theorem test_layout_warning :
    (Table.get (morning 825).sessions 201).map (fun x => (x.phase, x.placed, x.warned)) = some (.doors, false, true)
      ∧ flagSet (morning 825) .layout = true ∧ flagSet (morning 824) .layout = false := by decide +kernel

theorem test_purge_at_the_day_turnover :
    (after .minuteTurnover { morning 620 with clock := { mode := .running, day := 2, minute := 1439, second := 59 } }).sessions = [] := by
  decide +kernel

/-! ## TP (spec 04) -/

/-- Page 20 of the worked example. -/
def page20 : State := { up with text := ((up.text.writeAll 5120 (ascii "Keynote")).writeAll 5128 (ascii "Panel A")).writeAll 5370 (ascii "Hall C") }

theorem test_text_references :
    [(0, 7), (0, 40), (8, 255), (3, 2), (7, 20), (250, 6), (250, 12), (253, 255), (255, 0)].map
        (fun (e : Byte × Byte) => readRef page20.text ⟨20, e.1, e.2⟩)
      = [⟨ascii "Keynote", false⟩, ⟨ascii "Keynote", false⟩, ⟨ascii "Panel A", false⟩, ⟨ascii "no", false⟩, ⟨[], false⟩,
          ⟨ascii "Hall C", false⟩, ⟨ascii "Hall C", true⟩, ⟨ascii "l C", true⟩, ⟨[], false⟩] := by decide +kernel

theorem test_put_text_clamps :
    reply (.putText 1 0 20 250 (ascii "Hall C foyer")) up = [0x00, 6]
      ∧ (after (.putText 1 0 20 250 (ascii "Hall C foyer")) up).text = up.text.writeAll 5370 (ascii "Hall C")
      ∧ reply (.putText 1 41 3 32 (ascii "Foyer East")) up = [0x00, 10, 0, 42] ∧ reply (.putText 1 40 3 32 (ascii "F")) up = [0x04, 0, 41] := by
  decide +kernel

theorem test_read_and_clear_page :
    reply (.readText 1 20 248 16) page20 = [0x00, 8, 0, 0] ++ ascii "Hall C"
      ∧ (after (.clearPage 1 0 20) page20).text = [] ∧ reply (.clearPage 1 41 3) up = [0x00, 0, 42] := by decide +kernel

/-! ## FR and NU (spec 05, 06) -/

/-- A record bound to a slot, showing what its controller wants. -/
def boundRec (serial : Serial) (cls : PanelClass) (slot : Nat) : Rec :=
  { Rec.fresh serial cls (some 0x0101) with binding := some slot, lastTemplate := some .blank, ghost := 0 }

/-- Segment 1 in RUN with the records given. -/
def withRecs (recs : Table Rec) (s : State) : State := s.setSeg .sc1 { Seg.atReset with mode := .run, recs }

/-- Section 12 "A12" with a door plate for it at slot 40, zone 3, on segment 1 at address 7; the clock on day 1. -/
def plate (minute : Nat) : State :=
  let s : State := { timed up 1 minute 0 with
    text := (up.text.writeAll 0 (ascii "A12")).writeAll 5120 (ascii "Keynote")
    lu := ({ up.lu with sections := [(12, ⟨⟨0, 0, 3⟩, 0, false⟩)] } : Layout).derived
    ps := { up.ps with panels := [(40, { serial := 0x111111111111, role := .door 12, zones := 8 })] } }
  recomputeAll (reevaluateSessions { withRecs [(7, boundRec 0x111111111111 .m 40)] s with
    sessions := [(301, { sessionOf 540 600 [12] none with day := 1 })] })

def faceIn (s : State) (slot : Nat) : List Byte := ((Table.get s.fr.faces slot).map (·.wanted)).getD []

/-- 06:59 of the worked example: DOOR-IDLE "A12"; 07:00 and 08:45: DOOR-SESSION. -/
theorem test_door_plate :
    faceIn (plate 419) 40 = [0x02, 0x01, 3, 0x41, 0x31, 0x32] ∧ ((Table.get (plate 419).fr.faces 40).map (·.digest)) = some 0x75AA
      ∧ faceIn (plate 420) 40 = [0x03, 0x01, 3, 0x41, 0x31, 0x32, 0x09, 7] ++ ascii "Keynote" ++ [0x0A, 0x02, 0x1C]
      ∧ faceIn (plate 525) 40
          = [0x03, 0x01, 3, 0x41, 0x31, 0x32, 0x03, 7] ++ ascii "Keynote" ++ [0x05, 0x02, 0x1C, 0x02, 0x58, 0x06, 2] := by decide +kernel

/-- The face's change reached the record: QUEUED NORMAL with sequence 0. -/
theorem test_face_change_enqueues :
    ((plate 419).rec? .sc1 7).map (fun x => (x.state, x.wantedDigest)) = some (.queued, 0x75AA)
      ∧ ((plate 419).seg .sc1).queue = [{ address := 7, cls := .normal, sequence := 0, pass := 0 }] := by decide +kernel

def evacuation : NoticeSpec := ⟨3, 3, ⟨20, 0, 7⟩, 0, 0, 0⟩

/-- An EVACUATE notice raises the entry to ALERT with its sequence kept; withdrawn, the entry stays ALERT (R149). -/
theorem test_notice_takes_over :
    reply (.postNotice 1 evacuation) (plate 419) = [0x00, 0]
      ∧ faceIn (after (.postNotice 1 evacuation) (plate 419)) 40 = [0x06, 0x0F, 3, 0x10, 3, 0x11, 7] ++ ascii "Keynote"
      ∧ ((after (.postNotice 1 evacuation) (plate 419)).seg .sc1).queue = [{ address := 7, cls := .alert, sequence := 0, pass := 0 }]
      ∧ reply (.withdrawNotice 1 3) (served (.postNotice 1 evacuation) (plate 419)) = [0x00, 3]
      ∧ ((after (.withdrawNotice 1 3) (served (.postNotice 1 evacuation) (plate 419))).seg .sc1).queue.map (·.cls) = [.alert] := by
  decide +kernel

theorem test_pin_keeps_the_role_face :
    reply (.pinPanel 1 40) (plate 419) = [0x00, 0x75, 0xAA]
      ∧ faceIn (after .secondTick { served (.pinPanel 1 40) (plate 419) with clock := { mode := .running, day := 1, minute := 419, second := 59 } }) 40
          = [0x02, 0x01, 3, 0x41, 0x31, 0x32]
      ∧ reply (.unpinPanel 1 40) (plate 419) = [0x05] ∧ reply (.pinPanel 1 41) (plate 419) = [0x05] := by decide +kernel

theorem test_expiry :
    let s : State := { plate 419 with nu := { up.nu with notices := [(3, ⟨.advisory, ⟨20, 0, 7⟩, some (1, 420)⟩)] } }
    let t := after .minuteTurnover { s with clock := { mode := .running, day := 1, minute := 419, second := 59 } }
    t.nu.notices = [] ∧ flagSet t .expire = true := by decide +kernel

theorem test_read_face : reply (.readFace 1 40 4) (plate 419) = [0x00, 3, 0x75, 0xAA, 0, 6, 0, 2, 0x31, 0x32] := by decide +kernel

/-- A directory sign at 09:56 with two sessions listed. -/
def sign : State :=
  reevaluateSessions { timed up 1 596 0 with
    lu := ({ up.lu with sections := [(2, ⟨⟨0, 0, 3⟩, 0, false⟩), (3, ⟨⟨0, 0, 3⟩, 0, false⟩), (14, ⟨⟨0, 0, 3⟩, 0, false⟩)] } : Layout).derived
    sessions := [(401, { sessionOf 540 600 [3] none with day := 1 }), (402, { sessionOf 540 600 [2] none with day := 1 }),
      (411, { sessionOf 685 745 [14] none with day := 1 }), (412, { sessionOf 705 765 [14] none with day := 1 })] }

theorem test_line_list : (lineList sign 0 24).map (·.number) = [402, 401, 411] ∧ pageCount .m 11 = 2 ∧ pageCount .m 8 = 1 ∧ pageCount .s 0 = 1 := by
  decide +kernel

theorem test_carousel_wraps :
    let f : FaceRec := { wanted := [], digest := 0, template := .directory, source := .role, role := [], pages := some 2 }
    stepPage [(60, f)] 60 0 = 1 ∧ stepPage [(60, f)] 60 1 = 0 ∧ pageKept 1 1 = 0 := by decide

/-! ## Segments (spec 07, 08, 09) -/

/-- What is heard: a good frame. -/
def frame (address : Nat) (kind : Byte) (body : List Byte) : Heard := .bytes (busFrame (byte address) kind body) false

/-- Segment 1 with one exchange in progress. -/
def onBus (e : Exchange) (s : State) : State := s.setSeg .sc1 { s.seg .sc1 with bus := some e }

/-- Address 7 of the worked example, ONLINE at 21 °C, stray. -/
def quiet7 (x : Rec) : State := onBus (.poll 7) (withRecs [(7, { x with shown := some blankDigest, temp := 21 })] up)

theorem test_poll_temperature_and_cold :
    let x := Rec.fresh 7 .m none
    ((after (.roundRobinPoll .sc1 (frame 7 0x81 [2, 1, 1, 0x80])) (quiet7 x)).rec? .sc1 7).map (fun r => (r.temp, r.miss)) = some (21, 0)
      ∧ ((after (.roundRobinPoll .sc1 (frame 7 0x81 [2, 1, 1, 0xF8])) (quiet7 x)).rec? .sc1 7).map (fun r => (r.temp, r.cold)) = some (-8, true)
      ∧ flagSet (after (.roundRobinPoll .sc1 (frame 7 0x81 [2, 1, 1, 0xF8])) (quiet7 x)) .cold = true := by decide +kernel

theorem test_poll_misses_lose_the_record :
    let t := after (.roundRobinPoll .sc1 .silent) (quiet7 { Rec.fresh 7 .m none with miss := 2 })
    (t.rec? .sc1 7).map (fun r => (r.state, r.miss)) = some (.lost, 3) ∧ flagSet t .panel = true
      ∧ ((after (.roundRobinPoll .sc1 (.bytes [1] true)) (quiet7 (Rec.fresh 7 .m none))).rec? .sc1 7).map (·.miss) = some 1 := by
  decide +kernel

theorem test_return_probe :
    let s := onBus (.probe 7) (withRecs [(7, { Rec.fresh 7 .m none with state := .lost, miss := 4 })] up)
    let t := after (.returnProbe .sc1 (frame 7 0x84 [0, 0, 0, 0, 0, 7, 2, 0, 0, 0])) s
    (t.rec? .sc1 7).map (fun r => (r.state, r.miss, r.shown)) = some (.loading, 0, none) ∧ flagSet t .panel = true
      ∧ ((after (.returnProbe .sc1 (frame 7 0x84 [0, 0, 0, 0, 0, 8, 2, 0, 0, 0])) s).rec? .sc1 7) = none := by decide +kernel

/-- The durations of the worked example (R157, R158). -/
theorem test_durations :
    [durationOf .m .full 4, durationOf .m .full (-3), durationOf .m .part 35, durationOf .s .part (-12), durationOf .l .full 60,
      durationOf .s .full 85, durationOf .l .part (-40)] = [547, 768, 50, 160, 394, 169, 320]
      ∧ [547, 768, 50, 160, 394, 169, 320].map graceOf = [137, 192, 50, 50, 99, 50, 80] := by decide +kernel

/-- The first scan under a tight budget. -/
def tight : List Entry := [⟨11, .normal, 40, 0⟩, ⟨12, .normal, 41, 0⟩, ⟨13, .normal, 42, 0⟩]
def tightRecs : Table Rec :=
  [(11, Rec.fresh 11 .m none), (12, { Rec.fresh 12 .l (some 1) with ghost := 0, lastTemplate := some .blank }),
    (13, { Rec.fresh 13 .s (some 1) with ghost := 0, lastTemplate := some .blank })]

theorem test_admission_skips :
    (scanQueue tightRecs false 300 240 4 tight).map (fun f => (f.entry.address, f.draw, f.skipped)) = some (13, 25, [11, 12])
      ∧ scanQueue tightRecs true 300 240 4 tight = none
      ∧ scanQueue tightRecs false 300 240 4 [⟨11, .normal, 40, 4⟩, ⟨13, .normal, 42, 0⟩] = none
      ∧ (scanQueue tightRecs false 100 0 4 [⟨12, .alert, 1, 0⟩]).isSome = true := by decide +kernel

/-- One refresh from admission to its end: LOAD, its ACK, the poll between, SHOW, the completion poll. -/
theorem test_choose_admits :
    ((after (.chooseExchange .sc1) (plate 419)).seg .sc1).bus = some (.load 7 0 1 [0x02, 0x01, 3, 0x41, 0x31, 0x32]) := by decide +kernel

def loading : State := after (.chooseExchange .sc1) (plate 419)
def loaded : State := after (.loadExchange .sc1 (frame 7 0x82 [0])) loading
def showing7 : State := after (.roundRobinPoll .sc1 (frame 7 0x81 [2, 1, 1, 25])) loaded
def refreshing7 : State := after (.showExchange .sc1 (frame 7 0x83 [])) showing7

theorem test_load_then_poll_then_show :
    (loaded.seg .sc1).bus = some (.poll 7) ∧ (showing7.seg .sc1).bus = some (.showFace 7 .full 0x75AA 260) := by decide +kernel

theorem test_show_reserves :
    (refreshing7.seg .sc1).reserved = 90 ∧ (refreshing7.seg .sc1).transfer = none
      ∧ ((after (.showExchange .sc1 (frame 7 0x93 [])) showing7).rec? .sc1 7).map (fun r => (r.state, r.lastTemplate)) = some (.loading, none) := by
  decide +kernel

/-- The completion poll falls due, waits for the poll in progress, and completes the refresh. -/
theorem test_completion :
    let s := after (.roundRobinPoll .sc1 .silent) (after (.completionPollDue .sc1 7) refreshing7)
    let t := after (.completionPoll .sc1 (frame 7 0x81 [2, 0x75, 0xAA, 25])) s
    (s.seg .sc1).bus = some (.completion 7) ∧ s.time = 260
      ∧ (t.rec? .sc1 7).map (fun r => (r.state, r.shown, r.lastTemplate, r.ghost)) = some (.online, some 0x75AA, some .doorIdle, 0)
      ∧ (t.seg .sc1).reserved = 0 := by decide +kernel

theorem test_final_deadline :
    let t := after (.finalDeadline .sc1 7) refreshing7
    (t.rec? .sc1 7).map (fun r => (r.state, r.shown, r.miss)) = some (.queued, none, 1) ∧ t.time = 325 ∧ (t.seg .sc1).reserved = 0 := by
  decide +kernel

theorem test_third_failed_send_abandons :
    let s := loading.setSeg .sc1 { loading.seg .sc1 with transfer := (loading.seg .sc1).transfer.map (fun v => { v with sends := 3 }) }
    ((after (.loadExchange .sc1 .silent) s).seg .sc1).transfer.isNone = false
      ∧ ((after (.loadExchange .sc1 .silent) s).rec? .sc1 7).map (fun r => (r.state, r.miss)) = some (.loading, 1)
      ∧ (after (.loadExchange .sc1 .silent) loading).rec? .sc1 7 = loading.rec? .sc1 7 := by decide +kernel

/-- A wanted-face change during the LOAD: the transfer runs on, abandoned, until that LOAD ends; then the record is back in the
queue with its sequence and its new class, without a miss (R161). -/
def abandoned7 : State := served (.postNotice 1 ⟨3, 3, ⟨20, 0, 7⟩, 0, 0, 0⟩) loading

theorem test_face_change_during_a_load :
    let t := after (.loadExchange .sc1 .silent) abandoned7
    (abandoned7.seg .sc1).transfer.map (·.abandoned) = some true ∧ (abandoned7.rec? .sc1 7).map (·.state) = some .loading
      ∧ (abandoned7.seg .sc1).bus = (loading.seg .sc1).bus ∧ reply (.forgetPanel 1 1 7) abandoned7 = [0x09]
      ∧ (t.rec? .sc1 7).map (·.miss) = some 0
      ∧ (t.seg .sc1).transfer.map (fun v => (v.cls, v.sequence, v.template)) = some (.alert, 0, .notice) := by decide +kernel

theorem test_forget_and_refresh :
    ((after (.forgetPanel 1 1 7) (plate 419)).rec? .sc1 7) = none ∧ ((after (.forgetPanel 1 1 7) (plate 419)).seg .sc1).drops = [7]
      ∧ reply (.forgetPanel 1 1 7) loading = [0x09] ∧ reply (.refreshPanel 1 1 7) (plate 419) = [0x00, 1] := by decide +kernel

theorem test_drop_sent :
    ((after (.dropExchange .sc1) (onBus (.drop 9) (up.setSeg .sc1 { Seg.atReset with mode := .run, drops := [9] }))).seg .sc1).drops = [] := by
  decide +kernel

theorem test_roll_call :
    let s := onBus (.rollIdent 1) up
    let t := after (.rollCallIdent .sc1 (frame 1 0x84 [0x11, 0x11, 0x11, 0x11, 0x11, 0x11, 2, 2, 1, 1])) s
    (t.seg .sc1).bus = some (.rollIdent 2) ∧ (t.rec? .sc1 1).map (fun r => (r.cls, r.shown)) = some (.m, some 0x0101)
      ∧ flagSet t .stray = true
      ∧ ((after (.rollCallIdent .sc1 (.bytes [1] false)) s).seg .sc1).bus = some (.rollDrop 1) := by decide +kernel

/-- Steps 1, 2 and 5 of the three-panel enrolment. -/
def searching (stack : List Bits) (stem : Bits) : State :=
  onBus (.ask stem) (up.setSeg .sc1 { Seg.atReset with mode := .searching, stack })

theorem test_search :
    ((after (.askExchange .sc1 (.bytes [1] false)) (searching [[true]] [false])).seg .sc1).stack = [[false, true], [true]]
      ∧ ((after (.askExchange .sc1 (.bytes [1] false)) (searching [[true]] [false])).seg .sc1).bus = some (.ask [false, false])
      ∧ ((after (.askExchange .sc1 (frame 0xFE 0x86 [0x50, 0, 0, 0, 0, 1])) (searching [] [false, true, false])).seg .sc1).bus
          = some (.give 0x500000000001 1) := by decide +kernel

theorem test_enrol_to_key_and_give :
    ((after (.enrol 1 1) (withRecs [] up)).seg .sc1).bus = some .key
      ∧ ((after (.keyExchange .sc1) (after (.enrol 1 1) (withRecs [] up))).seg .sc1).bus = some (.ask [])
      ∧ (let t := after (.giveExchange .sc1 (frame 0xFE 0x87 [3])) (onBus (.give 5 1) (searching [] []))
         (t.rec? .sc1 1).map (fun r => (r.cls, r.state)) = some (.l, .loading) ∧ (t.seg .sc1).lastEnrol = some (.done, 1)
           ∧ flagSet t .enrol = true)
      ∧ reply (.stopEnrol 1 1) (searching [] []) = [0x00, 4] := by decide +kernel

theorem test_drain_complete :
    ((after (.drainComplete .sc1) (up.setSeg .sc1 { Seg.atReset with mode := .draining })).seg .sc1).mode = .keying := by decide +kernel

theorem test_panel_slots :
    let x := Rec.fresh 9 .s none
    let spec : PanelSpec := ⟨383, 9, 1, 4, 0, ⟨0, 0, 0⟩, 0⟩
    ((after (.definePanel 1 41 spec) (withRecs [(3, x)] hall)).rec? .sc1 3).map (·.binding) = some (some 383)
      ∧ reply (.definePanel 1 41 { spec with slot := 384 }) hall = [0x03] ∧ reply (.definePanel 1 41 { spec with first := 7 }) hall = [0x05]
      ∧ (after (.removePanel 1 41 40) (plate 419)).ps.panels = [] ∧ flagSet (after (.removePanel 1 41 40) (plate 419)) .stray = true := by
  decide +kernel

theorem test_read_segment_and_panel :
    (reply (.readSegment 1 1) (plate 419)).take 9 = [0x00, 1, 1, 0, 0, 0, 0, 1, 0] ∧ (reply (.readPanel 1 1 7) (plate 419)).take 12
      = [0x00, 7, 0x11, 0x11, 0x11, 0x11, 0x11, 0x11, 2, 1, 0, 40] ∧ reply (.readPanel 1 1 8) (plate 419) = [0x05] := by decide +kernel

/-! ## LI and PS (spec 10, 11) -/

/-- Requests back to back: STATUS, READ-CLOCK, READ-WALLS; the third is discarded with LINK. -/
theorem test_back_to_back :
    let s := after (.readWalls 0x13) (after (.readClock 0x12) (after (.status 0x11) up))
    flagSet s .link = true ∧ flagSet s .start = false ∧ s.li.waiting = some { tag := 0x12, asked := .request .readClock }
      ∧ ((after .replySent s).li.service.map (·.held.tag)) = some 0x12 ∧ (after .replySent (after .replySent s)).li.service = none := by
  decide +kernel

/-- The same through the host line: a frame, one with a byte changed, and the receiver's gaps. -/
theorem test_host_line :
    after (.hostFrameReceived (hostFrame 0x22 0x12 [])) up = after (.readClock 0x12) up
      ∧ (after (.hostFrameReceived [0xA5, 0, 0, 0x22, 0x12, 0, 0]) up).li.receiver = .resync
      ∧ (after (.lenBytesIn 4 1) (after (.frameStartByte 0xA5) up)).li.receiver = .resync
      ∧ (after (.lenBytesIn 4 0) (after (.frameStartByte 0xA5) up)).li.receiver = .receiving [4, 0]
      ∧ (after .receiveGapTimeout (after (.frameStartByte 0xA5) up)).li.receiver = .hunting
      ∧ (after .resyncGapTimeout (after .framingErrorByte (after (.frameStartByte 0xA5) up))).li.receiver = .hunting := by decide +kernel

theorem test_refusals :
    (reply (.identify 1) State.reset).take 4 = [0x00, 0x03, 0x84, 1] ∧ reply (.readWalls 1) State.reset = [0x0A]
      ∧ reply (.unknownKind 1 0x08 []) State.reset = [0x02] ∧ reply (.putText 1 0 20 0 []) up = [0x01]
      ∧ reply (.removeWall 1 43 12) { up with ps := { up.ps with plan := .saving } } = [0x09] := by decide +kernel

theorem test_mask_and_attn :
    let s := served (.setMask 1 0xFFFD) (served (.status 1) up)
    s.li.attn = false ∧ (raise .wall s).li.attn = false ∧ (raise .clock s).li.attn = true := by decide +kernel

theorem test_restart :
    let t := served (.restart 1) { morning 590 with nu := { up.nu with held := true, timer := 5 } }
    t.li.attention = 1 ∧ t.li.cause = .restart ∧ t.clock = Clock.atReset ∧ t.sessions = [] ∧ t.nu = up.nu ∧ t.ps = up.ps := by decide +kernel

/-- RESTART: EC's clock change comes after ST and NU have emptied their tables, in every order (R54, R96). -/
theorem test_restart_orders :
    (List.range 120).all (fun n => (List.range 5).all (fun m =>
      let l := restartOrder n m
      l.length = 6 && l.idxOf .sessions < l.idxOf .clock && l.idxOf .notices < l.idxOf .clock)) = true := by decide +kernel

theorem test_options_clamped :
    reply (.setOption 1 0 ⟨0, 1, 0⟩) up = [0x00, 0, 0, 2] ∧ reply (.setOption 1 7 ⟨0x05, 0xDC, 0⟩) up = [0x00, 7, 0x03, 0xE8]
      ∧ reply (.setOption 1 11 ⟨0xFF, 0xE2, 0⟩) up = [0x00, 11, 0xFF, 0xEC] ∧ reply (.setOption 1 6 ⟨0xFF, 0xFF, 0⟩) up = [0x00, 6, 0xFF, 0xFF]
      ∧ reply (.setOption 1 6 ⟨0x07, 0xD0, 0⟩) up = [0x00, 6, 0x05, 0x9F] ∧ reply (.setOption 1 15 ⟨52, 0, 0⟩) up = [0x03]
      ∧ reply (.setOption 1 16 ⟨0, 5, 0⟩) up = [0x03] := by decide +kernel

theorem test_read_option :
    reply (.readOption 2 11) (served (.setOption 1 11 ⟨0xFF, 0xE2, 0⟩) up) = [0x00, 11, 0xFF, 0xEC, 0xFF, 0xEC, 0, 10, 0xFF, 0xFB] := by
  decide +kernel

/-- A save through its three stages. -/
def saved : State := after (.saveHeader true) (after (.saveBody true) (after (.saveErase true) (served (.savePlan 1) hall)))

theorem test_save :
    saved.ps.lastSave = .ok ∧ saved.ps.plan = .ready ∧ flagSet saved .save = true ∧ saved.ps.save = none
      ∧ (after (.saveErase true) (served (.savePlan 1) hall)).ps.save.map (·.stage) = some .body
      ∧ (after .pinResetRelease (after .pinResetAssert saved)).li.cause = .pin := by decide +kernel

theorem test_failed_save :
    let s := after (.saveBody false) (after (.saveErase true) (served (.savePlan 1) hall))
    s.ps.lastSave = .failed ∧ s.ps.plan = .ready ∧ after .flashReadyTimeout (served (.savePlan 1) hall) = after (.saveErase false) (served (.savePlan 1) hall)
      ∧ (after (.loadEnd true) (after .powerOn s)).ps.plan = .empty ∧ reply (.savePlan 1) (after (.loadEnd false) State.reset) = [0x0B] := by
  decide +kernel

/-- What a failed or stopped save leaves of the header (R198, R200). -/
theorem test_headers_left :
    let s1 := served (.savePlan 1) hall
    let s2 := after (.saveErase true) s1
    let s3 := after (.saveBody true) s2
    (after (.saveErase false) s1).ps.flash.bytes = List.replicate 16 0xFF ∧ (after (.saveBody false) s2).ps.flash.bytes = List.replicate 16 0xFF
      ∧ (after (.saveHeader false) s3).ps.flash.bytes.take 4 = [0, 0, 0, 0] ∧ (after .powerOn s2).ps.flash.bytes = List.replicate 16 0xFF
      ∧ (after .powerOn s3).ps.flash.torn = true ∧ (after (.loadEnd true) (after .powerOn s3)).ps.plan = .empty := by decide +kernel

/-- An empty queue idles; the command at the front is taken. -/
theorem test_step_idles_and_takes :
    step up = .next { up with time := 1 } ∧ step { up with pending := [.identify 1] } = exec (.identify 1) up := ⟨rfl, rfl⟩

/-! ## The hypotheses of the statements are met

One theorem for each statement with hypotheses: for each of its clauses, a state and operands that meet them, at a boundary of
their range. `ready` and `serves` stand for LI free and the common checks passed (`ready_iff`, `serves_iff`). -/

/-- A request in service. -/
def busy (s : State) : State := after (.readClock 0x12) s

/-- How an owner refuses. -/
def refusedWith : Taken → Option Result
  | .error r => some r
  | .ok _ => none

/-- A good answer. -/
def Answer.get? {α : Type} : Answer α → Option α
  | .valid a => some a
  | .silent => none
  | .garbled => none

def savingUp : State := { up with ps := { up.ps with plan := .saving } }
def emptyUp : State := { up with ps := { up.ps with plan := .empty, revision := 0 } }

theorem test_meets_RequestBodyReadsBack :
    (Request.putText 0 47 255 (List.replicate 240 1)).fits = true ∧ (Request.putText 0 0 0 [1]).fits = true
      ∧ (Request.defineCombination 0 31 ⟨47, 0, 0⟩ (List.replicate 255 95)).fits = true := by decide +kernel

theorem test_meets_FramesAreTakenOrDiscarded :
    up.resetPin = false ∧ up.li.receiver = .hunting ∧ Request.readClock.fits = true
      ∧ ([] : List Byte).length ≤ 1024 ∧ (0 : Half) ≠ crc16 (two 0 ++ [0x22, 0x12] ++ []) ∧ (List.replicate 1024 (0 : Byte)).length ≤ 1024 := by
  decide +kernel

theorem test_meets_FramesAreTakenOrDiscarded_bodies :
    (0x22 : Byte) ∈ requestKinds ∧ (0x08 : Byte) ∉ requestKinds ∧ bodyFits 0x22 [] ∧ ¬ bodyFits 0x22 [1]
      ∧ bodyFits 0x14 [0, 0, 0, 0, 0, 0, 0] ∧ ¬ bodyFits 0x14 [0, 0, 0, 0, 0, 0, 1] ∧ ¬ bodyFits 0x40 [0, 0, 0, 0]
      ∧ bodyFits 0x40 [0, 0, 0, 0, 0] ∧ ¬ bodyFits 0x08 [] := by
  simp [bodyFits, requestKinds]

theorem test_meets_ReceiverMovesByByteAndGap :
    up.resetPin = false ∧ up.li.receiver = .hunting ∧ (0xA4 : Byte) ≠ 0xA5
      ∧ (after (.frameStartByte 0xA5) up).li.receiver = .receiving [] ∧ (setReceiver .resync up).li.receiver = .resync
      ∧ num2 4 0 = 1024 ∧ num2 4 1 = 1025 := by decide +kernel

theorem test_meets_InputBufferHoldsTwoRequests :
    up.li.service = none ∧ (busy up).li.service.isSome = true ∧ (busy up).li.waiting = none
      ∧ (busy (busy up)).li.service.isSome = true ∧ (busy (busy up)).li.waiting.isSome = true ∧ (busy (busy up)).resetPin = false := by
  decide +kernel

theorem test_meets_ReplySentEndsService :
    (busy up).li.service.map (·.restarts) = some false ∧ (busy up).li.waiting = none
      ∧ (busy (busy up)).li.service.map (·.restarts) = some false ∧ (busy (busy up)).li.waiting.isSome = true := by decide +kernel

theorem test_meets_RefusalsChangeNothing :
    ready up = true ∧ commonRefusal (.putText 0 0 0 []) up = some (.length, [])
      ∧ commonRefusal (.dropSession 1) up = none ∧ refusedWith (owner (.dropSession 1) up) = some .notFound
      ∧ State.reset.ps.plan = .loading ∧ State.reset.li.service = none ∧ Request.readWalls.fits = true := by decide +kernel

theorem test_meets_PlanEditsAreGuardedByRevision :
    let r := Request.clearPage 65535 15
    let s : State := { up with ps := { up.ps with revision := 65535 } }
    ready savingUp = true ∧ r.fits = true ∧ expectedRevision r = some 65535 ∧ ready up = true ∧ (65535#16).toNat ≠ up.ps.revision
      ∧ ready s = true ∧ s.ps.plan ≠ .saving ∧ (65535#16).toNat = s.ps.revision
      ∧ refusedWith (owner r s) = none ∧ expectedRevision (.clearPage 65535 16) = none := by decide +kernel

/-- IdentifyRestartAndUnknownKindsAreAnswered, StatusReturnsAndClearsFlags, SetMaskJudgesAttn, PublishHoldIsSetAndReleased. -/
theorem test_meets_LI_statements :
    State.reset.resetPin = false ∧ State.reset.li.service = none ∧ ready up = true ∧ (0x08 : Byte) ∉ requestKinds ∧ (0xFF : Byte) ∉ requestKinds := by
  decide +kernel

theorem test_meets_RestartClearsTheDay :
    (after (.restart 1) up).li.service.map (·.restarts) = some true ∧ (after (.restart 1) up).li.waiting = none
      ∧ (after (.restart 1) up).resetPin = false
      ∧ (busy (after (.restart 1) up)).li.service.map (·.restarts) = some true
      ∧ (busy (after (.restart 1) up)).li.waiting = some { tag := 0x12, asked := .request .readClock } := by decide +kernel

theorem test_meets_SetOptionClampsAndApplies :
    ready up = true ∧ 15 < (16 : Byte).toNat ∧ (15 : Byte).toNat = 15 ∧ 48 ≤ (48 : Byte).toNat ∧ (47 : Byte).toNat < 48
      ∧ up.ps.options.privateText = ⟨0, 0, 0⟩ ∧ up.ps.options.privateText ≠ ⟨47, 0, 0⟩ ∧ (half 0xFF 0xFF).toInt = -1
      ∧ up.ps.options.doorLead = 15 ∧ up.ps.options.nextWindow = 120 ∧ up.ps.options.horizon = 90 ∧ up.ps.options.refreshFloor = -5
      ∧ (quiet7 { Rec.fresh 7 .m none with temp := -8 }).rec? .sc1 8 = none := by decide +kernel

/-- The hypotheses of its clauses on sessions and records: a door lead that moves a phase and warns, and floors on both sides
of a temperature. -/
theorem test_meets_SetOptionClampsAndApplies_changes :
    let t := after (.setOption 1 2 ⟨0, 60, 0⟩) (morning 824)
    ready (morning 824) = true ∧ phaseIn (morning 824) 201 = some .upcoming ∧ phaseIn t 201 = some .doors
      ∧ (Table.get (morning 824).sessions 201).map (·.warned) = some false ∧ (Table.get t.sessions 201).map (·.warned) = some true
      ∧ (let s := quiet7 { Rec.fresh 7 .m none with temp := -6 }
         ready s = true ∧ (s.rec? .sc1 7).map (fun x => (x.temp, x.cold, x.state)) = some (21, false, .online)
         ∧ ((after (.setOption 1 11 ⟨0, 10, 0⟩) (quiet7 (Rec.fresh 7 .m none))).rec? .sc1 7).map (·.cold) = some false) := by decide +kernel

theorem test_meets_SavePlanStartsASave :
    ready emptyUp = true ∧ emptyUp.ps.plan = .empty ∧ ready savingUp = true ∧ savingUp.ps.plan = .saving ∧ ready up = true ∧ up.ps.plan = .ready := by
  decide +kernel

theorem test_meets_SaveRunsInThreeStages :
    let s1 := served (.savePlan 1) up
    let s2 := after (.saveErase true) s1
    let s3 := after (.saveBody true) s2
    [s1, s2, s3].map (fun s => s.ps.save.map (·.stage)) = [some .erase, some .body, some .header] ∧ s3.resetPin = false := by decide +kernel

/-- Hall B with a panel slot and a session that hold sections 4 and 5 alone, and no combination or wall. -/
def plain (session door directory : Bool) : State :=
  { up with
    lu := { hall.lu with walls := [], combos := [] }
    sessions := if session then [(1, sessionOf 540 600 [4] none)] else []
    ps := { up.ps with panels := (if door then [(3, { serial := 1, role := .door 4, zones := 0 })] else [])
      ++ (if directory then [(9, { serial := 2, role := .directory 4 92 ⟨0, 0, 0⟩, zones := 0 })] else []) } }

/-- A section is held as REMOVE-SECTION's third check reads it. -/
def usedBy (s : State) (i : Nat) : Bool :=
  s.lu.walls.any (fun w => w.2.a = i || w.2.b = i) || s.lu.combos.any (fun x => x.2.set.contains i)
    || s.sessions.any (fun e => e.2.sections.contains i)
    || s.ps.panels.any (fun p => match p.2.role with
        | .door x => x = i
        | .directory x _ _ => x = i)

theorem test_meets_SectionsAreDefinedAndRemoved :
    serves hall (.defineSection 41 96 b1 0) = true ∧ serves hall (.defineSection 41 95 ⟨48, 0, 0⟩ 0) = true
      ∧ serves hall (.defineSection 41 95 ⟨47, 0, 0⟩ 0) = true ∧ (95 : Byte).toNat < 96
      ∧ serves hall (.removeSection 41 96) = true ∧ serves hall (.removeSection 41 95) = true ∧ Table.get hall.lu.sections 95 = none
      ∧ [hall, plain true false false, plain false true false, plain false false true].all
          (fun s => serves s (.removeSection 41 4) && (Table.get s.lu.sections 4).isSome && usedBy s 4) = true
      ∧ serves (plain false false false) (.removeSection 41 4) = true ∧ usedBy (plain false false false) 4 = false := by decide +kernel

theorem test_meets_SectionsAreClosedAndOpened :
    ready hall = true ∧ 96 ≤ (96 : Byte).toNat ∧ Table.get hall.lu.sections 95 = none
      ∧ (Table.get hall.lu.sections 4).map (·.closed) = some false
      ∧ (Table.get (after (.closeSection 1 4) hall).lu.sections 4).map (·.closed) = some true := by decide +kernel

theorem test_meets_WallsAreDefinedAndRemoved :
    serves hall (.defineWall 41 48 4 5) = true ∧ serves hall (.defineWall 41 47 96 5) = true ∧ serves hall (.defineWall 41 47 4 4) = true
      ∧ serves hall (.defineWall 41 47 4 95) = true ∧ Table.get hall.lu.sections 95 = none
      ∧ serves hall (.defineWall 41 47 5 4) = true ∧ (hall.lu.walls.any (fun e => e.1 ≠ 47 && e.2.a = 4 && e.2.b = 5)) = true
      ∧ serves hall (.defineWall 41 47 6 4) = true ∧ (hall.lu.walls.any (fun e => (e.2.a = 4 && e.2.b = 6) || (e.2.a = 6 && e.2.b = 4))) = false
      ∧ serves hall (.removeWall 41 48) = true ∧ serves hall (.removeWall 41 47) = true ∧ Table.get hall.lu.walls 47 = none
      ∧ serves hall (.removeWall 41 10) = true ∧ (Table.get hall.lu.walls 10).isSome = true := by decide +kernel

theorem test_meets_ForceWallSetsTheForcedPosition :
    ready hall = true ∧ 48 ≤ (48 : Byte).toNat ∧ 2 < (3 : Byte).toNat ∧ Table.get hall.lu.walls 47 = none ∧ Forced.code .deployed = 2
      ∧ (Table.get hall.lu.walls 11).isSome = true := by decide +kernel

theorem test_meets_WallScanSamplesEveryWall :
    folding.resetPin = false ∧ folding.ps.plan ≠ .loading ∧ Table.rising folding.lu.walls = true
      ∧ folding.lu.spaces = deriveSpaces folding.lu
      ∧ (Table.get folding.lu.walls 10).any (fun w => (w.sample .stowed).judged 8 240 ≠ w.filtered) = true
      ∧ [10, 11].all (fun i => (Table.get folding.lu.walls i).all (fun w => (w.sample .deployed).judged 8 240 = w.filtered)) = true
      ∧ Table.keys folding.lu.walls = [10, 11] := by decide +kernel

/-- The derived space list's clauses: an equal combination, none, and a chain of two walls. -/
theorem test_meets_WallScanSamplesEveryWall_spaces :
    Table.rising joined.lu.sections = true ∧ (deriveSpaces joined.lu).map (·.sections) = [[4, 5, 6]]
      ∧ joined.lu.combos.any (fun c => c.2.set = [4, 5, 6]) = true ∧ hall.lu.combos.any (fun c => c.2.set = [4]) = false := by
  decide +kernel

theorem test_meets_WallScanSamplesEveryWall_chain : Chained joined.lu 4 6 := by
  have wall (x y n : Nat) (hx : (Table.get joined.lu.sections x).isSome = true) (hy : (Table.get joined.lu.sections y).isSome = true)
      (h : (n, wallAs x y .stowed .stowed 20) ∈ joined.lu.walls) : Joined joined.lu x y :=
    ⟨hx, hy, _, h, rfl, .inl ⟨rfl, rfl⟩⟩
  exact (Chained.here.next (wall 4 5 10 (by decide +kernel) (by decide +kernel) (by decide +kernel))).next
    (wall 5 6 11 (by decide +kernel) (by decide +kernel) (by decide +kernel))

theorem test_meets_CombinationsAreDefinedAndRemoved :
    serves hall (.defineCombination 41 32 b1 [4, 5]) = true ∧ serves hall (.defineCombination 41 31 ⟨48, 0, 0⟩ [4, 5]) = true
      ∧ serves hall (.defineCombination 41 31 b1 [4]) = true ∧ serves hall (.defineCombination 41 31 b1 (List.replicate 13 4)) = true
      ∧ serves hall (.defineCombination 41 31 b1 [4, 96]) = true ∧ hasRepeat [4, 4] = true ∧ hasRepeat [5, 4] = false
      ∧ serves hall (.defineCombination 41 31 b1 [4, 95]) = true ∧ Table.get hall.lu.sections 95 = none
      ∧ serves hall (.defineCombination 41 31 b1 [6, 5, 4]) = true ∧ sortNat [6, 5, 4] = [4, 5, 6]
      ∧ serves hall (.defineCombination 41 31 b1 [5, 4]) = true ∧ hall.lu.combos.any (fun e => e.2.set = [4, 5]) = false
      ∧ serves hall (.removeCombination 41 32) = true ∧ Table.get hall.lu.combos 31 = none ∧ serves hall (.removeCombination 41 3) = true
      ∧ (Table.get hall.lu.combos 3).isSome = true := by decide +kernel

/-- TableReadsChangeNothing, RecordReadsChangeNothing. -/
theorem test_meets_reads :
    ready (plate 419) = true ∧ (14 : Byte).toNat < 15 ∧ (95 : Byte).toNat < 96 ∧ (511 : Half).toNat ≤ 511 ∧ (16 : Byte).toNat ≤ 16
      ∧ (47 : Byte).toNat < 48 ∧ (240 : Byte).toNat ≤ 240 ∧ (Table.get (plate 419).sessions 301).isSome = true
      ∧ (40 : Half).toNat < 384 ∧ (2047 : Half).toNat ≤ 2047 ∧ (Table.get (plate 419).ps.panels 40).isSome = true
      ∧ ((plate 419).holder 40).isSome = true ∧ (Table.get (plate 419).fr.faces 40).isSome = true
      ∧ SegIx.named 3 = some .sc3 ∧ SegIx.named 1 = some .sc1 ∧ ((plate 419).rec? .sc1 7).isSome = true := by decide +kernel

/-- Their refusals at the first value out of range, and of what is not there: a session, a slot that is not defined, one that is
defined with no record bound to it, and a record. -/
theorem test_meets_reads_refused :
    15 < (16 : Byte).toNat ∧ 96 ≤ (96 : Byte).toNat ∧ 511 < (512 : Half).toNat ∧ 16 < (17 : Byte).toNat ∧ 48 ≤ (48 : Byte).toNat
      ∧ 240 < (241 : Byte).toNat ∧ 384 ≤ (384 : Half).toNat ∧ 2047 < (2048 : Half).toNat ∧ 4 ≤ (4 : Byte).toNat ∧ 96 < (97 : Byte).toNat
      ∧ Table.get (plate 419).sessions 65535 = none ∧ Table.get (plate 419).ps.panels 383 = none
      ∧ ((withRecs [] (plate 419)).holder 40).isNone = true ∧ ready (withRecs [] (plate 419)) = true
      ∧ (Table.get (withRecs [] (plate 419)).ps.panels 40).isSome = true ∧ (plate 419).rec? .sc1 96 = none := by decide +kernel

/-- Absent items of the reads: a speaker, an early end, a stray's slot, an unknown template; the last enrolment; a READ-OPTION row. -/
theorem test_read_absent_items :
    (reply (.readSession 1 301) (plate 419)).take 14 = [0x00, 1, 0x2D, 1, 2, 0x1C, 2, 0x58, 1, 12, 20, 0, 7, 0]
      ∧ (reply (.readSession 1 301) (plate 419)).length = 36
      ∧ (reply (.readPanel 1 1 7) (withRecs [(7, Rec.fresh 5 .l none)] up)).length = 26
      ∧ reply (.readOption 1 11) up = [0x00, 11, 0xFF, 0xFB, 0xFF, 0xEC, 0, 10, 0xFF, 0xFB] := by decide +kernel

/-- Two strays with one serial, and the bound record of slot 40, on segment 1 and segment 2. -/
def strays : State :=
  let s := plate 419
  (s.setSeg .sc2 { Seg.atReset with mode := .run, recs := [(1, Rec.fresh 9 .s none), (96, Rec.fresh 9 .l none)] })

def doorSpec (slot : Half) (serial : Serial) (first : Byte) : PanelSpec := ⟨slot, serial, 1, first, 0, ⟨0, 0, 0⟩, 0⟩
def signSpec (slot : Half) (first count page : Byte) : PanelSpec := ⟨slot, 9, 2, first, count, ⟨page, 0, 0⟩, 0⟩

theorem test_meets_PanelSlotsAreDefinedAndRemoved :
    [doorSpec 384 9 12, doorSpec 383 9 96, { doorSpec 383 9 12 with role := 3 }, signSpec 383 12 0 0, signSpec 383 12 85 0, signSpec 383 12 84 48,
        doorSpec 383 9 95, signSpec 383 12 84 47, doorSpec 383 0x111111111111 12, doorSpec 383 9 12, doorSpec 40 0x111111111111 12, doorSpec 40 9 12].all
          (fun p => serves strays (.definePanel 41 p)) = true
      ∧ (Table.get strays.lu.sections 95) = none ∧ (Table.get strays.lu.sections 12).isSome = true
      ∧ strays.ps.panels.any (fun e => e.1 ≠ 383 && e.2.serial = 0x111111111111) = true
      ∧ recordsOk strays = true ∧ (strays.holder 40).isSome = true ∧ (strays.allRecs.filter (fun q => q.rec_.serial = 9)).length = 2
      ∧ serves strays (.removePanel 41 384) = true ∧ serves strays (.removePanel 41 383) = true ∧ Table.get strays.ps.panels 383 = none
      ∧ serves strays (.removePanel 41 40) = true ∧ (Table.get strays.ps.panels 40).isSome = true := by decide +kernel

theorem test_meets_SetClockSetsTheTime :
    ready up = true ∧ (15 : Byte).toNat ≤ 15 ∧ (1439 : Half).toNat ≤ 1439 ∧ (59 : Byte).toNat ≤ 59 ∧ ¬ (16 : Byte).toNat ≤ 15
      ∧ Notice.due 15 1439 ⟨.advisory, b1, some (15, 1439)⟩ = true := by decide +kernel

/-- MinuteTurnoverIsDelivered, SecondTickCountsClockAndHold. -/
theorem test_meets_ticks :
    (timed up 15 1438 59).resetPin = false ∧ (timed up 15 1438 59).clock.mode = .running ∧ ¬ ((15 : Nat) = 15 ∧ (1438 : Nat) = 1439)
      ∧ ¬ ((14 : Nat) = 15 ∧ (1439 : Nat) = 1439) ∧ up.clock.mode ≠ .running ∧ Notice.due 1 420 ⟨.urgent, b1, some (1, 420)⟩ = true
      ∧ (timed (plate 419) 1 239 59).ps.options.quiet = some 240 ∧ (58 : Nat) < 59 := by decide +kernel

/-- The sign of `sign` as slot 60 on segment 1, its page shown. -/
def signed : State :=
  recomputeAll { withRecs [(7, boundRec 9 .s 60)] sign with
    ps := { sign.ps with panels := [(60, { serial := 9, role := .directory 0 24 ⟨0, 0, 3⟩, zones := 0 })] } }

theorem test_meets_MinuteTurnoverIsDelivered_carousel :
    (Table.get signed.ps.panels 60).map (·.role) = some (.directory 0 24 ⟨0, 0, 3⟩) ∧ (signed.holder 60).isSome = true
      ∧ Table.get signed.fr.pages 60 = some 0 ∧ (Table.get signed.fr.faces 60).bind (·.pages) = some 1
      ∧ 598 % signed.ps.options.carousel = 0 ∧ 597 % signed.ps.options.carousel = 1 := by decide +kernel

/-- The clock at the times where the clauses of ADJUST-CLOCK meet. -/
theorem test_meets_AdjustClockMovesTheTime_clocks :
    ClockGood (timed up 15 1439 59).clock ∧ ClockGood (timed up 15 1438 59).clock ∧ ClockGood (timed up 0 0 0).clock ∧ ClockGood up.clock := by
  refine ⟨⟨?_, ?_, ?_, ?_, ?_⟩, ⟨?_, ?_, ?_, ?_, ?_⟩, ⟨?_, ?_, ?_, ?_, ?_⟩, ⟨?_, ?_, ?_, ?_, ?_⟩⟩ <;> decide

theorem test_meets_AdjustClockMovesTheTime :
    ready (timed up 0 0 0) = true ∧ (BitVec.ofInt 8 30).toInt = 30 ∧ (BitVec.ofInt 8 (-30)).toInt = -30 ∧ (BitVec.ofInt 8 31).toInt = 31
      ∧ ((0 * 1440 + 0) * 60 + 29 - 30) / 60 = ((0 * 1440 + 0) * 60 + 29) / 60 ∧ ((0 * 1440 + 1) * 60 + 29 - 30) / 60 ≠ ((0 * 1440 + 1) * 60 + 29) / 60
      ∧ up.clock.mode ≠ .running := by decide +kernel

def storeAt (number : Half) (day : Byte) (start stop : Half) (sections : List Byte) : StoreSpec :=
  ⟨number, day, start, stop, 0xFF, 15, 0, ⟨47, 0, 0⟩, ⟨47, 0, 0⟩, sections⟩

/-- The home space's clauses: 101 of a split hall, whose space holds section 4; 201 there, current and misplaced in its doors; and
a record of a section that no space holds. -/
theorem test_meets_SessionsAreStored_home :
    (morning 825).lu.spaces.head?.map (·.sections) = some [4] ∧ AllCurrent (morning 825)
      ∧ (Table.get (morning 825).sessions 101).map (fun x => (x.sections.head?, x.home, x.placed)) = some (some 4, 4, true)
      ∧ (Table.get (morning 825).sessions 201).map (fun x => (x.sections, x.home, x.placed)) = some ([4, 5, 6], 4, false)
      ∧ (let x := (sessionOf 540 600 [95] none).update (morning 480).clock 15 (morning 480).lu.spaces
         Current (morning 480) x ∧ x.sections.head? = some 95 ∧ (morning 480).lu.spaces.any (fun p => p.sections.contains 95) = false
           ∧ x.home = 95 ∧ x.placed = false) := by
  unfold AllCurrent Current
  decide +kernel

/-- 512 sessions of a day long past. -/
def fullMap : State := { hall with sessions := (List.range 512).map (fun i => (i + 1, { sessionOf 0 1 [5] none with day := 0 })) }

theorem test_meets_SessionsAreStored :
    ready (morning 480) = true ∧ (storeAt 1 15 1439 1440 [4]).stop.toNat = 1440 ∧ (storeAt 0 15 1439 1440 [4]).number.toNat = 0
      ∧ Table.get (morning 480).lu.sections 95 = none
      ∧ (morning 480).sessions.any (fun e => e.1 ≠ 1 && e.2.day = 2 && e.2.sections.contains 4 && (599 < e.2.effectiveEnd) && (e.2.start < 700)) = true
      ∧ (morning 480).sessions.any (fun e => e.2.day = 15) = false
      ∧ ready fullMap = true ∧ Table.get fullMap.sessions 513 = none ∧ 512 ≤ fullMap.sessions.length := by decide +kernel

/-- 102 cancelled, then 104 stored over it. -/
def overtaken : State := served (.storeSession 1 (spec104 630)) (served (.cancelSession 1 102) (morning 625))

theorem test_meets_SessionsAreDroppedCancelledAndRestored :
    ready overtaken = true ∧ (0 : Half).toNat = 0 ∧ Table.get overtaken.sessions 1 = none
      ∧ (Table.get overtaken.sessions 102).map (·.cancelled) = some true ∧ (Table.get overtaken.sessions 104).map (·.cancelled) = some false
      ∧ overtaken.sessions.any (fun e => e.1 ≠ 102 && !e.2.cancelled && e.2.day = 2 && e.2.sections.contains 4 && (630 < e.2.effectiveEnd) && (e.2.start < 690)) = true
      ∧ (Table.get (served (.cancelSession 1 201) (morning 480)).sessions 201).map (·.cancelled) = some true := by decide +kernel

theorem test_meets_SessionsAreExtendedAndEnded :
    ready (morning 590) = true ∧ (180 : Byte).toNat = 180 ∧ (181 : Byte).toNat = 181 ∧ Table.get (morning 590).sessions 1 = none
      ∧ (Table.get (morning 590).sessions 101).map (fun x => (x.phase, x.earlyEnd)) = some (.live, none)
      ∧ (Table.get (morning 620).sessions 101).map (·.phase) = some .done ∧ (morning 590).clock.mode = .running ∧ ready hall = true
      ∧ hall.clock.mode ≠ .running ∧ (Table.get (morning 540).sessions 101).map (·.phase) = some .live := by decide +kernel

/-- TextIsWrittenAndCleared. -/
theorem test_meets_text :
    serves up (.putText 0 48 0 [1]) = true ∧ serves up (.putText 41 15 255 [1, 2]) = true ∧ serves up (.putText 0 47 255 [1]) = true
      ∧ serves up (.clearPage 0 48) = true ∧ serves up (.clearPage 41 15) = true ∧ serves up (.clearPage 0 16) = true := by decide +kernel

theorem test_meets_NoticesArePostedAndWithdrawn :
    ready (timed up 1 420 0) = true ∧ ready up = true ∧ up.clock.mode = .unset ∧ (15 : Byte).toNat ≤ 15 ∧ ¬ (4 : Byte).toNat ≤ 3 ∧ ¬ (2 : Byte).toNat ≤ 1
      ∧ (47 : Byte).toNat < 48 ∧ ¬ (1 < 1 ∨ (1 = 1 ∧ 420 < 420)) ∧ ((1 : Nat) < 1 ∨ ((1 : Nat) = 1 ∧ 420 < 421))
      ∧ Table.get up.nu.notices 15 = none
      ∧ (Table.get (after (.postNotice 1 evacuation) up).nu.notices 3).map (·.level) = some .evacuate := by decide +kernel

/-- Sixteen other slots pinned. -/
def pinnedFull : State :=
  { plate 419 with nu := { (plate 419).nu with pins := (List.range 16).map (fun i => (i, { copy := [1], digest := 0x0101 })) } }

theorem test_meets_PanelsArePinnedAndUnpinned :
    ready (plate 419) = true ∧ (384 : Half).toNat = 384 ∧ Table.get (plate 419).ps.panels 383 = none
      ∧ (Table.get ({ plate 419 with sc := up.sc } : State).ps.panels 40).isSome = true ∧ ({ plate 419 with sc := up.sc } : State).holder 40 = none
      ∧ ready pinnedFull = true ∧ (pinnedFull.holder 40).isSome = true ∧ Table.get pinnedFull.nu.pins 40 = none ∧ 16 ≤ pinnedFull.nu.pins.length
      ∧ (Table.get (plate 419).fr.faces 40).isSome = true ∧ Table.get (plate 419).nu.pins 40 = none
      ∧ (Table.get (after (.pinPanel 1 40) (plate 419)).nu.pins 40).isSome = true := by decide +kernel

def inMode (mode : SegMode) (bus : Option Exchange) : State := up.setSeg .sc1 { Seg.atReset with mode, bus }

theorem test_meets_EnrolmentIsStartedAndStopped :
    4 ≤ (4 : Byte).toNat ∧ SegIx.named 1 = some .sc1
      ∧ [inMode .starting none, inMode .run none, inMode .draining none, inMode .keying none, inMode .keying (some .key),
          inMode .searching (some .key), plate 419, refreshing7].all ready = true
      ∧ ((inMode .run none).seg .sc1).drained = true ∧ (refreshing7.seg .sc1).mode = .run ∧ (refreshing7.seg .sc1).drained = false := by
  decide +kernel

theorem test_meets_PanelsAreForgottenAndRefreshed :
    ready (plate 419) = true ∧ (96 : Byte).toNat ≤ 96 ∧ 96 < (97 : Byte).toNat ∧ ((plate 419).seg .sc1).mode = .run
      ∧ ((plate 419).rec? .sc1 96) = none ∧ ((plate 419).rec? .sc1 7).map (·.state) = some .queued
      ∧ (loading.rec? .sc1 7).map (·.state) = some .loading ∧ (entryOf 7 ((plate 419).seg .sc1).queue).isSome = true
      ∧ ready (quiet7 (Rec.fresh 7 .m none)) = true ∧ ((quiet7 (Rec.fresh 7 .m none)).rec? .sc1 7).map (fun x => (x.state, x.cold)) = some (.online, false)
      ∧ ((quiet7 { Rec.fresh 7 .m none with state := .lost }).rec? .sc1 7).map (·.state) = some .lost
      ∧ (inMode .draining none |>.seg .sc1).mode ≠ .run := by decide +kernel

/-- Segment 1 in RUN with a quiet bus, by drops, due time, transfer and records. -/
def quietBus (drops : List Nat) (transfer : Option Transfer) (recs : Table Rec) : State :=
  up.setSeg .sc1 { Seg.atReset with mode := .run, drops, transfer, recs }

def refreshAs (due : Option Nat) : Refresh :=
  { kind := .part, draw := 50, digest := 1, template := .blank, duration := 50, deadline := 50, final := 100, confirmed := true
    due, nextPoll := 60, finalWaits := false }

def transferAs (next : Nat) : Transfer :=
  { address := 7, kind := .full, draw := 90, cls := .normal, sequence := 0, encoding := [0x01], digest := 0x0101, template := .blank, total := 1
    next, sends := 1, ready := true, abandoned := false }

/-- Segment 1 has that exchange in progress. -/
def isOnBus (e : Exchange) (s : State) : Bool := (s.seg .sc1).bus = some e

theorem test_meets_ExchangesAreChosenInUseOrder :
    let due := quietBus [] none [(7, { Rec.fresh 7 .m none with state := .refreshing (refreshAs (some 50)) }),
      (8, { Rec.fresh 8 .m none with state := .refreshing (refreshAs (some 50)) })]
    let load := quietBus [] (some (transferAs 0)) [(7, { Rec.fresh 7 .m none with state := .loading })]
    let show_ := quietBus [] (some (transferAs 1)) [(7, { Rec.fresh 7 .m none with state := .loading })]
    let none_ := quietBus [] none [(7, Rec.fresh 7 .m none), (96, { Rec.fresh 8 .m none with state := .lost })]
    [quietBus [96] none [], due, load, show_, none_, quietBus [] none []].all
        (fun s => !s.resetPin && (s.seg .sc1).bus.isNone && (s.seg .sc1).mode = .run && recordsOk s) = true
      ∧ firstDue (due.seg .sc1).recs = some (50, 7) ∧ firstDue (load.seg .sc1).recs = none ∧ (show_.rec? .sc1 7).isSome = true
      ∧ (admission .sc1 none_).isNone = true ∧ (none_.seg .sc1).pointer ≤ 7
      ∧ (let drains := due.setSeg .sc1 { due.seg .sc1 with mode := .draining }
         !drains.resetPin && (drains.seg .sc1).bus.isNone && (drains.seg .sc1).mode = .draining && !(drains.seg .sc1).drained
           && recordsOk drains) = true
      ∧ isOnBus (.load 7 0 1 [1]) (onBus (.load 7 0 1 [1]) load) = true ∧ isOnBus (.poll 7) (onBus (.poll 7) load) = true := by
  decide +kernel

theorem test_meets_AdmissionStaysWithinTheBudget :
    tight.all (fun e => (Table.get tightRecs e.address).isSome) = true ∧ (scanQueue tightRecs false 300 240 4 tight).isSome = true
      ∧ recordsOk (plate 419) = true ∧ ((plate 419).seg .sc1).bus = none ∧ ((plate 419).seg .sc1).mode = .run ∧ ((plate 419).seg .sc1).drops = []
      ∧ firstDue ((plate 419).seg .sc1).recs = none ∧ ((plate 419).seg .sc1).transfer = none
      ∧ (scanQueue ((plate 419).seg .sc1).recs false 300 0 4 ((plate 419).seg .sc1).queue).map (·.entry.address) = some 7
      ∧ ((plate 419).rec? .sc1 7).isSome = true := by decide +kernel

/-- The body of a good reply. -/
def BusReply.body? : BusReply → Option (List Byte)
  | .valid _ body => some body
  | .silent => none
  | .garbled => none

/-- RoundRobinPollsAreTaken, ReturnProbesAreTaken. -/
theorem test_meets_polls :
    ((quiet7 (Rec.fresh 7 .m none)).seg .sc1).bus = some (.poll 7)
      ∧ (Answer.get? (readState up.lateBytes 7 (frame 7 0x81 [3, 0, 0, 0x80]))).map (fun rep => (rep.busy, rep.temp)) = some (true, -128)
      ∧ readState up.lateBytes 7 .silent = .silent ∧ readState up.lateBytes 7 (frame 8 0x81 [3, 0, 0, 0x80]) = .garbled
      ∧ ((onBus (.probe 96) (withRecs [(96, { Rec.fresh 7 .m none with state := .lost })] up)).rec? .sc1 96).isSome = true
      ∧ (Answer.get? (readIdent up.lateBytes 96 (frame 96 0x84 [0, 0, 0, 0, 0, 7, 3, 2, 1, 1]))).map (fun id => (id.serial, PanelClass.ofCode id.cls)) = some (7, some .l)
      ∧ (Answer.get? (readIdent up.lateBytes 96 (frame 96 0x84 [0, 0, 0, 0, 0, 7, 4, 0, 1, 1]))).map (fun id => PanelClass.ofCode id.cls) = some none
      ∧ readIdent up.lateBytes 96 .silent = .silent ∧ readIdent up.lateBytes 96 (.bytes [1] true) = .garbled
      ∧ ((quiet7 (Rec.fresh 7 .m none)).rec? .sc1 8) = none ∧ recordsOk (quiet7 (Rec.fresh 7 .m none)) = true
      ∧ ((quiet7 (Rec.fresh 7 .m none)).seg .sc1).queue = [] := by decide +kernel

/-- What is heard, class by class: one whole good frame, alone and with bytes after its end, one with a byte less, one of another
kind, one with a framing error, and the replies that no reader takes. -/
theorem test_meets_RoundRobinPollsAreTaken_replies :
    let line := busFrame 7 0x81 [3, 0, 0, 0x80]
    (0x81 : Byte) ∈ [(0x81 : Byte)] ∧ ([3, 0, 0, 0x80] : List Byte).length ≤ 80
      ∧ [readReply 7 [0x81] (.bytes line false), readReply 7 [0x81] (.bytes (line ++ [0, 0xFF]) false),
          readReply 7 [0x81] .silent].map BusReply.body? = [some [3, 0, 0, 0x80], some [3, 0, 0, 0x80], none]
      ∧ [.bytes line.dropLast false, .bytes line true, .bytes [] true, frame 7 0x82 [0]].all
          (fun h => readReply 7 [0x81] h = .garbled) = true
      ∧ readShow up.lateBytes 7 (frame 7 0x83 []) = .valid true ∧ readShow up.lateBytes 7 (frame 7 0x93 []) = .valid false
      ∧ readAsk up.lateBytes (frame 0xFE 0x86 [0, 0, 0, 0, 0, 5]) = .valid 5 ∧ readGive up.lateBytes (frame 0xFE 0x87 [3]) = .valid 3
      ∧ readAck up.lateBytes 7 (frame 7 0x82 [5]) = .valid 5 := by decide +kernel

/-- Replies that pass R108's tests with a body of another length: VALID; bytes beyond the layout are not read, and missing bytes
take nothing from the bytes that are there. -/
theorem test_other_body_lengths :
    readShow up.lateBytes 7 (frame 7 0x83 [9]) = .valid true ∧ readShow up.lateBytes 7 (frame 7 0x93 [9]) = .valid false
      ∧ readState up.lateBytes 7 (frame 7 0x81 [3, 1, 2, 25, 77]) = .valid ⟨true, some 0x0102, 25⟩
      ∧ readAck up.lateBytes 7 (frame 7 0x82 []) ≠ .garbled
      ∧ readShow up.lateBytes 7 (frame 7 0x83 (List.replicate 81 0)) = .garbled := by
  refine ⟨by decide +kernel, by decide +kernel, by decide +kernel, ?_, by decide +kernel⟩
  rw [readAck, show readReply (byte 7) [0x82] (frame 7 0x82 []) = .valid 0x82 [] by decide +kernel]
  nofun

/-- A STATE with its temperature missing: busy and shown digest are read, whatever the missing byte is. -/
theorem test_short_state : ∃ t, readState up.lateBytes 7 (frame 7 0x81 [3, 1, 2]) = .valid ⟨true, some 0x0102, t⟩ := by
  rw [readState, show readReply (byte 7) [0x81] (frame 7 0x81 [3, 1, 2]) = .valid 0x81 [3, 1, 2] by decide +kernel]
  exact ⟨_, rfl⟩

/-- ChunksAreAcknowledgedOrRepeated, ShowStartsTheRefresh. -/
theorem test_meets_transfers :
    (loading.seg .sc1).bus = some (.load 7 0 1 [0x02, 0x01, 3, 0x41, 0x31, 0x32]) ∧ (loading.seg .sc1).transfer.map (·.sends) = some 1
      ∧ (loading.rec? .sc1 7).isSome = true ∧ readAck up.lateBytes 7 (frame 7 0x82 [0]) = .valid 0 ∧ readAck up.lateBytes 7 (frame 7 0x82 [1]) = .valid 1
      ∧ (showing7.seg .sc1).bus = some (.showFace 7 .full 0x75AA 260) ∧ (showing7.seg .sc1).transfer.isSome = true ∧ (showing7.rec? .sc1 7).isSome = true
      ∧ readShow up.lateBytes 7 (frame 7 0x83 []) = .valid true ∧ readShow up.lateBytes 7 (frame 7 0x93 []) = .valid false ∧ readShow up.lateBytes 7 (.bytes [1] false) = .garbled
      ∧ (loading.seg .sc1).transfer.map (·.abandoned) = some false ∧ isOnBus (.load 7 0 1 [0x02, 0x01, 3, 0x41, 0x31, 0x32]) abandoned7 = true
      ∧ (abandoned7.seg .sc1).transfer.map (·.abandoned) = some true ∧ (abandoned7.rec? .sc1 7).isSome = true := by decide +kernel

/-- DurationsScaleWithTemperature: SHOW about to go out and in progress, and the two polls of a record that refreshes. -/
theorem test_meets_DurationsScaleWithTemperature :
    let ready := quietBus [] (some (transferAs 1)) [(7, { Rec.fresh 7 .m none with state := .loading })]
    let polled := onBus (.poll 7) (withRecs [(7, { Rec.fresh 7 .m none with state := .refreshing (refreshAs none) })] up)
    let completing := onBus (.completion 7) (withRecs [(7, { Rec.fresh 7 .m none with state := .refreshing (refreshAs none) })] up)
    ready.resetPin = false ∧ (ready.seg .sc1).bus = none ∧ (ready.seg .sc1).mode = .run ∧ recordsOk ready = true
      ∧ (ready.seg .sc1).drops = [] ∧ (ready.seg .sc1).transfer.map (fun t => (t.ready, t.total, t.next)) = some (true, 1, 1)
      ∧ firstDue (ready.seg .sc1).recs = none ∧ (ready.rec? .sc1 7).isSome = true
      ∧ (showing7.seg .sc1).bus = some (.showFace 7 .full 0x75AA 260) ∧ (showing7.rec? .sc1 7).isSome = true
      ∧ readShow up.lateBytes 7 (frame 7 0x83 []) ≠ .valid false
      ∧ (polled.seg .sc1).bus = some (.poll 7) ∧ (completing.seg .sc1).bus = some (.completion 7)
      ∧ (completing.rec? .sc1 7).map (·.state) = some (.refreshing (refreshAs none))
      ∧ (polled.rec? .sc1 7).map (·.state) = some (.refreshing (refreshAs none))
      ∧ (Answer.get? (readState up.lateBytes 7 (frame 7 0x81 [3, 0, 0, 0x80]))).map (·.busy) = some true
      ∧ (refreshAs none).finalWaits = false := by decide +kernel

/-- RefreshTimesAreTaken, CompletionPollsEndRefreshes. -/
theorem test_meets_refresh_times :
    let polling := after (.roundRobinPoll .sc1 .silent) (after (.completionPollDue .sc1 7) refreshing7)
    (refreshing7.rec? .sc1 7).map (fun x => match x.state with | .refreshing f => (f.nextPoll, f.final) | _ => (0, 0)) = some (260, 325)
      ∧ (refreshing7.seg .sc1).bus ≠ some (.completion 7) ∧ (polling.seg .sc1).bus = some (.completion 7) ∧ polling.resetPin = false
      ∧ ((after (.finalDeadline .sc1 7) polling).rec? .sc1 7).map (fun x => match x.state with | .refreshing f => f.finalWaits | _ => false) = some true
      ∧ (let drains := refreshing7.setSeg .sc1 { refreshing7.seg .sc1 with mode := .draining, bus := none }
         ((after (.finalDeadline .sc1 7) drains).seg .sc1).mode = .keying) := by decide +kernel

theorem test_meets_RollCallGoesThroughTheAddresses :
    ((onBus (.rollIdent 1) up).seg .sc1).rollAddr < 96 ∧ ((onBus (.rollIdent 1) up).rec? .sc1 1) = none ∧ recordsOk (onBus (.rollIdent 1) up) = true
      ∧ (onBus (.rollIdent 1) up).slotOf 9 = none ∧ (plate 419).slotOf 0x111111111111 = some 40 ∧ ((plate 419).holder 40).isSome = true
      ∧ ({ plate 419 with sc := up.sc } : State).holder 40 = none ∧ recordsOk (plate 419) = true
      ∧ readIdent up.lateBytes 1 .silent = .silent ∧ readIdent up.lateBytes 1 (.bytes [1] true) = .garbled ∧ ((onBus (.rollIdent 1) up).seg .sc1).queue = [] := by
  decide +kernel

/-- Segment 1 searching with every address held. -/
def crowded : State := onBus (.ask []) (up.setSeg .sc1
  { Seg.atReset with mode := .searching, recs := (List.range 96).map (fun i => (i + 1, Rec.fresh (BitVec.ofNat 48 i) .s none)) })

theorem test_meets_EnrolmentSearchesTheTree :
    ((inMode .draining none).seg .sc1).drained = true ∧ (refreshing7.seg .sc1).drained = false ∧ ((inMode .starting none).seg .sc1).bus = none
      ∧ (State.reset.seg .sc1).mode = .starting ∧ State.reset.ps.plan = .loading ∧ ((inMode .keying none).seg .sc1).mode = .keying
      ∧ ((searching [] []).seg .sc1).stopWaiting = false ∧ readAsk up.lateBytes (frame 0xFE 0x86 [0, 0, 0, 0, 0, 5]) = .valid 5 ∧ stemOf [true] 5 = false
      ∧ stemOf (List.replicate 45 false ++ [true, false, true]) 5 = true ∧ (List.replicate 48 false).length = 48 ∧ readAsk up.lateBytes (.bytes [1] true) = .garbled
      ∧ freeAddress (crowded.seg .sc1) = none ∧ freeAddress ((searching [] []).seg .sc1) = some 1 := by decide +kernel

theorem test_meets_GivenPanelsAreEnrolledOrRefused :
    let give (s : State) : State := s.setSeg .sc2 { Seg.atReset with mode := .searching, bus := some (.give 0x111111111111 1) }
    let lost : State := (plate 419).setSeg .sc1 { Seg.atReset with mode := .run, recs := [(17, { boundRec 0x111111111111 .m 40 with state := .lost })] }
    readGive up.lateBytes (frame 0xFE 0x87 [3]) = .valid 3 ∧ PanelClass.ofCode 3 = some .l ∧ PanelClass.ofCode 0 = none ∧ readGive up.lateBytes .silent = .silent
      ∧ (give up).slotOf 0x111111111111 = none ∧ (give (plate 419)).slotOf 0x111111111111 = some 40
      ∧ ((give (plate 419)).holder 40).map (fun h => h.rec_.state) = some .queued
      ∧ ((give lost).holder 40).map (fun h => (h.seg, h.address, h.rec_.state)) = some (.sc1, 17, .lost)
      ∧ (give { plate 419 with sc := up.sc }).holder 40 = none ∧ (give lost).rec? .sc2 1 = none ∧ recordsOk (give lost) = true := by decide +kernel

/-- Slot 40 with an URGENT notice in zone 3, an EVACUATE one out of its mask, and a pin. -/
def overridden (notice : Bool) : State :=
  { plate 419 with nu := { (plate 419).nu with
      notices := (2, ⟨.evacuate, b1, none⟩) :: (if notice then [(3, ⟨.urgent, b1, none⟩)] else [])
      pins := [(40, { copy := [0x01], digest := 0x0101 })] } }

theorem test_meets_FacesFollowPrecedence :
    tablesOk (overridden true) = true ∧ tablesOk (overridden false) = true ∧ (Table.get (overridden true).ps.panels 40).isSome = true
      ∧ ((overridden true).holder 40).isSome = true ∧ (8 : Half).getLsbD 3 = true ∧ (8 : Half).getLsbD 2 = false
      ∧ (Table.get (overridden false).nu.pins 40).isSome = true ∧ tablesOk (plate 419) = true := by decide +kernel

/-- A wanted-face change in each state of a record. -/
theorem test_meets_FacesFollowPrecedence_records :
    ((plate 419).rec? .sc1 7).map (·.state) = some .queued ∧ ((quiet7 (Rec.fresh 7 .m none)).rec? .sc1 7).map (·.state) = some .online
      ∧ ((quiet7 { Rec.fresh 7 .m none with state := .lost }).rec? .sc1 7).map (·.state) = some .lost
      ∧ (refreshing7.rec? .sc1 7).map (fun x => match x.state with | .refreshing _ => true | _ => false) = some true
      ∧ [loading, loaded, showing7].all (fun s => (s.rec? .sc1 7).map (·.state) = some .loading && (s.seg .sc1).transfer.isSome) = true
      ∧ [loading, loaded, showing7].map (fun s => (s.seg .sc1).bus)
          = [some (.load 7 0 1 [0x02, 0x01, 3, 0x41, 0x31, 0x32]), some (.poll 7), some (.showFace 7 .full 0x75AA 260)] := by
  decide +kernel

/-- The candidates of section 12's space at a minute of its day: the current and the next one. -/
def onPlate (s : State) : List (Option Nat × Option Nat) :=
  (spaceHolding s.lu.spaces 12).toList.map (fun p =>
    let c := candidates s p.sections
    ((currentOf s c).map (·.1), (nextOf s c).map (·.1)))

/-- 301 and 302 at one time, 303 and 304 after them at one time: the lowest number of each pair is shown. -/
def ties (minute : Nat) : State :=
  reevaluateSessions { plate minute with
    sessions := [(301, { sessionOf 540 600 [12] none with day := 1, cancelled := true }),
      (302, { sessionOf 540 600 [12] none with day := 1, cancelled := true }), (303, { sessionOf 610 620 [12] none with day := 1 }),
      (304, { sessionOf 610 620 [12] none with day := 1, cancelled := true })] }

theorem test_meets_RoleFacesShowTheDay :
    [onPlate (plate 525), onPlate (plate 420), onPlate (plate 419), onPlate (ties 540)]
        = [[(some 301, none)], [(none, some 301)], [(none, none)], [(some 301, some 303)]]
      ∧ (plate 525).lu.spaces.map (·.closed) = [false] ∧ (after (.closeSection 1 12) (plate 420)).lu.spaces.map (·.closed) = [true]
      ∧ Table.rising (plate 525).sessions = true ∧ Table.rising (ties 540).sessions = true := by decide +kernel

/-- RoleFacesShowTheDay: the banner's clauses. An ADVISORY in the mask, one with a lower zone out of it, an URGENT one beside it,
none; and a text of 240 bytes, which is cut. -/
theorem test_meets_RoleFacesShowTheDay_banner :
    let s (l : Table Notice) : State := { plate 525 with nu := { (plate 525).nu with notices := l } }
    let a : Notice := ⟨.advisory, ⟨20, 0, 7⟩, none⟩
    [[(3, a)], [(2, a), (3, a), (4, a)], [(3, a), (4, { a with level := .urgent })], []].map (fun l =>
        (Table.rising (s l).nu.notices, (bannerOf (s l) 0x18).map (fun c => c.bytes.length)))
      = [(true, some 7), (true, some 7), (true, none), (true, none)]
      ∧ (Table.get (plate 525).ps.panels 40).map (·.role) = some (.door 12)
      ∧ (bannerOf { s [(3, { a with text := ⟨20, 0, 240⟩ })] with text := up.text.writeAll 5120 (List.replicate 240 65) } 0x18).map
          (fun c => (c.bytes.length, c.clipped)) = some (128, true) := by decide +kernel

theorem test_meets_ResetsReturnEveryBlock :
    up.resetPin = false ∧ (after .pinResetAssert up).resetPin = true ∧ Instr.identify 1 ≠ .powerOn ∧ Instr.identify 1 ≠ .pinResetRelease
      ∧ up.ps.save = none ∧ (served (.savePlan 1) up).ps.save.map (·.stage) = some .erase
      ∧ (after (.saveBody true) (after (.saveErase true) (served (.savePlan 1) up))).ps.save.map (·.stage) = some .header := by
  decide +kernel

theorem test_meets_LoadEndsReadyOrEmpty :
    up.ps.plan ≠ .loading ∧ State.reset.ps.plan = .loading ∧ (State.reset.seg .sc0).recs = [] ∧ (State.reset.seg .sc0).mode = .starting
      ∧ readImage State.reset.ps.flash = none ∧ State.reset.ps.flash.torn = false := by decide +kernel

/-- A part in LOADING with a session that stands as its plan gives it. -/
def loadingDay : State := { morning 590 with ps := { (morning 590).ps with plan := .loading } }

theorem test_meets_LoadEndsReadyOrEmpty_sessions :
    loadingDay.ps.plan = .loading ∧ loadingDay.sessions ≠ [] ∧ AllCurrent loadingDay := by
  unfold AllCurrent Current
  decide +kernel

theorem planText_length (m : TextMem) : (planText m).length = 4096 := by
  rw [planText, TextMem.readMany, List.length_map, List.length_range]
  decide

/-- The flash of a part that saved a plan with no section, wall, combination or panel slot at revision 41. -/
def goodFlash : Flash :=
  { bytes := imageHeader 41 (imageBody (imageOf up)) ++ imageBody (imageOf up), beyond := none, torn := false }

/-- The clause of a good image is met with this flash in LOADING. -/
theorem test_meets_LoadEndsReadyOrEmpty_good_image : ∃ i, readImage goodFlash = some (41, i) := by
  have hl := planText_length up.text
  have ho : readOptions (optionBytes up.ps.options) = some up.ps.options := by decide +kernel
  have hn : (optionBytes up.ps.options).length = 33 := by decide +kernel
  have hb : imageBody (imageOf up) = block [0] ++ block [0] ++ block [0] ++ block [0, 0] ++ block (optionBytes up.ps.options)
      ++ block (planText up.text) := by
    unfold imageBody imageOf
    generalize planText up.text = b6
    dsimp only
    exact congrArg (· ++ block b6) (by decide +kernel)
  unfold goodFlash
  rw [hb]
  generalize planText up.text = b6 at hl
  have h6 := sixBlocks_blocks (b1 := [0]) (b2 := [0]) (b3 := [0]) (b4 := [0, 0]) (b5 := optionBytes up.ps.options)
    (b6 := b6) (by simp) (by simp) (by simp) (by simp) (by omega) (by omega)
  rw [readImage_header 41 _ (by omega) (by omega) (by simp [block, two]) (by simp [block, two, hn, hl]), readBody, h6]
  simp [readBlocks, readCounted, readEntries, readPanels, num2, half, ho, hl, sectionsGood, wallsGood, combosGood, panelsGood,
    numbersGood, hasRepeat, pairsDistinct, setsDistinct, serialsDistinct, Config.planPages, Config.pageBytes]

theorem pairs {α : Type} {l : List α} {P : α → α → Prop} (h : ∀ e, e ∈ l → ∀ f, f ∈ l → P e f) :
    ∀ e f, e ∈ l → f ∈ l → P e f := fun e f he hf => h e he f hf

/-- Hall B with a door plate and a directory sign planned. -/
def planned : State := { hall with ps := (plain false true true).ps }

theorem test_meets_LoadEndsReadyOrEmpty_saved_plan : PlanSaveable planned := by
  refine ⟨by decide +kernel, by decide +kernel, by decide +kernel, ⟨by decide +kernel, pairs (by decide +kernel)⟩,
    ⟨by decide +kernel, pairs (by decide +kernel)⟩, ⟨fun e he => ?_, pairs (by decide +kernel)⟩,
    by unfold OptionsGood; decide +kernel, by decide +kernel⟩
  have hp : planned.ps.panels = [(3, { serial := 1, role := .door 4, zones := 0 }),
      (9, { serial := 2, role := .directory 4 92 ⟨0, 0, 0⟩, zones := 0 })] := rfl
  rw [hp] at he
  rcases List.mem_pair.1 he with rfl | rfl <;> decide +kernel

/-- One session at the times where the tests of R34 meet. -/
theorem test_meets_PhasesFollowTheClock :
    let x := { sessionOf 540 600 [4] (some 60) with extension := 10 }
    let at_ (minute : Nat) : Phase := phaseAt (timed up 2 minute 0).clock 15 x
    [479, 480, 539, 540, 599, 600, 609, 610].map at_ = [.upcoming, .doors, .doors, .live, .live, .overrun, .overrun, .done]
      ∧ phaseAt { mode := .expired, day := 15, minute := 1439, second := 59 } 15 { x with day := 15, start := 1439, stop := 1440 } = .live
      ∧ x.effectiveEnd = 610 ∧ ({ x with earlyEnd := some 541 } : Session).effectiveEnd = 541 := by decide +kernel

/-- EveryStepKeepsTheBlocksGood, EveryStepKeepsTheTablesGood. -/
theorem test_meets_invariants :
    tablesOk (plate 419) = true ∧ recordsOk (plate 419) = true ∧ (plate 419).text.wf = true
      ∧ (plate 419).li.attention &&& 0xF000 = 0 ∧ (plate 419).li.attn = attnOf (plate 419).resetPin (plate 419).li.attention (plate 419).li.mask
      ∧ (List.range 15).all (fun n => optionInRange n ((plate 419).ps.options.value n)) = true ∧ (plate 419).ps.plan = .ready
      ∧ (plate 419).ps.revision = 41 ∧ (plate 419).ps.save = none ∧ (plate 419).nu.held = false ∧ (plate 419).nu.timer = 0 := by decide +kernel

/-- Of the seven receivers of a minute turnover, ST, NU, FR and SC0–SC3, FR can come between SC0 and SC1, and SC0 first. -/
theorem test_orders_of_a_turnover :
    arrange 42 [0, 1, 2, 3, 4, 5, 6] = [0, 1, 3, 2, 4, 5, 6] ∧ arrange 73 [0, 1, 2, 3, 4, 5, 6] = [3, 2, 4, 0, 5, 1, 6] := by decide

/-- EveryStepKeepsTheBlocksGood, RoleFacesShowTheDay: the premise on the clock. -/
theorem test_meets_ClockGood : ClockGood (plate 419).clock ∧ ClockGood (morning 590).clock := by
  unfold ClockGood
  decide +kernel

theorem test_meets_SpacesGood : SpacesGood hall ∧ SpacesGood joined := by
  unfold SpacesGood
  decide +kernel

/-- EveryStepKeepsTheBlocksGood: the space list and the session map. -/
theorem test_meets_SessionsGood : SessionsGood (morning 590) := by
  have hl : ∀ e, e ∈ (morning 590).sessions → e.2.lead.all (· ≤ 60) = true := by decide +kernel
  have he : ∀ e, e ∈ (morning 590).sessions → e.2.earlyEnd = none := by decide +kernel
  have hr : ∀ e, e ∈ (morning 590).sessions → (1 ≤ e.1 ∧ e.1 ≤ 65535 ∧ e.2.day ≤ 15 ∧ e.2.start < e.2.stop
      ∧ e.2.stop + e.2.extension ≤ 1440 ∧ e.2.extension ≤ 180 ∧ 1 ≤ e.2.sections.length ∧ e.2.sections.length ≤ 12
      ∧ e.2.sections.Pairwise (· < ·) ∧ (∀ i, i ∈ e.2.sections → i < 96) ∧ e.2.track ≤ 15) := by decide +kernel
  refine ⟨by decide +kernel, by decide +kernel, fun e h => ?_, ?_, pairs (by decide +kernel)⟩
  · obtain ⟨a, b, c, d, f, g, i, j, k, l, m⟩ := hr e h
    exact ⟨a, b, c, d, f, g, i, j, k, l, fun n hn => by simpa [hn] using hl e h, m, by simp [he e h]⟩
  · unfold AllCurrent Current
    decide +kernel

/-- The record of the door plate once its face has reached it. -/
def queued7 : Rec :=
  { boundRec 0x111111111111 .m 40 with state := .queued, wantedDigest := 0x75AA, wantedTemplate := .doorIdle }

/-- RoleFacesShowTheDay: the premise on faces. -/
theorem test_meets_FacesNow : FacesNow (plate 419) := by
  intro slot p h hp hh
  have hm := mem_of_get hp
  have : (plate 419).ps.panels = [(40, { serial := 0x111111111111, role := .door 12, zones := 8 })] := rfl
  rw [this, List.mem_singleton] at hm
  obtain ⟨rfl, rfl⟩ := Prod.mk.inj hm
  have : (plate 419).holder 40 = some ⟨.sc1, 7, queued7⟩ := by decide +kernel
  rw [this] at hh
  obtain rfl := Option.some.inj hh
  decide +kernel

/-- Segment 1 of the door plate: its record QUEUED. -/
def segQueued : Seg := { Seg.atReset with
    mode := .run, recs := [(7, queued7)]
    queue := [{ address := 7, cls := .normal, sequence := 0, pass := 0 }], sequence := 1 }

theorem segGood_atReset : SegGood Seg.atReset := by
  constructor <;> simp [Seg.atReset, Seg.polls, StemsGood, Seg.stems, Table.get]

theorem segGood_queued : SegGood segQueued := by
  have get (a : Nat) (r : Rec) : Table.get segQueued.recs a = some r ↔ a = 7 ∧ r = queued7 := by
    show (if 7 = a then some _ else none) = some r ↔ _
    by_cases h : 7 = a
    · subst h; simp [eq_comm]
    · simp [h, Ne.symm h]
  have ht : segQueued.transfer = none := rfl
  have hb : segQueued.bus = none := rfl
  refine ⟨by decide +kernel, ⟨by decide +kernel, by decide +kernel, fun a => ?_⟩, fun a r h => ?_, by simp [ht], by decide +kernel,
    ⟨by decide +kernel, fun e f he => ?_, by simp [ht]⟩, by simp [hb], fun h => absurd (show segQueued.polls from .inl rfl) h,
    fun h => absurd h (by decide),
    ⟨by simp [StemsGood, Seg.stems, segQueued, Seg.atReset], fun _ => rfl, fun h => absurd h (by decide)⟩⟩
  · constructor
    · rintro ⟨e, he, rfl⟩
      obtain rfl := List.mem_singleton.1 he
      exact ⟨_, (get _ _).2 ⟨rfl, rfl⟩, rfl⟩
    · rintro ⟨r, hr, -⟩
      exact ⟨_, List.mem_singleton.2 rfl, ((get _ _).1 hr).1.symm⟩
  · obtain ⟨-, rfl⟩ := (get a r).1 h
    simp [ht, queued7]
  · obtain rfl := List.mem_singleton.1 he
    exact nofun

/-- EveryStepKeepsTheTablesGood: segments and bindings. -/
theorem test_meets_SegmentsGood : SegmentsGood (plate 419) := by
  intro ix
  refine ⟨?_, fun h => absurd h (by decide +kernel)⟩
  cases ix
  · exact segGood_atReset
  · have h : (plate 419).seg .sc1 = segQueued := by decide +kernel
    rw [h]
    exact segGood_queued
  · exact segGood_atReset
  · exact segGood_atReset

theorem test_meets_BindingsGood : BindingsGood (plate 419) := by
  have hp : (plate 419).ps.panels = [(40, { serial := 0x111111111111, role := .door 12, zones := 8 })] := rfl
  refine ⟨fun n m p q hn hm _ => ?_, fun ix a r n hr hb => ?_, ⟨by decide +kernel, fun n h => ?_⟩, fun n h => ?_⟩
  · have h1 := mem_of_get hn
    have h2 := mem_of_get hm
    simp only [hp, List.mem_singleton, Prod.mk.injEq] at h1 h2
    omega
  · have h : ∀ ix, ix ∈ allSegs → ∀ e, e ∈ ((plate 419).seg ix).recs → e.2.binding = some 40 ∧ e.2.serial = 0x111111111111 := by
      decide +kernel
    obtain ⟨h1, h2⟩ := h ix (by cases ix <;> decide) (a, r) (mem_of_get hr)
    obtain rfl := Option.some.inj (hb.symm.trans h1)
    exact ⟨_, rfl, h2.symm⟩
  · have : (plate 419).nu.pins = [] := by decide +kernel
    simp [this, Table.get] at h
  · obtain ⟨x, hx⟩ := Option.isSome_iff_exists.1 h
    have h : ∀ e, e ∈ (plate 419).fr.faces → e.1 = 40 := by decide +kernel
    obtain rfl := h (n, x) (mem_of_get hx)
    decide +kernel

end Sys2Proof.Tests
end

section
/-! PROOFS. The text pool (spec: R57): what a text reference reads. -/

namespace Sys2Proof.Machine

/-! ## A read from an offset: one lemma per stop of R57 -/

section ReadFrom
variable (m : TextMem) (page off n : Nat)

/-- Stop 1 of R57: no read takes more bytes than it was asked for. -/
theorem length_readFrom_le : (readFrom m page off n).bytes.length ≤ n := by
  fun_induction readFrom m page off n with
  | case1 off => exact Nat.le_refl 0
  | case2 off n hend => exact Nat.zero_le _
  | case3 off n hin b hzero => exact Nat.zero_le _
  | case4 off n hin b hbyte rest ih => exact Nat.succ_le_succ ih

/-- Stop 3 of R57: no read goes on to the next page. -/
theorem readFrom_ends_in_page (ho : off ≤ Config.pageBytes) :
    off + (readFrom m page off n).bytes.length ≤ Config.pageBytes := by
  fun_induction readFrom m page off n with
  | case1 off => exact ho
  | case2 off n hend => exact ho
  | case3 off n hin b hzero => exact ho
  | case4 off n hin b hbyte rest ih =>
    have htail : off + 1 + rest.bytes.length ≤ Config.pageBytes := ih (by omega)
    rw [List.length_cons]
    omega

/-- The bytes taken are those of the page in rising offset order, and none of them is 0x00. -/
theorem readFrom_getD : ∀ i, i < (readFrom m page off n).bytes.length →
    (readFrom m page off n).bytes.getD i 0 = m.read (textAddress page (off + i))
      ∧ m.read (textAddress page (off + i)) ≠ 0 := by
  fun_induction readFrom m page off n with
  | case1 off => exact fun i hi => absurd hi (Nat.not_lt_zero i)
  | case2 off n hend => exact fun i hi => absurd hi (Nat.not_lt_zero i)
  | case3 off n hin b hzero => exact fun i hi => absurd hi (Nat.not_lt_zero i)
  | case4 off n hin b hbyte rest ih =>
    rintro (_ | j) hj
    · exact ⟨rfl, hbyte⟩
    · rw [List.getD_cons_succ, show off + (j + 1) = off + 1 + j by omega]
      exact ih j (Nat.lt_of_succ_lt_succ hj)

/-- Stop 2 of R57: a read that ends before its length and before the page end stands at a 0x00. -/
theorem read_eq_zero_of_readFrom_short (hn : (readFrom m page off n).bytes.length < n)
    (hp : off + (readFrom m page off n).bytes.length < Config.pageBytes) :
    m.read (textAddress page (off + (readFrom m page off n).bytes.length)) = 0 := by
  fun_induction readFrom m page off n with
  | case1 off => exact absurd hn (Nat.not_lt_zero 0)
  | case2 off n hend => exact absurd hp (Nat.not_lt.2 hend)
  | case3 off n hin b hzero => exact hzero
  | case4 off n hin b hbyte rest ih =>
    rw [List.length_cons] at hn hp ⊢
    rw [show off + (rest.bytes.length + 1) = off + 1 + rest.bytes.length by omega] at hp ⊢
    exact ih (Nat.lt_of_succ_lt_succ hn) hp

/-- The clipped mark is set exactly when stop 3 of R57 ended the read with bytes still to take. -/
theorem readFrom_clipped_iff (ho : off ≤ Config.pageBytes) :
    (readFrom m page off n).clipped = true ↔
      (readFrom m page off n).bytes.length < n ∧ off + (readFrom m page off n).bytes.length = Config.pageBytes := by
  fun_induction readFrom m page off n with
  | case1 off => simp
  | case2 off n hend => simpa using Nat.le_antisymm ho hend
  | case3 off n hin b hzero => simpa using fun h : off = Config.pageBytes => hin (Nat.le_of_eq h.symm)
  | case4 off n hin b hbyte rest ih =>
    have htail : rest.clipped = true ↔ rest.bytes.length < n ∧ off + 1 + rest.bytes.length = Config.pageBytes :=
      ih (by omega)
    rw [htail, List.length_cons]
    omega

end ReadFrom

/-- Settles O35: `readRef` is `readFrom` at an offset inside the page, so each clause is its lemma above. -/
theorem textReferencesStopAtLengthZeroOrPageEnd : Obligations.TextReferencesStopAtLengthZeroOrPageEnd := by
  intro m ref a o n text k
  have ho : o ≤ Config.pageBytes := Nat.le_of_lt ref.offset.isLt
  have haddr (i : Nat) : a + o + i = textAddress ref.page.toNat (o + i) := Nat.add_assoc a o i
  refine ⟨length_readFrom_le m _ o n, readFrom_ends_in_page m _ o n ho, fun i hi => ?_, fun hn hp => ?_,
    readFrom_clipped_iff m _ o n ho⟩
  · rw [haddr]
    exact readFrom_getD m _ o n i hi
  · rw [haddr]
    exact read_eq_zero_of_readFrom_short m _ o n hn hp

end Sys2Proof.Machine
end

section
/-! PROOFS. The wake key (spec: R135): its shift register, its seeds and the bytes read from it. -/

namespace Sys2Proof.Machine

/-! ## The shift register -/

/-- The feedback of R135: the bit that a shift takes in is the exclusive or of bits 15, 13, 12 and 10. -/
theorem keyShift_getLsbD_zero (r : Half) :
    (keyShift r).getLsbD 0 = Bool.xor (Bool.xor (r.getLsbD 15) (r.getLsbD 13)) (Bool.xor (r.getLsbD 12) (r.getLsbD 10)) := by
  simp [keyShift]

/-- Every other bit moves up by one place. -/
theorem keyShift_getLsbD_succ (r : Half) (i : Nat) (hi : i < 15) : (keyShift r).getLsbD (i + 1) = r.getLsbD i := by
  simp [keyShift, Nat.succ_lt_succ hi, BitVec.getLsbD_eq_getElem (Nat.lt_succ_of_lt hi)]

theorem keyShift8_eq_iterate (r : Half) : keyShift8 r = keyShift^[8] r := rfl

/-- A key byte's eight shifts come before those of the bytes after it. -/
theorem iterate_keyShift_keyShift8 (k : Nat) (r : Half) : keyShift^[k] (keyShift8 r) = keyShift^[k + 8] r := by
  rw [keyShift8_eq_iterate, Function.iterate_add_apply]

/-! ## The bytes of the key -/

@[simp] theorem length_keyFrom (n : Nat) (r : Half) : (keyFrom n r).length = n := by
  induction n generalizing r with
  | zero => rfl
  | succ n ih => rw [keyFrom, List.length_cons, ih]

/-- Key byte `i` is the low byte of the register after the eight shifts of each byte up to and with its own. -/
theorem getD_keyFrom (n i : Nat) (r : Half) (hi : i < n) :
    (keyFrom n r).getD i 0 = (keyShift^[8 * (i + 1)] r).setWidth 8 := by
  induction n generalizing i r with
  | zero => exact absurd hi (Nat.not_lt_zero i)
  | succ n ih =>
    rw [keyFrom]
    cases i with
    | zero => rw [List.getD_cons_zero, keyShift8_eq_iterate, BitVec.setWidth_eq_extractLsb' (by decide)]
    | succ j =>
      rw [List.getD_cons_succ, ih j (keyShift8 r) (Nat.lt_of_succ_lt_succ hi), iterate_keyShift_keyShift8, Nat.mul_succ 8 (j + 1)]

/-- Shifts counted by the places of a range, as the statement writes them. -/
theorem foldl_range_keyShift (k : Nat) (r : Half) : (List.range k).foldl (fun r _ => keyShift r) r = keyShift^[k] r := by
  rw [List.foldl_const, List.length_range]

/-- Settles O44: one shift bit by bit, the four seeds, and the key's bytes by induction on how many are still to come. -/
theorem wakeKeyIsMadeByTheShiftRegister : Obligations.WakeKeyIsMadeByTheShiftRegister := by
  refine ⟨fun r => ⟨keyShift_getLsbD_zero r, keyShift_getLsbD_succ r⟩, by decide, by decide, by decide, by decide,
    fun ix i hi => ⟨length_keyFrom 12 (keySeed ix), ?_⟩⟩
  rw [foldl_range_keyShift]
  exact getD_keyFrom 12 i (keySeed ix) hi

end Sys2Proof.Machine
end

section
/-! PROOFS. Refresh durations (spec: R157, R158): the temperature factor, the duration worked at SHOW, and the deadlines that
stand until the refresh ends. -/

namespace Sys2Proof.Machine

/-! ## The temperature factor -/

/-- A step of `k` tenths from `a` towards `b`, truncated toward zero, stays in every interval that holds both. -/
theorem tenths_mem_Icc {lo hi a b k : Int} (ha : a ∈ Set.Icc lo hi) (hb : b ∈ Set.Icc lo hi) (hk : k ∈ Set.Icc 0 10) :
    a + Int.tdiv ((b - a) * k) 10 ∈ Set.Icc lo hi := by
  obtain ⟨hloA, hhiA⟩ := ha
  obtain ⟨hloB, hhiB⟩ := hb
  obtain ⟨hk0, hk10⟩ := hk
  rcases le_total a b with hab | hba
  · have hpos : 0 ≤ (b - a) * k := mul_nonneg (by omega) hk0
    have hle : (b - a) * k ≤ (b - a) * 10 := mul_le_mul_of_nonneg_left hk10 (by omega)
    rw [Int.tdiv_eq_ediv_of_nonneg hpos]
    constructor <;> omega
  · have hpos : 0 ≤ (a - b) * k := mul_nonneg (by omega) hk0
    have hle : (a - b) * k ≤ (a - b) * 10 := mul_le_mul_of_nonneg_left hk10 (by omega)
    rw [← neg_sub a b, neg_mul, Int.neg_tdiv, Int.tdiv_eq_ediv_of_nonneg hpos]
    constructor <;> omega

theorem breakFactor_mem_Icc : ∀ i, breakFactor i ∈ Set.Icc 224 1024
  | 0 | 1 | 2 | 3 | 4 | 5 | 6 => by simp [breakFactor]
  | _ + 7 => by simp [breakFactor]

/-- R157 between two breakpoints: `d` degrees above the lower one, breakpoint `i`. -/
theorem tempFactor_stretch (i : Nat) {t d : Int} (hi : i < 7) (ht : t = 10 * i - 10 + d) (h0 : 0 ≤ d) (h10 : d < 10) :
    tempFactor t = breakFactor i + Int.tdiv ((breakFactor (i + 1) - breakFactor i) * d) 10 := by
  have hix : ((t + 10) / 10).toNat = i := by omega
  have hd : t - (10 * i - 10) = d := by omega
  simp only [tempFactor, if_neg (show ¬ t < -10 by omega), if_neg (show ¬ 60 ≤ t by omega), hix, hd]

theorem tempFactor_below {t : Int} (h : t < -10) : tempFactor t = 1024 := if_pos h

theorem tempFactor_above {t : Int} (h : 60 ≤ t) : tempFactor t = 240 := by
  rw [tempFactor, if_neg (by omega), if_pos h]

/-- The factor of any temperature lies between those of the breakpoints. -/
theorem tempFactor_mem_Icc (t : Int) : tempFactor t ∈ Set.Icc 224 1024 := by
  by_cases hlow : t < -10
  · simp [tempFactor_below hlow]
  by_cases hhigh : 60 ≤ t
  · simp [tempFactor_above hhigh]
  rw [tempFactor_stretch ((t + 10) / 10).toNat (d := (t + 10) % 10) (by omega) (by omega) (by omega) (by omega)]
  exact tenths_mem_Icc (breakFactor_mem_Icc _) (breakFactor_mem_Icc _) ⟨by omega, by omega⟩

theorem tempFactor_reference : tempFactor 25 = 256 :=
  tempFactor_stretch 3 (d := 5) (by decide) (by decide) (by decide) (by decide)

/-! ## The duration -/

theorem refDuration_mem_Icc (cls : PanelClass) (kind : RefreshKind) : refDuration cls kind ∈ Set.Icc 40 420 := by
  cases cls <;> cases kind <;> decide

/-- At 25 °C the factor is one whole, so nothing is rounded up (R157, R158). -/
theorem durationOf_reference (cls : PanelClass) (kind : RefreshKind) : durationOf cls kind 25 = refDuration cls kind := by
  have hround : (refDuration cls kind * 256 + 255) / 256 = refDuration cls kind := by omega
  rw [durationOf, tempFactor_reference]
  exact hround

/-- R158: the least reference at the least factor gives 35, the greatest at the greatest 1680. -/
theorem durationOf_mem_Icc (cls : PanelClass) (kind : RefreshKind) (t : Int) : durationOf cls kind t ∈ Set.Icc 35 1680 := by
  obtain ⟨hreflo, hrefhi⟩ := refDuration_mem_Icc cls kind
  obtain ⟨hflo, hfhi⟩ := tempFactor_mem_Icc t
  have hlo : 40 * 224 ≤ refDuration cls kind * (tempFactor t).toNat := Nat.mul_le_mul hreflo (by omega)
  have hhi : refDuration cls kind * (tempFactor t).toNat ≤ 420 * 1024 := Nat.mul_le_mul hrefhi (by omega)
  rw [durationOf]
  exact ⟨by omega, by omega⟩

/-! ## The choice of SHOW -/

theorem Table.get_of_mem {α : Type} {t : Table α} {n : Nat} {x : α} (hr : Table.rising t = true) (h : (n, x) ∈ t) :
    Table.get t n = some x := by
  rw [Table.rising_iff] at hr
  induction t with
  | nil => cases h
  | cons e t ih =>
    obtain ⟨k, v⟩ := e
    obtain ⟨hk, ht⟩ := List.pairwise_cons.1 hr
    rw [Table.get_cons]
    rcases List.mem_cons.1 h with h | h
    · cases h
      exact if_pos rfl
    · rw [if_neg (Nat.ne_of_lt (hk _ h)), ih ht h]

/-- No completion poll is due when no refresh in flight has one waiting. -/
theorem firstDue_eq_none {recs : Table Rec} (h : ∀ e ∈ recs, ∀ f, e.2.state = .refreshing f → f.due = none) :
    firstDue recs = none := by
  induction recs with
  | nil => rfl
  | cons e t ih =>
    obtain ⟨a, r⟩ := e
    obtain ⟨hr, ht⟩ := List.forall_mem_cons.1 h
    rw [firstDue, ih ht]
    cases hs : r.state with
    | refreshing f => simp [hr f hs]
    | online => rfl
    | queued => rfl
    | loading => rfl
    | lost => rfl

/-- With its bus quiet, a segment in RUN, or in DRAINING with work left, chooses by the use order of R122. -/
theorem exec_chooseExchange_use {s : State} {ix : SegIx} (hup : s.resetPin = false) (hbus : (s.seg ix).bus = none)
    (hmode : (s.seg ix).mode = .run ∨ ((s.seg ix).mode = .draining ∧ (s.seg ix).drained = false)) :
    exec (.chooseExchange ix) s = .next (chooseByUse ix s) := by
  have hexec : exec (.chooseExchange ix) s = whenUp (chooseIfQuiet ix) s := rfl
  rw [hexec, whenUp_up hup, chooseIfQuiet, hbus]
  rcases hmode with hm | ⟨hm, hd⟩
  · simp [chooseNext, hm]
  · simp [chooseNext, hm, hd]

/-- Order 3 of R122: with no DROP and no completion poll before it, a transfer whose chunks are all sent goes on to SHOW. -/
theorem chooseByUse_show {s : State} {ix : SegIx} {t : Transfer} {x : Rec} (hdrops : (s.seg ix).drops = [])
    (hdue : firstDue (s.seg ix).recs = none) (ht : (s.seg ix).transfer = some t) (hready : t.ready = true)
    (hsent : t.total ≤ t.next) (hx : s.rec? ix t.address = some x) :
    chooseByUse ix s = s.setSeg ix ((s.seg ix).startShow t x) := by
  have hget : Table.get (s.seg ix).recs t.address = some x := hx
  have hframe : (s.seg ix).startTransferFrame = some ((s.seg ix).startShow t x) := by
    simp [Seg.startTransferFrame, ht, hready, Nat.not_lt.2 hsent, hget]
  simp [chooseByUse, hdrops, hdue, hframe]

/-! ## The end of the SHOW exchange -/

theorem exec_showExchange {s : State} {ix : SegIx} {a d : Nat} {kind : RefreshKind} {digest : Half} (heard : Heard)
    (hup : s.resetPin = false) (hbus : (s.seg ix).bus = some (.showFace a kind digest d)) :
    exec (.showExchange ix heard) s = .next (endExchange ix (showOutcome ix a d heard s)) := by
  have hexec : exec (.showExchange ix heard) s = whenUp (endShow ix heard) s := rfl
  rw [hexec, whenUp_up hup, endShow, hbus]

/-- A SHOW that is not refused starts the refresh, whether the panel was heard or not (R162, R164). -/
theorem showOutcome_enters {s : State} {ix : SegIx} {a : Nat} {heard : Heard} {t : Transfer} {x : Rec} (d : Nat)
    (ht : (s.seg ix).transfer = some t) (hx : s.rec? ix a = some x) (hheard : readShow s.lateBytes a heard ≠ .valid false) :
    ∃ y confirmed, showOutcome ix a d heard s = enterRefreshing ix a t y d confirmed s := by
  rw [showOutcome, ht, hx]
  cases hr : readShow s.lateBytes a heard with
  | silent => exact ⟨_, _, rfl⟩
  | garbled => exact ⟨_, _, rfl⟩
  | valid shown =>
    cases shown with
    | true => exact ⟨_, _, rfl⟩
    | false => exact absurd hr hheard

@[simp] theorem rec_enterRefreshing (ix : SegIx) (a : Nat) (t : Transfer) (r : Rec) (d : Nat) (confirmed : Bool) (s : State) :
    (enterRefreshing ix a t r d confirmed s).rec? ix a
      = some { r with state := .refreshing (refreshFrom t d s.time confirmed) } := by
  simp [enterRefreshing, State.rec?]

/-! ## Polls during the refresh -/

theorem exec_roundRobinPoll {s : State} {ix : SegIx} {a : Nat} (heard : Heard) (hup : s.resetPin = false)
    (hbus : (s.seg ix).bus = some (.poll a)) :
    exec (.roundRobinPoll ix heard) s = .next (endExchange ix (movePointer ix a (pollOutcome ix a heard s))) := by
  have hexec : exec (.roundRobinPoll ix heard) s = whenUp (endPoll ix heard) s := rfl
  rw [hexec, whenUp_up hup, endPoll, hbus]

theorem exec_completionPoll {s : State} {ix : SegIx} {a : Nat} (heard : Heard) (hup : s.resetPin = false)
    (hbus : (s.seg ix).bus = some (.completion a)) :
    exec (.completionPoll ix heard) s = .next (endExchange ix (finalAfterPoll ix a (completionOutcome ix a heard s))) := by
  have hexec : exec (.completionPoll ix heard) s = whenUp (endCompletion ix heard) s := rfl
  rw [hexec, whenUp_up hup, endCompletion, hbus]

@[simp] theorem rec_movePointer (ix : SegIx) (a b : Nat) (s : State) : (movePointer ix a s).rec? ix b = s.rec? ix b := by
  simp [movePointer, State.rec?]

/-- The need of a record that refreshes is not evaluated (R150). -/
theorem evaluate_refreshing {ix : SegIx} {a : Nat} {s : State} {x : Rec} {f : Refresh} (hx : s.rec? ix a = some x)
    (hf : x.state = .refreshing f) : evaluate ix a s = s := by
  rw [evaluate, Seg.evaluate_flying _ hx (by simp [hf]) (by simp [hf]), setSeg_seg]

/-- A record that refreshes takes an answered poll's temperature, miss count and cold flag; its shown digest and need stand
(R118). -/
theorem pollAnswered_refreshing {x : Rec} {f : Refresh} (hf : x.state = .refreshing f) (ix : SegIx) (a : Nat) (rep : StateReport)
    (s : State) :
    pollAnswered ix a x rep s
      = raiseIf (newlyCold x (x.heardState s.ps.options.refreshFloor rep)) .cold
          (s.putRec ix a (x.heardState s.ps.options.refreshFloor rep)) := by
  have hidle : x.state.idle = false := by rw [hf]; rfl
  rw [pollAnswered, hidle]
  exact evaluate_refreshing ((rec_raiseIf _ _ _ ix a).trans (rec_putRec_same s ix a _)) hf

/-- A record that refreshes counts a missed round-robin poll and is not lost by it (R118). -/
theorem pollMissed_refreshing {x : Rec} {f : Refresh} (hf : x.state = .refreshing f) (ix : SegIx) (a : Nat) (s : State) :
    pollMissed ix a x s = s.putRec ix a { x with miss := missed x.miss } := by
  simp [pollMissed, hf, RecState.idle]

section Refreshing
variable {s : State} {ix : SegIx} {a : Nat} {x : Rec} {f : Refresh} (hx : s.rec? ix a = some x) (hf : x.state = .refreshing f)
include hx hf

/-- A round-robin poll leaves the refresh as it runs, answered or missed (R118, R158). -/
theorem pollOutcome_refreshing (heard : Heard) :
    ∃ y, (pollOutcome ix a heard s).rec? ix a = some y ∧ y.state = .refreshing f := by
  simp only [pollOutcome, hx, pollAnswered_refreshing hf, pollMissed_refreshing hf]
  cases readState s.lateBytes a heard with
  | silent => exact ⟨_, rec_putRec_same s ix a _, hf⟩
  | garbled => exact ⟨_, rec_putRec_same s ix a _, hf⟩
  | valid rep => exact ⟨_, (rec_raiseIf _ _ _ ix a).trans (rec_putRec_same s ix a _), hf⟩

/-- A completion poll that finds the panel busy leaves the refresh as it runs (R158, R166). -/
theorem completionOutcome_busy {heard : Heard} {rep : StateReport} (hrep : readState s.lateBytes a heard = .valid rep)
    (hbusy : rep.busy = true) : ∃ y, (completionOutcome ix a heard s).rec? ix a = some y ∧ y.state = .refreshing f := by
  refine ⟨x.heardState s.ps.options.refreshFloor rep, ?_, hf⟩
  simp [completionOutcome, hx, hf, hrep, hbusy]

/-- With no final deadline waiting, the end of a completion poll takes none (R168). -/
theorem finalAfterPoll_of_not_waiting (hw : f.finalWaits = false) : finalAfterPoll ix a s = s := by
  simp [finalAfterPoll, hx, hf, hw]

end Refreshing

/-- Settles O43: the factor stretch by stretch, D and its bounds from the factor's, and D followed from the choice of SHOW over
the end of its exchange to the polls during the refresh. -/
theorem durationsScaleWithTemperature : Obligations.DurationsScaleWithTemperature := by
  refine ⟨rfl, rfl, rfl, rfl, rfl, rfl, fun _ => tempFactor_below, fun _ => tempFactor_above,
    fun t _ _ => tempFactor_stretch 0 (by decide) ?_ ?_ ?_, fun t _ _ => tempFactor_stretch 1 (by decide) ?_ ?_ ?_,
    fun t _ _ => tempFactor_stretch 2 (by decide) ?_ ?_ ?_, fun t _ _ => tempFactor_stretch 3 (by decide) ?_ ?_ ?_,
    fun t _ _ => tempFactor_stretch 4 (by decide) ?_ ?_ ?_, fun t h40 h50 => ?stretch5,
    fun t _ _ => tempFactor_stretch 6 (by decide) ?_ ?_ ?_, tempFactor_reference, durationOf_reference,
    fun cls kind t _ _ => ?bounds, fun _ => rfl, fun ix a kind digest d => ?frame,
    fun s ix t x hup hbus hmode hgood hdrops hdue ht hready hsent hx => ?atShow,
    fun s ix a kind digest d heard t x hup hbus ht hx hheard => ?deadlines,
    fun s ix a heard x f hup hx hf => ⟨fun hbus => ?roundRobin, fun rep hbus hrep hbusy hw => ?completion⟩⟩
  case stretch5 =>
    rw [tempFactor_stretch 5 (d := t - 40) (by decide) (by omega) (by omega) (by omega)]
    simp [breakFactor]
  case bounds =>
    obtain ⟨hlo, hhi⟩ := durationOf_mem_Icc cls kind t
    exact ⟨le_trans (by decide) (tempFactor_mem_Icc t).1, rfl, hlo, hhi⟩
  case frame => cases kind <;> rfl
  case atShow =>
    have hnodue : firstDue (s.seg ix).recs = none :=
      firstDue_eq_none fun e he f hf => hdue e.1 e.2 f (Table.get_of_mem (hgood.1 ix) he) hf
    refine ⟨_, exec_chooseExchange_use hup hbus hmode, ?_⟩
    rw [chooseByUse_show hdrops hnodue ht hready hsent hx, seg_setSeg_same, Seg.startShow]
  case deadlines =>
    obtain ⟨y, confirmed, houtcome⟩ := showOutcome_enters d ht hx hheard
    have hrec := rec_enterRefreshing ix a t y d confirmed s
    rw [← houtcome] at hrec
    exact ⟨_, _, _, exec_showExchange heard hup hbus, hrec, rfl, rfl, rfl, rfl, rfl⟩
  case roundRobin =>
    obtain ⟨y, hy, hyf⟩ := pollOutcome_refreshing hx hf heard
    exact ⟨_, y, exec_roundRobinPoll heard hup hbus, by rw [rec_movePointer, hy], hyf⟩
  case completion =>
    obtain ⟨y, hy, hyf⟩ := completionOutcome_busy hx hf hrep hbusy
    refine ⟨_, y, exec_completionPoll heard hup hbus, ?_, hyf⟩
    rw [finalAfterPoll_of_not_waiting hy hyf hw, hy]
  all_goals omega

end Sys2Proof.Machine
end

section
/-! PROOFS. The step, and what a reset leaves (spec: R187, R190, R196, R200, R204). -/

namespace Sys2Proof.Machine

/-! ## The step -/

/-- Settles O1: the match of `step` on a queue with a front. -/
theorem stepTakesFrontCommand : Obligations.StepTakesFrontCommand := fun _ _ _ => rfl

/-- Settles O2: every block of `State.reset` holds its value literally. -/
theorem resetGivesTheManualsValues : Obligations.ResetGivesTheManualsValues := by
  refine ⟨⟨rfl, rfl, rfl, rfl, rfl, rfl, rfl⟩, ⟨rfl, rfl, rfl, rfl⟩, ⟨rfl, rfl, rfl, rfl⟩, rfl, fun _ => rfl, rfl, rfl,
    ⟨rfl, rfl, rfl, rfl⟩, fun ix => ?_, ⟨rfl, rfl, rfl, rfl, rfl⟩,
    ⟨rfl, rfl, rfl, rfl, rfl, rfl, rfl, rfl, rfl, rfl, rfl, fun ix => ?_, rfl⟩⟩
  · have hseg : State.reset.seg ix = Seg.atReset := by cases ix <;> rfl
    rw [hseg]
    exact ⟨rfl, rfl, rfl, rfl, rfl, rfl, rfl, rfl, rfl, rfl, rfl, rfl, rfl, rfl⟩
  · cases ix <;> rfl

/-! ## Resets -/

/-- While RESET is asserted only a power-on and the release of the pin have an effect (R204). -/
theorem exec_held {s : State} (h : s.resetPin = true) (c : Instr) (hp : c ≠ .powerOn) (hr : c ≠ .pinResetRelease) :
    exec c s = .next s := by
  cases c with
  | powerOn => exact absurd rfl hp
  | pinResetRelease => exact absurd rfl hr
  | pinResetAssert => simp [exec, execPinResetAssert, h]
  | secondTick => exact whenUp_held h (fun s => tickHold (tickClock s))
  | holdTimeout => simp [exec, execHoldTimeout, whenUp, h]
  | clockExpire => simp [exec, execClockExpire, whenUp, h]
  | minuteTurnover => simp [exec, execMinuteTurnover, whenUp, h]
  | _ => exact whenUp_held h _

/-- A reset stops a save at its stage: header partly written in the header stage, erased before it (R200). -/
theorem flashAtReset_of_save {s : State} {v : Save} (h : s.ps.save = some v) :
    flashAtReset s = if v.stage = .header then
        { bytes := (List.range 16).map (fun i => Config.flashByte s.li.served i) ++ v.body, beyond := none, torn := true }
      else { bytes := List.replicate 16 0xFF, beyond := some s.li.served, torn := false } := by
  unfold flashAtReset
  cases hs : v.stage <;> simp [h, flashStopped, hs, freeHeader, flashUnwritten]

/-- Settles O56: `resetBlocks` on each of the three reset rows, and `exec_held` for every other command. -/
theorem resetsReturnEveryBlock : Obligations.ResetsReturnEveryBlock := by
  intro s n flash after
  have hflash : flashAtReset s = flash := by
    show flashAtReset s = match s.ps.save with
      | none => s.ps.flash
      | some v => _
    split
    · rename_i hv
      simp [flashAtReset, hv]
    · rename_i v hv
      exact flashAtReset_of_save hv
  have hafter (cause : ResetCause) (pin : Bool) : resetBlocks cause pin s = after cause pin := by
    unfold resetBlocks
    rw [hflash]
    rfl
  refine ⟨congrArg _ (hafter _ _), fun h => ⟨?_, ?_⟩, fun h => ⟨?_, fun c hp hr => exec_held h c hp hr⟩⟩
  · simp [exec, execPinResetAssert, h, hafter]
  · simp [exec, execPinResetRelease, h]
  · simp [exec, execPinResetRelease, h, hafter]

/-! ## The invariants after power-on -/

theorem seg_reset (ix : SegIx) : State.reset.seg ix = Seg.atReset := by cases ix <;> rfl

theorem rec_reset (ix : SegIx) (a : Nat) : State.reset.rec? ix a = none := by
  rw [State.rec?, seg_reset]
  rfl

theorem segGood_reset : SegGood Seg.atReset where
  addresses := by simp [Seg.atReset]
  queue := by simp [Seg.atReset, Table.get]
  loading := by simp [Seg.atReset, Table.get]
  carried := by simp [Seg.atReset]
  reserved := rfl
  ghosts := by simp [Seg.atReset]
  exchange := by simp [Seg.atReset]
  quiet := by simp [Seg.atReset]
  rolled := by simp [Seg.atReset]
  search := by simp [Seg.atReset, Seg.stems, StemsGood]

theorem sessionsGood_reset : SessionsGood State.reset where
  rising := rfl
  count := Nat.zero_le _
  ranges := fun _ he => absurd he List.not_mem_nil
  current := fun _ he => absurd he List.not_mem_nil
  clash := fun _ _ he => absurd he List.not_mem_nil

theorem bindingsGood_reset : BindingsGood State.reset where
  serials := by simp [State.reset, PlanStore.atReset, Table.get]
  bound := fun ix a r n h => by simp [rec_reset] at h
  pins := by simp [State.reset, NoticeUnit.atReset, Table.get]
  faces := by simp [State.reset, Table.get]

/-- Settles O60: tables, map, records and plan are empty at reset, and the options are the defaults. -/
theorem resetIsGood : Obligations.ResetIsGood := by
  refine ⟨by simp [ClockGood, State.reset, Clock.atReset], by simp [HoldGood, State.reset, NoticeUnit.atReset], ?_,
    by simp [PlanGood, State.reset, PlanStore.atReset], rfl, ⟨by decide, by decide⟩, ⟨rfl, rfl, rfl, rfl, rfl, rfl, rfl, rfl, rfl⟩,
    ⟨fun ix => by rw [seg_reset]; rfl, fun ix a r jx b q n h => by simp [rec_reset] at h⟩, rfl, sessionsGood_reset,
    bindingsGood_reset, fun ix => ?_, fun slot p h hp => by simp [State.reset, PlanStore.atReset, Table.get] at hp⟩
  · intro n hn
    have h : ∀ n < 15, optionInRange n (Options.default.value n) = true := by decide
    exact h n hn
  · rw [seg_reset]
    exact ⟨segGood_reset, fun _ => ⟨rfl, rfl, rfl⟩⟩

end Sys2Proof.Machine
end

section
/-! PROOFS. The host line: request bodies, frames, the receiver and the input buffer (spec: R173–R180, R205, R207). -/

namespace Sys2Proof.Machine

/-! ## Words read from bytes and written again -/

theorem halfBytes_half (a b : Byte) : halfBytes (half a b) = [a, b] := by
  simp (disch := decide) only [halfBytes, half, BitVec.extractLsb'_append_eq_of_le, BitVec.extractLsb'_append_eq_of_add_le,
    Nat.sub_self, BitVec.extractLsb'_eq_self]

theorem codeBytes_code4 (a b c d : Byte) : codeBytes (code4 a b c d) = [a, b, c, d] := by
  simp (disch := decide) only [codeBytes, code4, BitVec.extractLsb'_append_eq_of_le, BitVec.extractLsb'_append_eq_of_add_le,
    Nat.reduceSub, BitVec.extractLsb'_eq_self]

theorem serialBytes_serial6 (a b c d e f : Byte) : serialBytes (serial6 a b c d e f) = [a, b, c, d, e, f] := by
  simp (disch := decide) only [serialBytes, serial6, BitVec.extractLsb'_append_eq_of_le,
    BitVec.extractLsb'_append_eq_of_add_le, Nat.reduceSub, BitVec.extractLsb'_eq_self]

/-! ## Request bodies -/

/-- Settles O3: the three bodies with a count are read by their length, every other is a fixed row of bytes. -/
theorem requestBodyReadsBack : Obligations.RequestBodyReadsBack := by
  intro r hr
  cases r with
  | defineCombination rev index name sections =>
    have hn : sections.length % 256 = sections.length := by simp [Request.fits] at hr; omega
    simp [Request.read, Request.kind, Request.body, halfBytes, half_halfBytes, TextRef.bytes, byte, hn]
  | storeSession p =>
    have hn : p.sections.length % 256 = p.sections.length := by simp [Request.fits] at hr; omega
    simp [Request.read, Request.kind, Request.body, halfBytes, half_halfBytes, TextRef.bytes, byte, hn]
  | putText rev page offset data =>
    have hn : 1 ≤ data.length ∧ data.length ≤ 240 := by simpa [Request.fits] using hr
    simp [Request.read, Request.kind, Request.body, halfBytes, half_halfBytes, hn]
  | _ =>
    simp [Request.read, Request.kind, Request.body, halfBytes, half_halfBytes, codeBytes, code4_codeBytes, serialBytes,
      serial6_serialBytes, TextRef.bytes]



/-- A list of known length, byte by byte. -/
theorem eq_map_range_getD {l : List Byte} {n : Nat} (h : l.length = n) : l = (List.range n).map (fun i => l.getD i 0) := by
  subst h
  exact List.ext_getElem (by simp) (by simp +contextual)

/-- A list of at least a length, byte by byte, and the rest. -/
theorem eq_map_range_append_drop {l : List Byte} {n : Nat} (h : n ≤ l.length) :
    l = (List.range n).map (fun i => l.getD i 0) ++ l.drop n := by
  have htake : l.take n = (List.range n).map (fun i => (l.take n).getD i 0) := eq_map_range_getD (by simp [h])
  conv_lhs => rw [← List.take_append_drop n l, htake]
  congr 1
  refine List.map_congr_left fun i hi => ?_
  simp [List.getD_eq_getElem?_getD, List.mem_range.1 hi]

/-- A byte known by its number. -/
theorem eq_ofNat_of_toNat {k : Byte} {n : Nat} (h : k.toNat = n) : k = BitVec.ofNat 8 n := by
  rw [← h, BitVec.ofNat_toNat, BitVec.setWidth_eq]


theorem kind_mem_requestKinds (r : Request) : r.kind ∈ requestKinds := by cases r <;> simp [Request.kind, requestKinds]

section Read

variable {kind : Byte} {body : List Byte}

/-- A request read from a body is of that kind, has that body, and fits. -/
theorem read_eq_request {r : Request} (h : Request.read kind body = .request r) :
    r.fits = true ∧ r.kind = kind ∧ r.body = body ∧ bodyFits kind body := by
  unfold Request.read at h
  dsimp only at h
  split at h
  case h_48 => cases h
  all_goals
    rename_i hkind
    obtain rfl := eq_ofNat_of_toNat hkind
    split at h
    rotate_left
    · cases h
    rename_i heq
    obtain rfl := Asked.request.inj h
    split at heq
    rotate_left
    · cases heq
  all_goals try
    split at heq
    rotate_left
    · cases heq
    rename_i hlen
    obtain rfl := Option.some.inj heq
    refine ⟨?_, rfl, ?_, ?_⟩
    · simp only [Request.fits, Bool.and_eq_true, decide_eq_true_eq]
      omega
    · simp [Request.body, halfBytes_half, TextRef.bytes, byte, hlen]
    · simp only [bodyFits, BitVec.toNat_ofNat, Nat.reduceMod, Nat.reducePow, List.length_cons, List.getD_cons_succ, List.getD_cons_zero]
      omega
  all_goals
    obtain rfl := Option.some.inj heq
    refine ⟨rfl, rfl, ?_, ?_⟩
    · simp [Request.body, halfBytes_half, codeBytes_code4, serialBytes_serial6, TextRef.bytes]
    · simp [bodyFits]

/-- A body that no request of its kind has does not fit. -/
theorem read_eq_badLength {k : Byte} (h : Request.read kind body = .badLength k) :
    k = kind ∧ kind ∈ requestKinds ∧ ¬ bodyFits kind body := by
  unfold Request.read at h
  dsimp only at h
  split at h
  case h_48 => cases h
  all_goals
    rename_i hkind
    obtain rfl := eq_ofNat_of_toNat hkind
    split at h
    · cases h
    rename_i heq
    obtain rfl := Asked.badLength.inj h
    refine ⟨rfl, by decide, fun hfit => ?_⟩
  all_goals try
    have hlow := hfit.1
    have hhigh := hfit.2
    split at heq
    · split at heq
      · cases heq
      rename_i hlen
      refine hlen ?_
      simp only [List.length_cons, List.getD_cons_succ, List.getD_cons_zero] at hlow hhigh
      omega
    · rename_i hno
      apply hno
      exact eq_map_range_append_drop hlow
  all_goals
    split at heq
    · cases heq
    rename_i hno
    apply hno
    exact eq_map_range_getD hfit

/-- A kind that no request has is not in the catalogue. -/
theorem read_eq_unknownKind {k : Byte} (h : Request.read kind body = .unknownKind k) :
    k = kind ∧ kind ∉ requestKinds ∧ ¬ bodyFits kind body := by
  unfold Request.read at h
  dsimp only at h
  split at h
  case h_48 =>
    refine ⟨(Asked.unknownKind.inj h).symm, fun hm => ?_, by simp [bodyFits, *]⟩
    simp only [requestKinds, List.mem_cons, List.not_mem_nil, or_false, ← BitVec.toNat_inj, BitVec.toNat_ofNat,
      BitVec.ofNat_eq_ofNat, Nat.reducePow, Nat.reduceMod] at hm
    grind
  all_goals
    split at h
    · cases h
    · cases h
end Read

/-- A body that fits its kind is that of a request (R180 check 2). -/
theorem exists_request_of_bodyFits {kind : Byte} {body : List Byte} (h : bodyFits kind body) :
    ∃ r : Request, r.fits = true ∧ r.kind = kind ∧ r.body = body := by
  cases hread : Request.read kind body with
  | request r =>
    obtain ⟨hfits, hkind, hbody, -⟩ := read_eq_request hread
    exact ⟨r, hfits, hkind, hbody⟩
  | badLength k =>
    obtain ⟨-, -, hno⟩ := read_eq_badLength hread
    exact absurd h hno
  | unknownKind k =>
    obtain ⟨-, -, hno⟩ := read_eq_unknownKind hread
    exact absurd h hno

theorem read_of_not_fits {kind : Byte} {body : List Byte} (hk : kind ∈ requestKinds) (h : ¬ bodyFits kind body) :
    Request.read kind body = .badLength kind := by
  cases hread : Request.read kind body with
  | request r =>
    obtain ⟨-, -, -, hfit⟩ := read_eq_request hread
    exact absurd hfit h
  | badLength k =>
    obtain ⟨rfl, -, -⟩ := read_eq_badLength hread
    rfl
  | unknownKind k =>
    obtain ⟨-, hno, -⟩ := read_eq_unknownKind hread
    exact absurd hk hno

theorem read_of_not_mem {kind : Byte} (body : List Byte) (hk : kind ∉ requestKinds) :
    Request.read kind body = .unknownKind kind := by
  cases hread : Request.read kind body with
  | request r =>
    obtain ⟨-, rfl, -, -⟩ := read_eq_request hread
    exact absurd (kind_mem_requestKinds r) hk
  | badLength k =>
    obtain ⟨-, hmem, -⟩ := read_eq_badLength hread
    exact absurd hmem hk
  | unknownKind k =>
    obtain ⟨rfl, -, -⟩ := read_eq_unknownKind hread
    rfl

end Sys2Proof.Machine
end

section
/-! PROOFS. Frames of the host line, the receiver and the input buffer (spec: R173–R180, R207). -/

namespace Sys2Proof.Machine

/-! ## CRC-16 -/

/-- A byte enters the high 8 bits of the register. -/
theorem append_zero_eq_shiftLeft (b : Byte) : b ++ 0#8 = b.setWidth 16 <<< 8 := by
  apply BitVec.eq_of_toNat_eq
  have hb : b.toNat < 256 := b.isLt
  rw [BitVec.toNat_append, BitVec.toNat_shiftLeft, BitVec.toNat_setWidth, Nat.shiftLeft_eq, Nat.shiftLeft_eq, BitVec.toNat_ofNat,
    Nat.zero_mod, Nat.or_zero]
  omega

theorem crc16_append (bytes : List Byte) (b : Byte) : crc16 (bytes ++ [b]) = crc16Byte (crc16 bytes) b := by
  simp [crc16]

/-! ## The receiver -/

theorem receiveAll_cons (b : Byte) (l : List Byte) (s : State) : receiveAll (b :: l) s = receiveAll l (receiveByte b s) := rfl

theorem checkFrame_setReceiver (got : List Byte) (r : Receiver) (s : State) :
    checkFrame got (setReceiver r s) = checkFrame got s := by
  rfl

theorem frameLength_append {got : List Byte} (h : 2 ≤ got.length) (rest : List Byte) :
    frameLength (got ++ rest) = frameLength got := by
  match got, h with
  | _ :: _ :: _, _ => rfl

/-- The bytes of a frame up to its last one are received, and the frame is then checked (R175). -/
theorem receiveAll_frame {got rest : List Byte} {s : State} (hs : s.li.receiver = .receiving got) (hrest : rest ≠ [])
    (hlen : (got ++ rest).length = frameBytes (got ++ rest)) (hmax : frameLength (got ++ rest) ≤ Config.bodyBytes) :
    receiveAll rest s = checkFrame (got ++ rest) s := by
  induction rest generalizing got s with
  | nil => exact absurd rfl hrest
  | cons b rest ih =>
    have hsplit : got ++ b :: rest = (got ++ [b]) ++ rest := by simp
    rw [hsplit] at hlen hmax ⊢
    have hbyte : receiveByte b s = takeFrameByte (got ++ [b]) s := by simp [receiveByte, hs]
    have hshort : ¬ ((got ++ [b]).length = 2 ∧ Config.bodyBytes < frameLength (got ++ [b])) := by
      rintro ⟨h2, hlong⟩
      rw [frameLength_append h2.ge] at hmax
      omega
    rw [receiveAll_cons, hbyte, takeFrameByte, if_neg hshort]
    by_cases hlast : rest = []
    · subst hlast
      have hge : 2 ≤ (got ++ [b]).length := by
        rw [List.append_nil] at hlen
        rw [hlen, frameBytes]
        omega
      rw [List.append_nil] at hlen ⊢
      rw [if_pos ⟨hge, hlen⟩]
      rfl
    · have hmore : ¬ (2 ≤ (got ++ [b]).length ∧ (got ++ [b]).length = frameBytes (got ++ [b])) := by
        rintro ⟨h2, hfull⟩
        rw [List.length_append, hfull, frameBytes, frameBytes, frameLength_append h2] at hlen
        exact hlast (List.length_eq_zero_iff.1 (by omega))
      rw [if_neg hmore, ih rfl hlast hlen hmax, checkFrame_setReceiver]

/-- The bytes that CRC-16 covers in a frame. -/
def coveredBytes (kind tag : Byte) (body : List Byte) : List Byte := two body.length ++ [kind, tag] ++ body

theorem hostFrame_eq (kind tag : Byte) (body : List Byte) :
    hostFrame kind tag body = startByte :: (coveredBytes kind tag body ++ halfBytes (crc16 (coveredBytes kind tag body))) := rfl

theorem halfBytes_injective {x y : Half} (h : halfBytes x = halfBytes y) : x = y := by
  simp only [halfBytes, List.cons.injEq, and_true] at h
  rw [← half_halfBytes x, ← half_halfBytes y, h.1, h.2]

/-- A frame of any CRC received in HUNTING: with a good CRC its request is offered, else the receiver enters RESYNC. -/
theorem receiveAll_covered {s : State} (hs : s.li.receiver = .hunting) (kind tag : Byte) {body : List Byte}
    (hb : body.length ≤ 1024) (crc : Half) :
    receiveAll (startByte :: (coveredBytes kind tag body ++ halfBytes crc)) s
      = if crc = crc16 (coveredBytes kind tag body) then offer { tag, asked := Request.read kind body } s
        else setReceiver .resync s := by
  have hstart : receiveByte startByte s = setReceiver (.receiving []) s := by simp [receiveByte, hs]
  have hsame : setReceiver .hunting s = s := by
    rw [← hs]
    rfl
  have hn : frameLength (coveredBytes kind tag body ++ halfBytes crc) = body.length := half_two body.length (by omega)
  have hlen : (coveredBytes kind tag body).length = 4 + body.length := by
    simp only [coveredBytes, two, List.length_append, List.length_cons, List.length_nil]
  rw [receiveAll_cons, hstart, receiveAll_frame (got := []) rfl (by simp [coveredBytes, two])
    (by rw [List.nil_append, frameBytes, hn, List.length_append, hlen]; simp [halfBytes]) (by simpa [hn] using hb), List.nil_append, checkFrame_setReceiver,
    checkFrame, hn, ← hlen, List.drop_left, List.take_left]
  by_cases hc : crc = crc16 (coveredBytes kind tag body)
  · rw [if_pos (congrArg halfBytes hc), if_pos hc]
    show offer _ (setReceiver .hunting s) = _
    rw [hsame]
    rfl
  · rw [if_neg (fun h => hc (halfBytes_injective h)), if_neg hc]

/-- A good frame received in HUNTING is offered to the input buffer. -/
theorem exec_hostFrame {s : State} (hup : s.resetPin = false) (hs : s.li.receiver = .hunting) (kind tag : Byte) {body : List Byte}
    (hb : body.length ≤ 1024) :
    exec (.hostFrameReceived (hostFrame kind tag body)) s = .next (offer { tag, asked := Request.read kind body } s) := by
  rw [show exec (.hostFrameReceived (hostFrame kind tag body)) s = whenUp (receiveAll (hostFrame kind tag body)) s from rfl,
    whenUp_up hup, hostFrame_eq, receiveAll_covered hs kind tag hb, if_pos rfl]

theorem body_length_le {r : Request} (h : r.fits = true) : r.body.length ≤ 1024 := by
  cases r with
  | defineCombination _ _ _ sections => simp [Request.fits] at h; simp [Request.body, halfBytes, TextRef.bytes]; omega
  | storeSession p => simp [Request.fits] at h; simp [Request.body, halfBytes, TextRef.bytes]; omega
  | putText _ _ _ data => simp [Request.fits] at h; simp [Request.body, halfBytes]; omega
  | _ => simp [Request.body, halfBytes, TextRef.bytes, codeBytes, serialBytes]

/-- A frame whose kind and body spell no request is answered at once when LI is free. -/
theorem offer_not_request {s : State} (h : s.li.service = none) (tag : Byte) (asked : Asked) {code : Byte}
    (ha : answer asked s = (s, [code])) : offer { tag, asked } s = s.inService tag asked [code] := by
  rw [offer_free h, enterService, ha]

/-- Settles O4: the CRC byte by byte, and `receiveAll_covered` with what `Request.read` makes of the kind and the body. -/
theorem framesAreTakenOrDiscarded : Obligations.FramesAreTakenOrDiscarded := by
  refine ⟨⟨rfl, fun bytes b => ?_⟩, fun s hup hs => ⟨fun r tag hr => ?_, fun kind body h => exists_request_of_bodyFits h,
    fun kind tag body hb => ⟨fun hk hno hfree => ?_, fun hk => ?_, fun hk hfree => ?_⟩, fun kind tag body crc hb hcrc => ?_⟩⟩
  · rw [crc16_append, crc16Byte, append_zero_eq_shiftLeft]
    simp only [crc16Shift, BitVec.msb_eq_getLsbD_last]
    rfl
  · rw [exec_hostFrame hup hs _ _ (body_length_le hr), requestBodyReadsBack r hr, exec_rowOf, whenUp_up hup]
    rfl
  · rw [exec_hostFrame hup hs _ _ hb, read_of_not_fits hk hno]
    exact congrArg _ (offer_not_request hfree tag _ rfl)
  · rw [exec_hostFrame hup hs _ _ hb]
    exact (whenUp_up hup _).symm
  · rw [exec_hostFrame hup hs _ _ hb, read_of_not_mem body hk]
    exact congrArg _ (offer_not_request hfree tag _ rfl)
  · show whenUp (receiveAll (startByte :: (coveredBytes kind tag body ++ halfBytes crc))) s = _
    rw [whenUp_up hup, receiveAll_covered hs kind tag hb]
    exact congrArg _ (if_neg hcrc)

/-! ## Single bytes and gaps -/

/-- Settles O5: `receiveByte`, `framingError` and the gaps, each in the receiver's state it belongs to. -/
theorem receiverMovesByByteAndGap : Obligations.ReceiverMovesByByteAndGap := by
  intro s hup
  have hrun (f : State → State) : whenUp f s = .next (f s) := whenUp_up hup f
  refine ⟨fun hs => ⟨?_, fun b hb => ?_⟩, fun hs high low => ?_, fun got hs => ⟨?_, ?_⟩, fun hs => ⟨?_, ?_, fun bytes => ?_⟩⟩
  · exact (hrun _).trans (congrArg _ (by simp [receiveByte, hs, startByte]))
  · exact (hrun _).trans (congrArg _ (by simp only [receiveByte, hs]; exact if_neg hb))
  · refine (hrun _).trans (congrArg _ ?_)
    have hfirst : receiveByte high s = setReceiver (.receiving [high]) s := by simp [receiveByte, hs, takeFrameByte]
    have hsecond : receiveByte low (setReceiver (.receiving [high]) s) = takeFrameByte [high, low] (setReceiver (.receiving [high]) s) :=
      rfl
    have hmore : ¬ ([high, low].length = frameBytes [high, low]) := by
      simp only [frameBytes, List.length_cons, List.length_nil]
      omega
    rw [receiveAll_cons, receiveAll_cons, hfirst, hsecond]
    show takeFrameByte [high, low] (setReceiver (.receiving [high]) s) = _
    by_cases hlong : 1024 < num2 high low
    · rw [takeFrameByte, if_pos ⟨rfl, hlong⟩, if_pos hlong]
      rfl
    · rw [takeFrameByte, if_neg (fun h => hlong h.2), if_neg (fun h => hmore h.2), if_neg hlong]
      rfl
  · exact (hrun _).trans (congrArg _ (by simp [framingError, hs]))
  · exact (hrun _).trans (congrArg _ (by simp [receiveGap, hs]))
  · exact (hrun _).trans (congrArg _ (by simp [resyncGap, hs]))
  · exact (hrun _).trans (congrArg _ (by simp [framingError, hs]))
  · refine (hrun _).trans (congrArg _ ?_)
    have hdead (b : Byte) : receiveByte b s = s := by simp [receiveByte, hs]
    induction bytes with
    | nil => rfl
    | cons b bytes ih => rw [receiveAll_cons, hdead, ih]

/-! ## The input buffer and the service -/

/-- Settles O6: the three cases of `offer`. -/
theorem inputBufferHoldsTwoRequests : Obligations.InputBufferHoldsTwoRequests := by
  intro s tag r hup
  have hrow : exec (rowOf tag r) s = .next (offer { tag, asked := .request r } s) := (exec_rowOf tag r s).trans (whenUp_up hup _)
  rw [hrow]
  exact ⟨fun hs => by rw [offer_free hs], fun v hs hw => by simp [offer, hs, hw], fun v w hs hw => by simp [offer, hs, hw]⟩

/-- Settles O7: `endService` with and without a waiting frame. -/
theorem replySentEndsService : Obligations.ReplySentEndsService := by
  intro s v hup hs hv
  have hrow : exec .replySent s = .next (endService s) :=
    (whenUp_up hup replyGone).trans (congrArg _ (by simp [replyGone, hs, hv]))
  rw [hrow]
  exact ⟨fun hw => by simp [endService, hw], fun w hw => by simp [endService, hw], rfl⟩

/-- Settles O8: a common check or the owner refuses, and LOADING refuses by the common checks. -/
theorem refusalsChangeNothing : Obligations.RefusalsChangeNothing := by
  intro s tag r hs
  refine ⟨fun result more hc => exec_common hs tag hc, fun result hc ho => exec_refused hs tag hc ho, fun hf hp hi ht => ?_⟩
  have hload : takenWhileLoading r = false := by
    cases r with
    | identify => exact absurd rfl hi
    | status => exact absurd rfl ht
    | _ => rfl
  exact exec_common hs tag (by simp [commonRefusal, hf, hp, hload])

/-! ## LI's own requests -/

/-- IDENTIFY and STATUS pass the common checks in every plan state (R180 check 3). -/
theorem commonRefusal_takenWhileLoading {s : State} {r : Request} (hr : takenWhileLoading r = true) : commonRefusal r s = none := by
  cases r with
  | identify => simp [commonRefusal, Request.fits, takenWhileLoading, expectedRevision]
  | status => simp [commonRefusal, Request.fits, takenWhileLoading, expectedRevision]
  | _ => cases hr

/-- Settles O10: what the three owners answer; `Request.read` gives UNKNOWN for a kind outside the catalogue. -/
theorem identifyRestartAndUnknownKindsAreAnswered : Obligations.IdentifyRestartAndUnknownKindsAreAnswered := by
  refine ⟨fun s tag hs => ?_, fun s tag hs hp => ?_, fun s tag kind body hs hk => ?_⟩
  · exact (exec_taken (r := .identify) hs tag (commonRefusal_takenWhileLoading rfl) rfl rfl)
  · exact exec_taken (r := .restart) hs tag (commonRefusal_other rfl hp rfl) rfl rfl
  · show whenUp (requestArrives tag (Request.read kind body)) s = _
    rw [whenUp_up hs.1, read_of_not_mem body hk, requestArrives, offer_not_request hs.2 tag _ rfl]
    rfl

/-- The flags that STATUS returns are all that are set, so none is left and ATTN is released (R184, R185). -/
theorem clearFlags_all (s : State) :
    clearFlags s.li.attention s = { s with li := { s.li with attention := 0, attn := false } } := by
  have hzero : s.li.attention &&& ~~~s.li.attention = 0 := BitVec.and_not_self _
  simp [clearFlags, State.setAttention, hzero, attnOf]

/-- Settles O11: the flags returned are all those set. -/
theorem statusReturnsAndClearsFlags : Obligations.StatusReturnsAndClearsFlags := by
  intro s tag hs
  refine (exec_taken (r := .status) hs tag (commonRefusal_takenWhileLoading rfl) rfl rfl).trans ?_
  rw [clearFlags_all]
  simp [statusItems, allSegs]

/-- Settles O12: the mask stored and ATTN judged with RESET released. -/
theorem setMaskJudgesAttn : Obligations.SetMaskJudgesAttn := by
  intro s tag mask hs hp
  refine (exec_taken (r := .setMask mask) hs tag (commonRefusal_other rfl hp rfl) rfl rfl).trans ?_
  simp [State.setMask, attnOf, hs.1]

end Sys2Proof.Machine
end

section
/-! PROOFS. The save and the publish hold (spec: R101–R103, R197–R199). -/

namespace Sys2Proof.Machine

/-! ## The save -/

/-- Settles O15: `savePlan` by the plan state. -/
theorem savePlanStartsASave : Obligations.SavePlanStartsASave := by
  intro s tag hs
  have hc (hp : s.ps.plan ≠ .loading) : commonRefusal .savePlan s = none := commonRefusal_other rfl hp rfl
  refine ⟨fun hp => ?_, fun hp => ?_, fun hp => ?_⟩
  · exact exec_refused (r := .savePlan) hs tag (hc (by simp [hp])) (by simp [owner, savePlan, hp, refuse])
  · exact exec_refused (r := .savePlan) hs tag (hc (by simp [hp])) (by simp [owner, savePlan, hp, refuse])
  · exact exec_taken (r := .savePlan) (items := two s.ps.revision) hs tag (hc (by simp [hp])) rfl (by simp only [owner, savePlan, hp, taken])

theorem exec_saveStage {s : State} (hup : s.resetPin = false) (passed : Bool) :
    exec (.saveErase passed) s = .next (endStage .erase passed s) ∧ exec (.saveBody passed) s = .next (endStage .body passed s)
      ∧ exec (.saveHeader passed) s = .next (endStage .header passed s)
      ∧ exec .flashReadyTimeout s = .next (flashTimesOut s) :=
  ⟨whenUp_up hup _, whenUp_up hup _, whenUp_up hup _, whenUp_up hup _⟩

/-- A stage of the save under way that ends at its own event (R198). -/
theorem endStage_own {s : State} {v : Save} (hv : s.ps.save = some v) (passed : Bool) :
    endStage v.stage passed s = if passed then passStage v s else failSave v s := by simp [endStage, hv]

/-- A failed stage does not depend on whether the flash answered or the wait ran out (R198). -/
theorem flashTimesOut_of_save {s : State} {v : Save} (hv : s.ps.save = some v) : flashTimesOut s = failSave v s := by
  simp [flashTimesOut, hv]

/-- A load refuses a header whose first four bytes are not the marker (R193). -/
theorem readImage_of_marker {f : Flash} {a b c d : Byte} {rest : List Byte} (h : f.bytes = a :: b :: c :: d :: rest)
    (hlen : 12 ≤ rest.length) (hm : [a, b, c, d] ≠ marker) : readImage f = none := by
  have hread : f.read 0 16 = a :: b :: c :: d :: rest.take 12 := by
    rw [Flash.read_held f 0 16 (by simp [h]; omega), h]
    rfl
  unfold readImage
  split
  · rename_i hsplit
    rw [hread] at hsplit
    simp only [List.cons.injEq] at hsplit
    obtain ⟨rfl, rfl, rfl, rfl, -⟩ := hsplit
    rw [if_neg (fun hgood => hm hgood.1)]
  · rfl

/-- Settles O16: `passStage` and `failSave` at each stage; neither header that a failed stage leaves begins with the marker. -/
theorem saveRunsInThreeStages : Obligations.SaveRunsInThreeStages := by
  intro s v hup hv
  obtain ⟨hte, htb, hth, htime⟩ := exec_saveStage hup true
  obtain ⟨hfe, hfb, hfh, -⟩ := exec_saveStage hup false
  rw [flashTimesOut_of_save hv] at htime
  have hpass : endStage v.stage true s = passStage v s := endStage_own hv true
  have hfail : endStage v.stage false s = failSave v s := endStage_own hv false
  refine ⟨fun hst => ?_, fun hst => ?_, fun hst => ?_, ?_, ?_⟩
  · rw [hst] at hpass hfail
    rw [hte, hfe, htime, hpass, hfail]
    simp [passStage, failSave, endSave, flashFailed, flashAfter, hst, flashUnwritten]
  · rw [hst] at hpass hfail
    rw [htb, hfb, htime, hpass, hfail]
    simp [passStage, failSave, endSave, flashFailed, flashAfter, hst, flashUnwritten]
  · rw [hst] at hpass hfail
    rw [hth, hfh, htime, hpass, hfail]
    simp [passStage, failSave, endSave, flashFailed, flashAfter, hst, freeHeader]
  · exact readImage_of_marker rfl (by simp) (by decide)
  · exact readImage_of_marker rfl (by simp) (by decide)

/-! ## The publish hold -/

/-- Settles O38: `holdPublish` and `releasePublish` reply with the state they found. -/
theorem publishHoldIsSetAndReleased : Obligations.PublishHoldIsSetAndReleased := fun _ tag hs hp =>
  ⟨exec_taken (r := .holdPublish) hs tag (commonRefusal_other rfl hp rfl) rfl rfl,
    exec_taken (r := .releasePublish) hs tag (commonRefusal_other rfl hp rfl) rfl rfl⟩

end Sys2Proof.Machine
end

section
/-! PROOFS. What a face is made from: who is bound to a slot, and the inputs of R71 as far as a face shows them. -/

namespace Sys2Proof.Machine

/-! ## Who is bound -/

/-- The bindings of a segment's records, each with the record's class. -/
def Seg.bound (g : Seg) : List (Option Nat × PanelClass) := g.recs.map (fun e => (e.2.binding, e.2.cls))

/-- The bindings of the part, lowest segment first. -/
def State.bound (s : State) : List (Option Nat × PanelClass) := allSegs.flatMap (fun ix => (s.seg ix).bound)

/-- The class of the record bound to a slot. -/
def State.holderClass (s : State) (slot : Nat) : Option PanelClass := (s.holder slot).map (fun h => h.rec_.cls)

theorem bound_eq_map_allRecs (s : State) : s.bound = s.allRecs.map (fun p => (p.rec_.binding, p.rec_.cls)) := by
  simp [State.bound, State.allRecs, Seg.bound, List.map_flatMap, Function.comp_def]

/-- Who is bound to a slot is read off the bindings. -/
theorem holderClass_eq_find (s : State) (slot : Nat) :
    s.holderClass slot = (s.bound.find? (fun e => e.1 = some slot)).map Prod.snd := by
  rw [bound_eq_map_allRecs, List.find?_map, Option.map_map]
  rfl

theorem holderClass_of_bound {s t : State} (h : t.bound = s.bound) (slot : Nat) : t.holderClass slot = s.holderClass slot := by
  rw [holderClass_eq_find, holderClass_eq_find, h]

theorem holder_isSome_eq (s : State) (slot : Nat) : (s.holder slot).isSome = (s.holderClass slot).isSome := by
  simp [State.holderClass]

@[simp] theorem Seg.bound_kept (g : Seg) : g.kept.bound = g.bound := by
  simp [Seg.bound, Seg.kept, Table.mapVals, Rec.kept]

theorem State.bound_congr {s t : State} (h : ∀ ix, (t.seg ix).bound = (s.seg ix).bound) : t.bound = s.bound := by
  simp only [State.bound, h]

/-- Deliveries leave every binding and class as it was. -/
theorem Follows.bound {s t : State} (h : Follows s t) : t.bound = s.bound :=
  State.bound_congr fun ix => by rw [← Seg.bound_kept, h.seg, Seg.bound_kept]

/-! ## The inputs of a face -/

/-- A clock as far as a face shows it: whether it is set, and the day and minute. -/
def Clock.shown (c : Clock) : Clock := { c with mode := if c.mode = .unset then .unset else .running, second := 0 }

/-- A session record as far as a face shows it: without its warning, and with a lead for a cancelled one alone, whose
visibility hangs on it (R36). -/
def Session.shown (doorLead : Nat) (r : Session) : Session :=
  { r with warned := false, lead := if r.cancelled then some (r.leadInForce doorLead) else none }

/-- The inputs of R71 with all else at its reset value. -/
def faceView (s : State) : State :=
  { State.reset with
    lu := { Layout.atReset with spaces := s.lu.spaces }
    clock := s.clock.shown
    sessions := Table.mapVals (Session.shown s.ps.options.doorLead) s.sessions
    text := s.text
    nu := { NoticeUnit.atReset with notices := s.nu.notices }
    ps := { State.reset.ps with options := { Options.default with
      nextWindow := s.ps.options.nextWindow, horizon := s.ps.options.horizon, privateText := s.ps.options.privateText } } }

section View

variable (s : State)

/-- An entry of the session map as the view holds it. -/
def shownEntry (e : Nat × Session) : Nat × Session := (e.1, Session.shown s.ps.options.doorLead e.2)

theorem faceView_sessions : (faceView s).sessions = s.sessions.map (shownEntry s) := rfl

theorem shown_mode_unset (c : Clock) : c.shown.mode = .unset ↔ c.mode = .unset := by
  by_cases h : c.mode = .unset <;> simp [Clock.shown, h]

@[simp] theorem effectiveEnd_shown (lead : Nat) (r : Session) : (r.shown lead).effectiveEnd = r.effectiveEnd := rfl

theorem visibleAt_shown (c : Clock) (lead lead' : Nat) (r : Session) :
    visibleAt c.shown lead' (r.shown lead) = visibleAt c lead r := by
  have hunset : (c.shown.mode ≠ .unset) = (c.mode ≠ .unset) := propext (not_congr (shown_mode_unset c))
  by_cases hc : r.cancelled = true
  · simp only [visibleAt, hunset]
    simp [Session.shown, Session.opening, Session.leadInForce, hc, Clock.shown]
  · simp [visibleAt, Session.shown, hc]

theorem earliest_map {f : Nat × Session → Nat × Session} (hf : ∀ e, (f e).2.start = e.2.start) (l : List (Nat × Session)) :
    earliest (l.map f) = (earliest l).map f := by
  induction l with
  | nil => rfl
  | cons e l ih =>
    rw [List.map_cons, earliest, earliest, ih]
    cases earliest l with
    | none => rfl
    | some x =>
      simp only [Option.map_some, hf]
      split <;> rfl

theorem candidates_faceView (set : List Nat) : candidates (faceView s) set = (candidates s set).map (shownEntry s) := by
  have hunset : (faceView s).clock.mode = .unset ↔ s.clock.mode = .unset := shown_mode_unset s.clock
  unfold candidates
  by_cases h : s.clock.mode = .unset
  · rw [if_pos h, if_pos (hunset.2 h)]
    rfl
  · rw [if_neg h, if_neg (fun hx => h (hunset.1 hx)), faceView_sessions, List.filter_map]
    rfl

theorem runningNow_map (c : List (Nat × Session)) : runningNow (c.map (shownEntry s)) = (runningNow c).map (shownEntry s) := by
  rw [runningNow, List.filter_map]
  rfl

theorem currentOf_faceView (c : List (Nat × Session)) :
    currentOf (faceView s) (c.map (shownEntry s)) = (currentOf s c).map (shownEntry s) := by
  have hvis : ∀ e : Nat × Session, visibleAt (faceView s).clock (faceView s).ps.options.doorLead (shownEntry s e).2
      = visibleAt s.clock s.ps.options.doorLead e.2 := fun e => visibleAt_shown _ _ _ _
  have hearliest := earliest_map (f := shownEntry s) (fun _ => rfl)
  unfold currentOf
  rw [runningNow_map, hearliest, List.filter_map, hearliest]
  simp only [Function.comp_def, hvis]
  cases earliest (runningNow c) <;> rfl

theorem nextOf_faceView (c : List (Nat × Session)) :
    nextOf (faceView s) (c.map (shownEntry s)) = (nextOf s c).map (shownEntry s) := by
  have hearliest := earliest_map (f := shownEntry s) (fun _ => rfl)
  unfold nextOf
  rw [List.filter_map, hearliest]
  rfl

theorem doorSessionFace_faceView (p : Space) (c : List (Nat × Session)) (cur nxt : Option (Nat × Session)) (banner : Option Clip) :
    doorSessionFace (faceView s) p (c.map (shownEntry s)) (cur.map (shownEntry s)) (nxt.map (shownEntry s)) banner
      = doorSessionFace s p c cur nxt banner := by
  unfold doorSessionFace
  rw [runningNow_map, List.length_map]
  cases cur <;> cases nxt <;> rfl

theorem doorFaceOf_faceView (p : Space) (banner : Option Clip) : doorFaceOf (faceView s) p banner = doorFaceOf s p banner := by
  unfold doorFaceOf
  split
  · rfl
  · simp only [candidates_faceView, currentOf_faceView, nextOf_faceView]
    cases hcur : currentOf s (candidates s p.sections) with
    | some e => exact doorSessionFace_faceView s p _ (some e) _ banner
    | none =>
      cases nextOf s (candidates s p.sections) with
      | none => rfl
      | some e => exact doorSessionFace_faceView s p _ none (some e) banner

theorem doorFace_faceView (index : Nat) (banner : Option Clip) : doorFace (faceView s) index banner = doorFace s index banner := by
  unfold doorFace
  rw [show (faceView s).lu.spaces = s.lu.spaces from rfl]
  split
  · exact doorFaceOf_faceView s _ banner
  · rfl

/-- A listed session as the view holds it. -/
def shownListed (e : Listed) : Listed := { e with session := e.session.shown s.ps.options.doorLead }

theorem listedOn_faceView (first count : Nat) (e : Nat × Session) :
    listedOn (faceView s) first count (shownEntry s e) = (listedOn s first count e).map (shownListed s) := by
  have hunset : ((faceView s).clock.mode ≠ .unset) = (s.clock.mode ≠ .unset) := propext (not_congr (shown_mode_unset s.clock))
  unfold listedOn
  rw [show (shownEntry s e).2.homeSpace (faceView s).lu.spaces = e.2.homeSpace s.lu.spaces from rfl]
  cases e.2.homeSpace s.lu.spaces with
  | none => rfl
  | some p =>
    simp only [hunset]
    rw [show shownOnSign (faceView s).clock (faceView s).ps.options.horizon (shownEntry s e).2
      = shownOnSign s.clock s.ps.options.horizon e.2 from rfl]
    rw [apply_ite (Option.map (shownListed s))]
    rfl

theorem insertBy_map {f : Listed → Listed} (hf : ∀ x y, lineBefore (f x) (f y) = lineBefore x y) (x : Listed) (l : List Listed) :
    insertBy lineBefore (f x) (l.map f) = (insertBy lineBefore x l).map f := by
  induction l with
  | nil => rfl
  | cons y l ih =>
    rw [List.map_cons, insertBy, insertBy, hf, ih]
    split <;> rfl

theorem lineList_faceView (first count : Nat) : lineList (faceView s) first count = (lineList s first count).map (shownListed s) := by
  unfold lineList
  rw [faceView_sessions, List.filterMap_map]
  have hlist : s.sessions.filterMap (listedOn (faceView s) first count ∘ shownEntry s)
      = (s.sessions.filterMap (listedOn s first count)).map (shownListed s) := by
    rw [List.map_filterMap]
    exact List.filterMap_congr fun e _ => listedOn_faceView s first count e
  rw [hlist]
  generalize s.sessions.filterMap (listedOn s first count) = l
  unfold sortBy
  induction l with
  | nil => rfl
  | cons x l ih =>
    rw [List.map_cons, List.foldr_cons, List.foldr_cons, ih]
    exact insertBy_map (f := shownListed s) (fun _ _ => rfl) x _

theorem numberLines_faceView (cls : PanelClass) (k : Nat) (l : List Listed) :
    numberLines (faceView s) cls k (l.map (shownListed s)) = numberLines s cls k l := by
  induction l generalizing k with
  | nil => rfl
  | cons e l ih =>
    rw [List.map_cons, numberLines, numberLines, ih]
    rfl

theorem directoryFace_faceView (cls : PanelClass) (first count index : Nat) (heading : TextRef) (banner : Option Clip) :
    directoryFace (faceView s) cls first count index heading banner = directoryFace s cls first count index heading banner := by
  unfold directoryFace
  simp only [lineList_faceView, List.length_map, ← List.map_drop, ← List.map_take, numberLines_faceView]
  rfl

/-- A role face hangs on the view alone. -/
theorem roleFaceOf_faceView (p : PanelSlot) (cls : PanelClass) (index : Nat) :
    roleFaceOf (faceView s) p cls index = roleFaceOf s p cls index := by
  unfold roleFaceOf
  rw [show bannerOf (faceView s) p.zones = bannerOf s p.zones from rfl]
  cases p.role with
  | door sec => simp only [doorFace_faceView]
  | directory first count heading => simp only [lineList_faceView, List.length_map, directoryFace_faceView]

end View

theorem roleFaceOf_congr {s t : State} (h : faceView t = faceView s) (p : PanelSlot) (cls : PanelClass) (index : Nat) :
    roleFaceOf t p cls index = roleFaceOf s p cls index := by
  rw [← roleFaceOf_faceView t, h, roleFaceOf_faceView]

/-- A slot's face hangs on the view, the role face and the slot's pin. -/
theorem resolveFace_congr {s t : State} (h : faceView t = faceView s) {slot : Nat}
    (hpin : Table.get t.nu.pins slot = Table.get s.nu.pins slot) (p : PanelSlot) (role : RoleFace) :
    resolveFace t slot p role = resolveFace s slot p role := by
  have hview : ∀ u : State, resolveFace u slot p role
      = resolveFace { faceView u with nu := { (faceView u).nu with pins := u.nu.pins } } slot p role := fun _ => rfl
  have hget : ∀ (u v : State) (a b : Table Pin), u = v → Table.get a slot = Table.get b slot →
      resolveFace { u with nu := { u.nu with pins := a } } slot p role = resolveFace { v with nu := { v.nu with pins := b } } slot p role := by
    rintro u _ a b rfl hab
    unfold resolveFace
    rw [show winningNotice { u with nu := { u.nu with pins := a } } p.zones = winningNotice u p.zones from rfl,
      show winningNotice { u with nu := { u.nu with pins := b } } p.zones = winningNotice u p.zones from rfl]
    simp only [hab]
    rfl
  rw [hview t, hview s]
  exact hget _ _ _ _ h hpin

end Sys2Proof.Machine
end

section
/-! PROOFS. FR at work (spec: R70–R72, R87): a recomputation puts a slot's face in place and disturbs no other. -/

namespace Sys2Proof.Machine

/-! ## Wanted faces at the segments, record by record -/

theorem leaveLoading_only (ix : SegIx) (a : Nat) (v : Transfer) (x : Rec) (s : State) : OnlyRecord ix a s (leaveLoading ix a v x s) :=
  (leaveLoading_leaves ix a v x s).1

theorem wantedFaceChange_only (ix : SegIx) (a : Nat) (digest : Half) (template : Template) (s : State) :
    OnlyRecord ix a s (wantedFaceChange ix a digest template s) := by
  unfold wantedFaceChange
  split
  · exact OnlyRecord.refl ix a s
  · rename_i r _
    refine (OnlyRecord.putRec ix a { r with wantedDigest := digest, wantedTemplate := template } s).trans ?_
    simp only
    split
    · split
      · exact OnlyRecord.refl ix a _
      · split
        · exact OnlyRecord.setSeg ix a _ _ rfl
        · exact leaveLoading_only ix a _ _ _
    · exact OnlyRecord.evaluate ix a _

theorem leaveLoading_fr (ix : SegIx) (a : Nat) (v : Transfer) (x : Rec) (s : State) : (leaveLoading ix a v x s).fr = s.fr :=
  (leaveLoading_leaves ix a v x s).2.1

@[simp] theorem wantedFaceChange_fr (ix : SegIx) (a : Nat) (digest : Half) (template : Template) (s : State) :
    (wantedFaceChange ix a digest template s).fr = s.fr := by
  unfold wantedFaceChange
  split
  · rfl
  · simp only
    split
    · split
      · rfl
      · split
        · rfl
        · exact leaveLoading_fr ix a _ _ _
    · rfl

/-! ## Records through deliveries -/

/-- A record that is neither in flight nor LOST. -/
def Rec.idle (r : Rec) : Prop := r.state = .online ∨ r.state = .queued

/-- What deliveries may make of a record `x`; with `marks`, quiet-minute maintenance among them (R150, R161, R165, R171). -/
structure Drifts (marks : Prop) (x y : Rec) : Prop where
  idle : x.idle → y.idle
  lost : x.state = .lost → y.state = .lost
  refreshing : ∀ f, x.state = .refreshing f → y.state = .refreshing f
  loading : y.state = .loading → x.state = .loading ∧ y.forcedFull = x.forcedFull
  ghost : y.ghost = x.ghost
  forced : x.forcedFull = true → y.forcedFull = true
  unmarked : ¬ marks ∨ x.ghost = 0 ∨ x.state = .lost ∨ (∃ f, x.state = .refreshing f) → y.forcedFull = x.forcedFull

namespace Drifts

variable {marks : Prop} {x y z : Rec}

theorem refl (marks : Prop) (x : Rec) : Drifts marks x x := ⟨id, id, fun _ => id, fun h => ⟨h, rfl⟩, rfl, id, fun _ => rfl⟩

theorem trans (h : Drifts marks x y) (h' : Drifts marks y z) : Drifts marks x z where
  idle := h'.idle ∘ h.idle
  lost := h'.lost ∘ h.lost
  refreshing f := h'.refreshing f ∘ h.refreshing f
  loading hz := by
    obtain ⟨hy, hsame⟩ := h'.loading hz
    obtain ⟨hx, hsame'⟩ := h.loading hy
    exact ⟨hx, hsame.trans hsame'⟩
  ghost := h'.ghost.trans h.ghost
  forced := h'.forced ∘ h.forced
  unmarked hor := by
    refine (h'.unmarked (hor.imp_right fun hx => ?_)).trans (h.unmarked hor)
    rw [h.ghost]
    exact hx.imp_right (Or.imp h.lost fun ⟨f, hf⟩ => ⟨f, h.refreshing f hf⟩)

theorem mono {marks' : Prop} (h : Drifts marks x y) (hm : marks → marks') : Drifts marks' x y :=
  { h with unmarked := fun hor => h.unmarked (hor.imp_left fun hn hmarks => hn (hm hmarks)) }

/-- A record whose ghost count and mark stand, put in another state. -/
theorem of_same (hghost : y.ghost = x.ghost) (hforced : y.forcedFull = x.forcedFull) (hidle : x.idle → y.idle)
    (hlost : x.state = .lost → y.state = .lost) (hrefreshing : ∀ f, x.state = .refreshing f → y.state = .refreshing f)
    (hloading : y.state = .loading → x.state = .loading) : Drifts marks x y :=
  ⟨hidle, hlost, hrefreshing, fun h => ⟨hloading h, hforced⟩, hghost, fun h => hforced.trans h, fun _ => hforced⟩

end Drifts

/-- Every record of `s` stands in `t`, drifted. -/
def RecsDrift (marks : Prop) (s t : State) : Prop :=
  ∀ ix a x, s.rec? ix a = some x → ∃ y, t.rec? ix a = some y ∧ Drifts marks x y

namespace RecsDrift

variable {marks : Prop} {s t u : State}

theorem of_sc (h : t.sc = s.sc) : RecsDrift marks s t := by
  intro ix a x hx
  refine ⟨x, ?_, Drifts.refl marks x⟩
  unfold State.rec? State.seg at *
  rw [h]
  exact hx

theorem trans (h : RecsDrift marks s t) (h' : RecsDrift marks t u) : RecsDrift marks s u := by
  intro ix a x hx
  obtain ⟨y, hy, hxy⟩ := h ix a x hx
  obtain ⟨z, hz, hyz⟩ := h' ix a y hy
  exact ⟨z, hz, hxy.trans hyz⟩

theorem mono {marks' : Prop} (h : RecsDrift marks s t) (hm : marks → marks') : RecsDrift marks' s t := by
  intro ix a x hx
  obtain ⟨y, hy, hxy⟩ := h ix a x hx
  exact ⟨y, hy, hxy.mono hm⟩

theorem of_only {ix : SegIx} {a : Nat} (h : OnlyRecord ix a s t)
    (hrec : ∀ x, s.rec? ix a = some x → ∃ y, t.rec? ix a = some y ∧ Drifts marks x y) : RecsDrift marks s t := by
  intro jx b x hx
  by_cases hj : jx = ix
  · subst hj
    by_cases hb : b = a
    · exact hb ▸ hrec x (hb ▸ hx)
    · exact ⟨x, (h.rec_other hb).trans hx, Drifts.refl marks x⟩
  · refine ⟨x, ?_, Drifts.refl marks x⟩
    unfold State.rec? at *
    rw [h.others jx hj]
    exact hx

end RecsDrift

/-- What a need evaluated makes of its record (R150). -/
theorem evaluate_rec {ix : SegIx} {a : Nat} {s : State} {x : Rec} (marks : Prop) (hx : s.rec? ix a = some x) :
    ∃ y, (evaluate ix a s).rec? ix a = some y ∧ Drifts marks x y := by
  unfold State.rec? at *
  rw [seg_evaluate_same]
  by_cases hidle : x.idle
  · refine ⟨_, Seg.evaluate_idle .maint hx hidle, ?_⟩
    have hnext (b : Bool) : Rec.idle { x with state := if b then .queued else .online } := by
      cases b
      · exact Or.inl rfl
      · exact Or.inr rfl
    refine Drifts.of_same rfl rfl (fun _ => hnext _) (fun h => ?_) (fun f h => ?_) (fun h => ?_)
    · rcases hidle with h' | h' <;> rw [h'] at h <;> cases h
    · rcases hidle with h' | h' <;> rw [h'] at h <;> cases h
    · rcases hnext x.needs with h' | h' <;> rw [h'] at h <;> cases h
  · refine ⟨x, ?_, Drifts.refl marks x⟩
    rw [Seg.evaluate_flying .maint hx (fun h => hidle (Or.inl h)) (fun h => hidle (Or.inr h))]
    exact hx

/-- A record in LOADING that leaves it may become anything but REFRESHING. -/
theorem leaveLoading_rec {ix : SegIx} {a : Nat} {v : Transfer} {s : State} {x : Rec} (marks : Prop) (hs : x.state = .loading) :
    ∃ y, (leaveLoading ix a v x s).rec? ix a = some y ∧ Drifts marks x y := by
  obtain ⟨-, -, -, -, -, -, hlost, hqueued, honline⟩ := leaveLoading_leaves ix a v x s
  have hdrift (st : RecState) : Drifts marks x { x with state := st } := by
    refine Drifts.of_same rfl rfl (fun h => ?_) (fun h => ?_) (fun f h => ?_) (fun _ => hs)
    · rcases h with h | h <;> rw [hs] at h <;> cases h
    · rw [hs] at h
      cases h
    · rw [hs] at h
      cases h
  by_cases hm : s.ps.options.missLimit ≤ x.miss
  · exact ⟨_, (hlost hm).1, hdrift _⟩
  · cases hn : x.needs with
    | true => exact ⟨_, (hqueued (Nat.lt_of_not_le hm) hn).1, hdrift _⟩
    | false => exact ⟨_, (honline (Nat.lt_of_not_le hm) hn).1, hdrift _⟩

theorem wantedFaceChange_drift (marks : Prop) (ix : SegIx) (a : Nat) (digest : Half) (template : Template) (s : State) :
    RecsDrift marks s (wantedFaceChange ix a digest template s) := by
  refine RecsDrift.of_only (wantedFaceChange_only ix a digest template s) (fun x hx => ?_)
  unfold wantedFaceChange
  rw [hx]
  simp only
  have hput : Drifts marks x { x with wantedDigest := digest, wantedTemplate := template } :=
    Drifts.of_same rfl rfl id id (fun _ => id) id
  split
  · rename_i hstate _
    split
    · exact ⟨_, rec_putRec_same _ _ _ _, hput⟩
    · split
      · refine ⟨_, ?_, hput⟩
        unfold State.rec?
        rw [seg_setSeg_same]
        exact rec_putRec_same s ix a _
      · obtain ⟨y, hy, hxy⟩ := leaveLoading_rec (ix := ix) (a := a) marks (x := { x with wantedDigest := digest, wantedTemplate := template }) hstate
        exact ⟨y, hy, hput.trans hxy⟩
  · obtain ⟨y, hy, hxy⟩ := evaluate_rec marks (rec_putRec_same s ix a { x with wantedDigest := digest, wantedTemplate := template })
    exact ⟨y, hy, hput.trans hxy⟩

/-! ## Flags that deliveries to the segments raise -/

theorem bit_getLsbD (f g : Flag) : f.bit.getLsbD g.number = decide (g = f) := by cases f <;> cases g <;> rfl

theorem flagSet_raise_other {f g : Flag} (h : g ≠ f) (s : State) : flagSet (raise f s) g = flagSet s g := by
  simp [flagSet, raise, State.setAttention, bit_getLsbD, h]

theorem leaveLoading_flags (ix : SegIx) (a : Nat) (v : Transfer) (x : Rec) (s : State) {f : Flag} (hf : f ≠ .panel) :
    flagSet (leaveLoading ix a v x s) f = flagSet s f := by
  unfold leaveLoading
  simp only
  split
  · exact flagSet_raise_other hf _
  · split <;> rfl

theorem wantedFaceChange_flags (ix : SegIx) (a : Nat) (digest : Half) (template : Template) (s : State) {f : Flag} (hf : f ≠ .panel) :
    flagSet (wantedFaceChange ix a digest template s) f = flagSet s f := by
  unfold wantedFaceChange
  split
  · rfl
  · simp only
    split
    · split
      · rfl
      · split
        · rfl
        · exact leaveLoading_flags ix a _ _ _ hf
    · rfl

/-! ## Deliveries that FR makes -/

/-- `t` is `s` after work of FR: deliveries to segments, the sessions untouched, the records drifted, no flag but PANEL raised. -/
structure FaceWork (s t : State) : Prop where
  follows : Follows s t
  sessions : t.sessions = s.sessions
  drift : RecsDrift False s t
  flags : ∀ f, f ≠ .panel → flagSet t f = flagSet s f

namespace FaceWork

variable {s t u : State}

theorem refl (s : State) : FaceWork s s := ⟨Follows.refl s, rfl, RecsDrift.of_sc rfl, fun _ _ => rfl⟩

theorem trans (h : FaceWork s t) (h' : FaceWork t u) : FaceWork s u :=
  ⟨h.follows.trans h'.follows, h'.sessions.trans h.sessions, h.drift.trans h'.drift,
    fun f hf => (h'.flags f hf).trans (h.flags f hf)⟩

theorem faceView (h : FaceWork s t) : faceView t = faceView s := by
  simp only [Machine.faceView, h.sessions, h.follows.lu, h.follows.clock, h.follows.text, h.follows.nu, h.follows.ps]

theorem holderClass (h : FaceWork s t) (slot : Nat) : t.holderClass slot = s.holderClass slot :=
  holderClass_of_bound h.follows.bound slot

theorem dropOrder (s : State) : FaceWork s s.dropOrder := ⟨dropOrder_follows s, rfl, RecsDrift.of_sc rfl, fun _ _ => rfl⟩

theorem forEach {α : Type} (l : List α) (f : α → State → State) (hf : ∀ x ∈ l, ∀ s, FaceWork s (f x s)) (s : State) :
    FaceWork s (forEach l f s) :=
  forEach_keeps (FaceWork s) l f (fun u h => h.trans (dropOrder u)) (fun x hx u h => h.trans (hf x hx u)) s (refl s)

end FaceWork

theorem wantedFaceChange_work (ix : SegIx) (a : Nat) (digest : Half) (template : Template) (s : State) :
    FaceWork s (wantedFaceChange ix a digest template s) :=
  ⟨wantedFaceChange_follows ix a digest template s, (wantedFaceChange_only ix a digest template s).sessions,
    wantedFaceChange_drift _ ix a digest template s, fun _ hf => wantedFaceChange_flags ix a digest template s hf⟩

theorem storeFace_work (s : State) (slot : Nat) (role : RoleFace) (f : FaceRec) : FaceWork s (s.storeFace slot role f) :=
  ⟨storeFace_follows s slot role f, rfl, RecsDrift.of_sc rfl, fun _ _ => rfl⟩

theorem recomputeSlot_work (slot : Nat) (s : State) : FaceWork s (recomputeSlot slot s) := by
  unfold recomputeSlot
  split
  · simp only
    split
    · exact storeFace_work s _ _ _
    · exact (storeFace_work s _ _ _).trans (wantedFaceChange_work _ _ _ _ _)
  · exact ⟨dropFace_follows s slot, rfl, RecsDrift.of_sc rfl, fun _ _ => rfl⟩

theorem recomputeAll_work (s : State) : FaceWork s (recomputeAll s) :=
  FaceWork.forEach _ _ (fun slot _ s => recomputeSlot_work slot s) s

theorem recomputeZone_work (zone : Nat) (s : State) : FaceWork s (recomputeZone zone s) :=
  FaceWork.forEach _ _ (fun slot _ s => recomputeSlot_work slot s) s

/-! ## A face in place -/

/-- The face FR holds for a slot is the one its inputs give, for a record of a class (R71–R73, R87). -/
def FaceStands (s : State) (slot : Nat) (p : PanelSlot) (cls : PanelClass) : Prop :=
  Table.get s.fr.faces slot = some (resolveFace s slot p (roleFaceOf s p cls (s.pageIndex slot)))
    ∧ ((roleFaceOf s p cls (s.pageIndex slot)).pages.isSome = true →
      (roleFaceOf s p cls (s.pageIndex slot)).index = s.pageIndex slot)

/-- The faces stand, but perhaps not those of some slots. -/
def FacesExcept (stale : Nat → Prop) (s : State) : Prop :=
  ∀ slot p cls, Table.get s.ps.panels slot = some p → s.holderClass slot = some cls → ¬ stale slot → FaceStands s slot p cls

/-- `FacesNow` says of a holder its class alone. -/
theorem facesNow_iff (s : State) : FacesNow s ↔ FacesExcept (fun _ => False) s := by
  constructor
  · intro h slot p cls hp hc _
    obtain ⟨holder, hh, rfl⟩ := Option.map_eq_some_iff.1 hc
    exact h slot p holder hp hh
  · intro h slot p holder hp hh
    exact h slot p holder.rec_.cls hp (by rw [State.holderClass, hh]; rfl) (fun hf => hf)

theorem FacesExcept.mono {P Q : Nat → Prop} {s : State} (h : FacesExcept P s) (hPQ : ∀ n, P n → Q n) : FacesExcept Q s :=
  fun slot p cls hp hc hq => h slot p cls hp hc (fun hs => hq (hPQ slot hs))

/-- A face stands through what leaves its inputs, its pin and what FR holds for its slot. -/
theorem FaceStands.congr {s t : State} {slot : Nat} {p : PanelSlot} {cls : PanelClass} (h : FaceStands s slot p cls)
    (hview : faceView t = faceView s) (hpin : Table.get t.nu.pins slot = Table.get s.nu.pins slot)
    (hface : Table.get t.fr.faces slot = Table.get s.fr.faces slot) (hpage : t.pageIndex slot = s.pageIndex slot) :
    FaceStands t slot p cls := by
  unfold FaceStands at *
  rw [hpage, roleFaceOf_congr hview, resolveFace_congr hview hpin, hface]
  exact h

/-- The faces stand through what leaves the inputs, the plan, the bindings, the pins and FR. -/
theorem FacesExcept.congr {P : Nat → Prop} {s t : State} (h : FacesExcept P s) (hview : faceView t = faceView s)
    (hpins : t.nu.pins = s.nu.pins) (hpanels : t.ps.panels = s.ps.panels) (hbound : t.bound = s.bound) (hfr : t.fr = s.fr) :
    FacesExcept P t := by
  intro slot p cls hp hc hs
  rw [hpanels] at hp
  rw [holderClass_of_bound hbound] at hc
  exact (h slot p cls hp hc hs).congr hview (by rw [hpins]) (by rw [hfr]) (by rw [State.pageIndex, hfr]; rfl)

/-- `FacesNow` by the same measure. -/
theorem FacesNow.congr {s t : State} (h : FacesNow s) (hview : faceView t = faceView s) (hpins : t.nu.pins = s.nu.pins)
    (hpanels : t.ps.panels = s.ps.panels) (hbound : t.bound = s.bound) (hfr : t.fr = s.fr) : FacesNow t :=
  (facesNow_iff t).2 (((facesNow_iff s).1 h).congr hview hpins hpanels hbound hfr)

/-! ## One slot recomputed -/

theorem pageKept_pageKept (index count : Nat) : pageKept (pageKept index count) count = pageKept index count := by
  unfold pageKept
  by_cases h : index < count
  · simp [h]
  · simp [h]

/-- A role face at the page index it shows is the same role face (R87). -/
theorem roleFaceOf_index {s : State} {p : PanelSlot} {cls : PanelClass} {index : Nat}
    (h : (roleFaceOf s p cls index).pages.isSome = true) :
    roleFaceOf s p cls (roleFaceOf s p cls index).index = roleFaceOf s p cls index := by
  unfold roleFaceOf at *
  cases hr : p.role with
  | door sec => simp [hr] at h
  | directory first count heading => simp only [pageKept_pageKept]

/-- What FR holds after a bound slot is recomputed. -/
theorem recomputeSlot_fr_bound {s : State} {slot : Nat} {p : PanelSlot} {cls : PanelClass} (hp : Table.get s.ps.panels slot = some p)
    (hc : s.holderClass slot = some cls) :
    let role := roleFaceOf s p cls (s.pageIndex slot)
    (recomputeSlot slot s).fr = (s.storeFace slot role (resolveFace s slot p role)).fr := by
  obtain ⟨holder, hh, rfl⟩ := Option.map_eq_some_iff.1 hc
  unfold recomputeSlot
  simp only [hp, hh]
  split
  · rfl
  · exact wantedFaceChange_fr _ _ _ _ _

theorem pages_storeFace_other (s : State) {slot m : Nat} (h : m ≠ slot) (role : RoleFace) (f : FaceRec) :
    Table.get (s.storeFace slot role f).fr.pages m = Table.get s.fr.pages m := by
  unfold State.storeFace
  split <;> simp [h]

/-- What FR holds for the other slots stands. -/
theorem recomputeSlot_fr_other (s : State) {slot m : Nat} (h : m ≠ slot) :
    Table.get (recomputeSlot slot s).fr.faces m = Table.get s.fr.faces m
      ∧ Table.get (recomputeSlot slot s).fr.pages m = Table.get s.fr.pages m := by
  unfold recomputeSlot
  split
  · rename_i p holder _ _
    simp only
    have hstore (role : RoleFace) (f : FaceRec) : Table.get (s.storeFace slot role f).fr.faces m = Table.get s.fr.faces m
        ∧ Table.get (s.storeFace slot role f).fr.pages m = Table.get s.fr.pages m :=
      ⟨by simp [State.storeFace, h], pages_storeFace_other s h role f⟩
    split
    · exact hstore _ _
    · rw [wantedFaceChange_fr]
      exact hstore _ _
  · exact ⟨by simp [State.dropFace, h], rfl⟩

/-- A bound slot recomputed has its face (R71). -/
theorem recomputeSlot_stands {s : State} {slot : Nat} {p : PanelSlot} {cls : PanelClass} (hp : Table.get s.ps.panels slot = some p)
    (hc : s.holderClass slot = some cls) : FaceStands (recomputeSlot slot s) slot p cls := by
  have hwork := recomputeSlot_work slot s
  have hfr := recomputeSlot_fr_bound hp hc
  simp only at hfr
  generalize hrole : roleFaceOf s p cls (s.pageIndex slot) = role at hfr
  have hface : Table.get (recomputeSlot slot s).fr.faces slot = some (resolveFace s slot p role) := by
    rw [hfr]
    exact Table.get_put_same _ _ _
  have hpages : (recomputeSlot slot s).pageIndex slot = if role.pages.isSome then role.index else s.pageIndex slot := by
    rw [State.pageIndex, hfr]
    unfold State.storeFace State.pageIndex
    split <;> simp
  have hsame : roleFaceOf (recomputeSlot slot s) p cls ((recomputeSlot slot s).pageIndex slot) = role := by
    rw [roleFaceOf_congr hwork.faceView, hpages, ← hrole]
    split
    · rename_i hsome
      exact roleFaceOf_index hsome
    · rfl
  refine ⟨?_, fun hsome => ?_⟩
  · rw [hsame, hface, resolveFace_congr hwork.faceView (by rw [hwork.follows.nu])]
  · rw [hsame] at hsome ⊢
    rw [hpages, if_pos hsome]

/-- A slot recomputed is stale no more, and no other slot becomes stale. -/
theorem recomputeSlot_faces {stale : Nat → Prop} {s : State} (h : FacesExcept stale s) (slot : Nat) :
    FacesExcept (fun n => stale n ∧ n ≠ slot) (recomputeSlot slot s) := by
  have hwork := recomputeSlot_work slot s
  intro m p cls hp hc hstale
  rw [hwork.follows.ps] at hp
  rw [hwork.holderClass] at hc
  by_cases hm : m = slot
  · subst hm
    exact recomputeSlot_stands hp hc
  · obtain ⟨hface, hpage⟩ := recomputeSlot_fr_other s hm
    exact (h m p cls hp hc (fun hs => hstale ⟨hs, hm⟩)).congr hwork.faceView (by rw [hwork.follows.nu]) hface
      (by rw [State.pageIndex, hpage, State.pageIndex])

/-- Slots recomputed one after another are stale no more. -/
theorem foldl_recomputeSlot_faces {stale : Nat → Prop} {s : State} (h : FacesExcept stale s) (l : List Nat) :
    FacesExcept (fun n => stale n ∧ n ∉ l) (l.foldl (fun s slot => recomputeSlot slot s) s) := by
  induction l generalizing stale s with
  | nil => exact h.mono (fun n hn => ⟨hn, List.not_mem_nil⟩)
  | cons slot l ih =>
    refine (ih (recomputeSlot_faces h slot)).mono (fun n hn => ⟨hn.1.1, ?_⟩)
    simp [hn.1.2, hn.2]

theorem FacesExcept.dropOrder {stale : Nat → Prop} {s : State} (h : FacesExcept stale s) : FacesExcept stale s.dropOrder :=
  h.congr rfl rfl rfl rfl rfl

theorem forEach_recomputeSlot_faces {stale : Nat → Prop} {s : State} (h : FacesExcept stale s) (l : List Nat) :
    FacesExcept (fun n => stale n ∧ n ∉ l) (forEach l recomputeSlot s) := by
  refine (foldl_recomputeSlot_faces h.dropOrder (arrange s.nextOrder l)).mono (fun n hn => ⟨hn.1, ?_⟩)
  rw [← (arrange_perm s.nextOrder l).mem_iff]
  exact hn.2

theorem mem_keys_of_get {α : Type} {t : Table α} {n : Nat} {x : α} (h : Table.get t n = some x) : n ∈ Table.keys t := by
  induction t with
  | nil => cases h
  | cons e t ih =>
    obtain ⟨k, v⟩ := e
    rw [Table.get_cons] at h
    split at h
    · rename_i hk
      exact hk ▸ List.mem_cons_self
    · exact List.mem_cons_of_mem _ (ih h)

theorem mem_boundSlots {s : State} {slot : Nat} {p : PanelSlot} {cls : PanelClass} (hp : Table.get s.ps.panels slot = some p)
    (hc : s.holderClass slot = some cls) : slot ∈ s.boundSlots := by
  refine List.mem_filter.2 ⟨mem_keys_of_get hp, ?_⟩
  rw [holder_isSome_eq, hc]
  rfl

/-- Every bound slot recomputed: every face stands, whatever stood before. -/
theorem recomputeAll_faces (s : State) : FacesNow (recomputeAll s) := by
  have hnone : FacesExcept (fun _ => True) s := fun _ _ _ _ _ hs => absurd trivial hs
  have hwork := recomputeAll_work s
  rw [facesNow_iff]
  intro slot p cls hp hc _
  have hmem : slot ∈ s.boundSlots := mem_boundSlots (hwork.follows.ps ▸ hp) (hwork.holderClass slot ▸ hc)
  exact forEach_recomputeSlot_faces hnone _ slot p cls hp hc (fun hs => hs.2 hmem)

/-- The slots of a zone recomputed: the slots that a zone reaches are stale no more. -/
theorem recomputeZone_faces {stale : Nat → Prop} {s : State} (zone : Nat) (h : FacesExcept stale s) :
    FacesExcept (fun n => stale n ∧ (Table.get s.ps.panels n).any (fun p => inZone p.zones zone) = false) (recomputeZone zone s) := by
  have hwork := recomputeZone_work zone s
  intro slot p cls hp hc hstale
  refine forEach_recomputeSlot_faces h _ slot p cls hp hc (fun hs => hstale ⟨hs.1, ?_⟩)
  have hmem : slot ∈ s.boundSlots := mem_boundSlots (hwork.follows.ps ▸ hp) (hwork.holderClass slot ▸ hc)
  simpa [List.mem_filter, hmem] using hs.2

/-! ## Faces through FR's work -/

theorem FacesNow.dropOrder {s : State} (h : FacesNow s) : FacesNow s.dropOrder := h.congr rfl rfl rfl rfl rfl

theorem FacesNow.recomputeSlot {s : State} (h : FacesNow s) (slot : Nat) : FacesNow (recomputeSlot slot s) :=
  (facesNow_iff _).2 ((recomputeSlot_faces ((facesNow_iff s).1 h) slot).mono (fun _ hn => hn.1))

theorem FacesNow.wantedFaceChange {s : State} (h : FacesNow s) (ix : SegIx) (a : Nat) (digest : Half) (template : Template) :
    FacesNow (wantedFaceChange ix a digest template s) :=
  have hwork := wantedFaceChange_work ix a digest template s
  h.congr hwork.faceView (by rw [hwork.follows.nu]) (by rw [hwork.follows.ps]) hwork.follows.bound (wantedFaceChange_fr _ _ _ _ _)

end Sys2Proof.Machine
end

section
/-! PROOFS. ST re-evaluated and the spaces derived afresh (spec: R17, R38, R51, R71): what a delivery establishes and what it keeps. -/

namespace Sys2Proof.Machine

/-! ## One event taken by several receivers -/

/-- What one of several things done establishes under an invariant, and each keeps, holds after all, in any order. -/
theorem forEach_establishes {α : Type} {I P : State → Prop} {l : List α} {f : α → State → State} {x0 : α} (hmem : x0 ∈ l)
    (hdrop : ∀ s, I s → I s.dropOrder) (hI : ∀ x ∈ l, ∀ s, I s → I (f x s)) (h0 : ∀ s, I s → P (f x0 s))
    (hP : ∀ x ∈ l, ∀ s, I s → P s → P (f x s)) {s : State} (hs : I s) : P (forEach l f s) := by
  have hperm := arrange_perm s.nextOrder l
  unfold forEach
  have key : ∀ (k : List α) (u : State), (∀ x ∈ k, x ∈ l) → I u → (P u ∨ x0 ∈ k) → P (k.foldl (fun s x => f x s) u) := by
    intro k
    induction k with
    | nil => exact fun u _ _ hor => hor.elim id (fun h => absurd h List.not_mem_nil)
    | cons x k ih =>
      intro u hk hu hor
      have hx := hk x List.mem_cons_self
      refine ih (f x u) (fun y hy => hk y (List.mem_cons_of_mem _ hy)) (hI x hx u hu) ?_
      rcases hor with hp | hin
      · exact Or.inl (hP x hx u hu hp)
      · rcases List.mem_cons.1 hin with rfl | hin
        · exact Or.inl (h0 u hu)
        · exact Or.inr hin
  exact key _ _ (fun x hx => hperm.mem_iff.1 hx) (hdrop s hs) (Or.inr (hperm.mem_iff.2 hmem))

/-- What one receiver establishes under an invariant, and every receiver keeps, holds after a delivery in any order. -/
theorem deliver_establishes {I P : State → Prop} {l : List (State → State)} {f0 : State → State} (hmem : f0 ∈ l)
    (hdrop : ∀ s, I s → I s.dropOrder) (hI : ∀ f ∈ l, ∀ s, I s → I (f s)) (h0 : ∀ s, I s → P (f0 s))
    (hP : ∀ f ∈ l, ∀ s, I s → P s → P (f s)) {s : State} (hs : I s) : P (deliver l s) :=
  forEach_establishes hmem hdrop hI h0 hP hs

/-! ## The sessions current -/

/-- `AllCurrent` reads the sessions, the clock, the door lead and the spaces. -/
theorem AllCurrent.congr {s t : State} (h : AllCurrent s) (hsessions : t.sessions = s.sessions) (hclock : t.clock = s.clock)
    (hlead : t.ps.options.doorLead = s.ps.options.doorLead) (hspaces : t.lu.spaces = s.lu.spaces) : AllCurrent t := by
  intro e he
  unfold Current
  rw [hclock, hlead, hspaces]
  exact h e (hsessions ▸ he)

theorem FaceWork.current {s t : State} (h : FaceWork s t) (hs : AllCurrent s) : AllCurrent t :=
  hs.congr h.sessions h.follows.clock (by rw [h.follows.ps]) (by rw [h.follows.lu])

/-- A record evaluated and its warning judged is current. -/
theorem current_evalSession (s : State) (r : Session) : Current s (s.evalSession r).judgeWarning := ⟨rfl, rfl, rfl, rfl⟩

theorem updateSessions_sessions (s : State) :
    (updateSessions s).sessions = Table.mapVals (fun r => (s.evalSession r).judgeWarning) s.sessions := by
  simp [updateSessions, Table.mapVals_mapVals]

theorem updateSessions_current (s : State) : AllCurrent (updateSessions s) := by
  have hf := updateSessions_follows s
  intro e he
  rw [updateSessions_sessions] at he
  obtain ⟨e0, _, rfl⟩ := List.mem_map.1 he
  unfold Current
  rw [hf.clock, hf.ps, hf.lu]
  exact current_evalSession s e0.2

theorem recomputeAll_current {s : State} (h : AllCurrent s) : AllCurrent (recomputeAll s) := (recomputeAll_work s).current h

theorem reevaluateAll_current (changed : Bool) (s : State) : AllCurrent (reevaluateAll changed s) := by
  unfold reevaluateAll
  split
  · exact recomputeAll_current (updateSessions_current s)
  · exact updateSessions_current s

theorem reevaluateAll_sessions (changed : Bool) (s : State) : (reevaluateAll changed s).sessions = (updateSessions s).sessions := by
  unfold reevaluateAll
  split
  · exact (recomputeAll_work _).sessions
  · rfl

/-! ## LAYOUT -/

/-- Each new warning of `t` has raised LAYOUT (R51). -/
def WarnsLayout (s t : State) : Prop :=
  ∀ n x y, Table.get s.sessions n = some x → Table.get t.sessions n = some y → x.warned = false → y.warned = true →
    flagSet t .layout = true

theorem mem_of_get {α : Type} {t : Table α} {n : Nat} {x : α} (h : Table.get t n = some x) : (n, x) ∈ t := by
  induction t with
  | nil => cases h
  | cons e t ih =>
    rw [Table.get_cons] at h
    split at h
    · rename_i hk
      injection h with hv
      subst hk hv
      exact List.mem_cons_self
    · exact List.mem_cons_of_mem _ (ih h)

/-- Follow-up work that leaves the sessions keeps the warning raised. -/
theorem WarnsLayout.follows {s t u : State} (h : WarnsLayout s t) (hf : Follows t u) (hsessions : u.sessions = t.sessions) :
    WarnsLayout s u :=
  fun n x y hx hy hw hw' => flagSet_of_grow hf.grow (h n x y hx (hsessions ▸ hy) hw hw')

/-- Deliveries leave the numbers of the session map. -/
theorem Follows.session_isSome {s t : State} (h : Follows s t) (n : Nat) :
    (Table.get t.sessions n).isSome = (Table.get s.sessions n).isSome := by
  have := congrArg (fun m => (Table.get m n).isSome) h.stored
  simpa using this

theorem WarnsLayout.refl (s : State) : WarnsLayout s s := by
  intro n x y hx hy hw hw'
  rw [hx] at hy
  rw [← Option.some.inj hy, hw] at hw'
  cases hw'

/-- A warning is new at one of two steps. -/
theorem WarnsLayout.trans {s t u : State} (h : WarnsLayout s t) (h' : WarnsLayout t u)
    (hkeys : ∀ n, (Table.get t.sessions n).isSome = (Table.get s.sessions n).isSome)
    (hgrow : t.li.attention &&& u.li.attention = t.li.attention) : WarnsLayout s u := by
  intro n x y hx hy hw hw'
  obtain ⟨z, hz⟩ := Option.isSome_iff_exists.1 ((hkeys n).trans (by rw [hx]; rfl))
  cases hzw : z.warned with
  | true => exact flagSet_of_grow hgrow (h n x z hx hz hw hzw)
  | false => exact h' n z y hz hy hzw hw'

theorem updateSessions_warns (s : State) : WarnsLayout s (updateSessions s) := by
  intro n x y hx hy hw hw'
  rw [updateSessions_sessions, Table.get_mapVals, hx] at hy
  obtain rfl := Option.some.inj hy
  have hwarns : (s.evalSession x).warns = true := by
    have hkept : (s.evalSession x).warned = false := hw
    simpa [Session.warns, hkept, Session.judgeWarning] using hw'
  have hany : (Table.mapVals s.evalSession s.sessions).any (fun e => e.2.warns) = true :=
    List.any_eq_true.2 ⟨(n, s.evalSession x), List.mem_map.2 ⟨(n, x), mem_of_get hx, rfl⟩, hwarns⟩
  unfold updateSessions raiseIf
  rw [if_pos hany]
  exact flagSet_raise _ _

theorem reevaluateAll_warns (changed : Bool) (s : State) : WarnsLayout s (reevaluateAll changed s) := by
  unfold reevaluateAll
  split
  · have hwork := recomputeAll_work (updateSessions s)
    exact (updateSessions_warns s).follows hwork.follows hwork.sessions
  · exact updateSessions_warns s

/-! ## Faces through ST's work -/

theorem FacesNow.of_follows {s t : State} (h : FacesNow s) (hf : Follows s t)
    (hsessions : Table.mapVals (Session.shown s.ps.options.doorLead) t.sessions
      = Table.mapVals (Session.shown s.ps.options.doorLead) s.sessions) (hfr : t.fr = s.fr) : FacesNow t := by
  refine h.congr ?_ (by rw [hf.nu]) (by rw [hf.ps]) hf.bound hfr
  simp only [faceView, hf.lu, hf.clock, hf.text, hf.nu, hf.ps, hsessions]

/-- A record that does not move is as it was, its warning aside. -/
theorem evalSession_of_not_moved {s : State} {r : Session} (h : r.moved (s.evalSession r) = false) : s.evalSession r = r := by
  have hsame : r.phase = (s.evalSession r).phase ∧ r.home = (s.evalSession r).home ∧ r.placed = (s.evalSession r).placed := by
    simpa [Session.moved, and_assoc] using h
  obtain ⟨hphase, hhome, hplaced⟩ := hsame
  calc s.evalSession r
      = { r with phase := (s.evalSession r).phase, home := (s.evalSession r).home, placed := (s.evalSession r).placed } := rfl
    _ = r := by rw [← hphase, ← hhome, ← hplaced]

theorem updateSessions_fr (s : State) : (updateSessions s).fr = s.fr := by simp [updateSessions]

theorem updateSessions_faces {s : State} (h : FacesNow s) (hm : sessionsMove s = false) : FacesNow (updateSessions s) := by
  refine h.of_follows (updateSessions_follows s) ?_ (updateSessions_fr s)
  rw [updateSessions_sessions, Table.mapVals_mapVals]
  unfold Table.mapVals
  refine List.map_congr_left (fun e he => congrArg (Prod.mk e.1) ?_)
  have hstay : e.2.moved (s.evalSession e.2) = false := by
    unfold sessionsMove at hm
    simpa using List.any_eq_false.1 hm e he
  show Session.shown _ (s.evalSession e.2).judgeWarning = _
  rw [evalSession_of_not_moved hstay]
  rfl

theorem reevaluateAll_faces {changed : Bool} {s : State} (h : changed = false → FacesNow s) : FacesNow (reevaluateAll changed s) := by
  unfold reevaluateAll
  split
  · exact recomputeAll_faces _
  · rename_i hx
    simp only [Bool.or_eq_true, not_or, Bool.not_eq_true] at hx
    exact updateSessions_faces (h hx.1) hx.2

theorem FacesNow.reevaluateAll {changed : Bool} {s : State} (h : FacesNow s) : FacesNow (reevaluateAll changed s) :=
  reevaluateAll_faces (fun _ => h)

/-! ## A change of the spaces taken -/

theorem SpacesTaken.refl (s : State) : SpacesTaken s s where
  sessions h := h.resolve_left (fun hne => hne rfl)
  warned := WarnsLayout.refl s
  faces h := h.resolve_left (fun hne => hne rfl)

/-- Two changes of the spaces, one after the other. -/
theorem SpacesTaken.trans {s t u : State} (h : SpacesTaken s t) (h' : SpacesTaken t u)
    (hkeys : ∀ n, (Table.get t.sessions n).isSome = (Table.get s.sessions n).isSome)
    (hgrow : t.li.attention &&& u.li.attention = t.li.attention) : SpacesTaken s u := by
  have hstep {P : State → Prop} (h1 : t.lu.spaces ≠ s.lu.spaces ∨ P s → P t) (h2 : u.lu.spaces ≠ t.lu.spaces ∨ P t → P u) :
      u.lu.spaces ≠ s.lu.spaces ∨ P s → P u := by
    intro hor
    by_cases hut : u.lu.spaces = t.lu.spaces
    · exact h2 (Or.inr (h1 (hut ▸ hor)))
    · exact h2 (Or.inl hut)
  exact ⟨hstep h.sessions h'.sessions, WarnsLayout.trans h.warned h'.warned hkeys hgrow, hstep h.faces h'.faces⟩

/-- What reads and writes beside the sessions, the spaces and the faces does not matter. -/
theorem SpacesTaken.congr {s s' t t' : State} (h : SpacesTaken s' t)
    (hs : s.sessions = s'.sessions ∧ s.lu.spaces = s'.lu.spaces ∧ (AllCurrent s → AllCurrent s') ∧ (FacesNow s → FacesNow s'))
    (ht : t'.sessions = t.sessions ∧ t'.lu.spaces = t.lu.spaces ∧ (AllCurrent t → AllCurrent t') ∧ (FacesNow t → FacesNow t')
      ∧ (flagSet t .layout = true → flagSet t' .layout = true)) : SpacesTaken s t' := by
  obtain ⟨hsessions, hspaces, hcurrent, hfaces⟩ := hs
  obtain ⟨hsessions', hspaces', hcurrent', hfaces', hflag⟩ := ht
  refine ⟨fun hor => hcurrent' (h.sessions ?_), fun n x y hx hy hw hw' => hflag (h.warned n x y (hsessions ▸ hx) (hsessions' ▸ hy) hw hw'),
    fun hor => hfaces' (h.faces ?_)⟩
  · rw [hspaces', hspaces] at hor
    exact hor.imp_right hcurrent
  · rw [hspaces', hspaces] at hor
    exact hor.imp_right hfaces

/-- Faces are read from the sessions, the spaces, the clock, the text, NU, the options, the plan's panels and the bindings. -/
theorem FacesNow.of_inputs {s t : State} (h : FacesNow s) (hspaces : t.lu.spaces = s.lu.spaces) (hclock : t.clock = s.clock)
    (hsessions : t.sessions = s.sessions) (htext : t.text = s.text) (hnu : t.nu = s.nu) (hoptions : t.ps.options = s.ps.options)
    (hpanels : t.ps.panels = s.ps.panels) (hsc : t.sc = s.sc) (hfr : t.fr = s.fr) : FacesNow t := by
  refine h.congr ?_ (by rw [hnu]) hpanels ?_ hfr
  · simp only [faceView, hspaces, hclock, hsessions, htext, hnu, hoptions]
  · exact State.bound_congr (fun ix => by unfold State.seg; rw [hsc])

/-! ## The spaces derived afresh -/

/-- The receivers of a space change (R17). -/
def spaceReceivers : List (State → State) := [reevaluateSessions, recomputeAll]

theorem mem_spaceReceivers {f : State → State} : f ∈ spaceReceivers ↔ f = reevaluateSessions ∨ f = recomputeAll := by
  simp [spaceReceivers]

theorem rederive_eq (s : State) : rederive s = if deriveSpaces s.lu = s.lu.spaces then s
    else deliver spaceReceivers { s with lu := s.lu.derived } := rfl

/-- A space change, in either order of its receivers, leaves every session current, every face as its inputs give it, and
LAYOUT raised for each new warning. -/
theorem deliver_spaceReceivers (u : State) :
    AllCurrent (deliver spaceReceivers u) ∧ FacesNow (deliver spaceReceivers u) ∧ WarnsLayout u (deliver spaceReceivers u) := by
  have hI : ∀ f ∈ spaceReceivers, ∀ v, WarnsLayout u v ∧ Follows u v → WarnsLayout u (f v) ∧ Follows u (f v) := by
    rintro f hf v ⟨hw, hv⟩
    rcases mem_spaceReceivers.1 hf with rfl | rfl
    · have hnext := reevaluateSessions_follows v
      exact ⟨hw.trans (reevaluateAll_warns false v) hv.session_isSome hnext.grow, hv.trans hnext⟩
    · have hwork := recomputeAll_work v
      exact ⟨hw.follows hwork.follows hwork.sessions, hv.trans hwork.follows⟩
  have hdrop : ∀ v, WarnsLayout u v ∧ Follows u v → WarnsLayout u v.dropOrder ∧ Follows u v.dropOrder :=
    fun v hv => ⟨hv.1, hv.2.trans (dropOrder_follows v)⟩
  have hstart : WarnsLayout u u ∧ Follows u u := ⟨WarnsLayout.refl u, Follows.refl u⟩
  have hst : reevaluateSessions ∈ spaceReceivers := mem_spaceReceivers.2 (Or.inl rfl)
  have hfr : recomputeAll ∈ spaceReceivers := mem_spaceReceivers.2 (Or.inr rfl)
  refine ⟨deliver_establishes hst hdrop hI (fun v _ => reevaluateAll_current false v) (fun f hf v _ h => ?_) hstart,
    deliver_establishes hfr hdrop hI (fun v _ => recomputeAll_faces v) (fun f hf v _ h => ?_) hstart,
    deliver_establishes (P := WarnsLayout u) hst hdrop hI (fun v hv => (hI _ hst v hv).1) (fun f hf v hv _ => (hI f hf v hv).1) hstart⟩
  · rcases mem_spaceReceivers.1 hf with rfl | rfl
    · exact reevaluateAll_current false v
    · exact recomputeAll_current h
  · rcases mem_spaceReceivers.1 hf with rfl | rfl
    · exact h.reevaluateAll
    · exact recomputeAll_faces v

theorem rederive_taken (s : State) : SpacesTaken s (rederive s) := by
  rw [rederive_eq]
  split
  · exact SpacesTaken.refl s
  · obtain ⟨hcurrent, hfaces, hwarned⟩ := deliver_spaceReceivers { s with lu := s.lu.derived }
    exact ⟨fun _ => hcurrent, hwarned, fun _ => hfaces⟩

/-- The tables of LU replaced and the spaces derived afresh. -/
theorem rederive_tables_taken (s : State) {lu : Layout} (hlu : lu.spaces = s.lu.spaces) :
    SpacesTaken s (rederive { s with lu }) :=
  (rederive_taken { s with lu }).congr
    ⟨rfl, hlu.symm, fun h => h.congr rfl rfl rfl hlu, fun h => h.of_inputs hlu rfl rfl rfl rfl rfl rfl rfl rfl⟩
    ⟨rfl, rfl, id, id, id⟩

/-! ## Requests that change the layout -/

theorem SpacesTaken.inService {s t : State} (h : SpacesTaken s t) (tag : Byte) (asked : Asked) (reply : List Byte) :
    SpacesTaken s (t.inService tag asked reply) :=
  h.congr ⟨rfl, rfl, id, id⟩
    ⟨rfl, rfl, fun h => h.congr rfl rfl rfl rfl, fun h => h.of_inputs rfl rfl rfl rfl rfl rfl rfl rfl rfl, id⟩

theorem SpacesTaken.commitEdit {s t : State} (h : SpacesTaken s t) : SpacesTaken s (commitEdit t) :=
  h.congr ⟨rfl, rfl, id, id⟩
    ⟨rfl, rfl, fun h => h.congr rfl rfl rfl rfl, fun h => h.of_inputs rfl rfl rfl rfl rfl rfl rfl rfl rfl, id⟩

/-- A request that is no plan edit, whose owner answers what follows `base` with the spaces taken. -/
theorem completesLayout_of_owner {s base u : State} (h : Free s) (tag : Byte) {r : Request} {items : List Byte}
    (hc : commonRefusal r s = none) (he : expectedRevision r = none) (ho : owner r s = .ok (u, items))
    (hu : Follows base u) (ht : SpacesTaken s u) : CompletesLayout (rowOf tag r) s base tag r (0x00 :: items) :=
  ⟨_, exec_taken h tag hc he ho, hu.inService tag _ _, ht.inService tag _ _⟩

/-- A plan edit whose owner derives the spaces afresh from new tables of LU. -/
theorem completesLayout_of_edit {s : State} (tag : Byte) {r : Request} {rev : Half} {lu : Layout} (h : Serves s r)
    (he : expectedRevision r = some rev) (hlu : lu.spaces = s.lu.spaces) (ho : owner r s = .ok (rederive { s with lu }, [])) :
    CompletesLayout (rowOf tag r) s (commitEdit { s with lu := lu.derived }) tag r (editReply s []) := by
  have hu := rederive_lu s lu
  exact ⟨_, exec_edit h.1 tag (commonRefusal_of_serves h) he ho (by rw [hu.ps]), hu.commitEdit.inService tag _ _,
    (rederive_tables_taken s hlu).commitEdit.inService tag _ _⟩

/-- A request served and refused by its owner. -/
theorem refuses_of_serves {s : State} (tag : Byte) {r : Request} {result : Result} (h : Serves s r)
    (ho : owner r s = .error result) : Refuses (rowOf tag r) s tag r result :=
  exec_refused h.1 tag (commonRefusal_of_serves h) ho

end Sys2Proof.Machine
end

section
/-! PROOFS. Sections, walls and combinations defined, removed, closed and forced (spec: R2–R7, R11, R13, R14, R17). -/

namespace Sys2Proof.Machine

theorem bad_iff (r : TextRef) : r.bad = true ↔ 48 ≤ r.page.toNat := by
  simp [TextRef.bad, Config.pages]

theorem not_isNone {α : Type} {o : Option α} (h : o.isSome = true) : ¬ o.isNone = true := by
  cases o with
  | none => cases h
  | some x => exact Bool.false_ne_true

/-! ## Sections -/

theorem sectionInUse_iff (s : State) (i : Nat) : sectionInUse s i = true ↔
    (∃ w, w ∈ s.lu.walls ∧ (w.2.a = i ∨ w.2.b = i)) ∨ (∃ x, x ∈ s.lu.combos ∧ i ∈ x.2.set)
      ∨ (∃ e, e ∈ s.sessions ∧ i ∈ e.2.sections)
      ∨ (∃ p, p ∈ s.ps.panels ∧ (p.2.role = .door i ∨ ∃ count heading, p.2.role = .directory i count heading)) := by
  have hrole : ∀ p : Nat × PanelSlot, (match p.2.role with
        | .door sec => decide (sec = i)
        | .directory first _ _ => decide (first = i)) = true
      ↔ p.2.role = .door i ∨ ∃ count heading, p.2.role = .directory i count heading := by
    intro p
    cases p.2.role <;> simp
  simp only [sectionInUse, Bool.or_eq_true, List.any_eq_true, decide_eq_true_eq, List.contains_iff_mem, or_assoc]
  exact or_congr_right (or_congr_right (or_congr_right (exists_congr fun p => and_congr_right fun _ => hrole p)))

/-- Settles O17: the checks of R2 and R3 in order, then the new table with its spaces derived. -/
theorem sectionsAreDefinedAndRemoved : Obligations.SectionsAreDefinedAndRemoved := by
  refine ⟨fun s tag rev index name code => ?_, fun s tag rev index => ?_⟩
  · intro r c hs
    have hbad := bad_iff name
    refine ⟨fun h => refuses_of_serves tag hs ?_, fun h1 h2 => ?_⟩
    · simp only [owner, r, defineSection, Config.sections, hbad, if_pos h]
      rfl
    · refine completesLayout_of_edit tag hs rfl rfl ?_
      simp only [owner, r, defineSection, Config.sections, hbad]
      rw [if_neg (by omega)]
      cases Table.get s.lu.sections index.toNat <;> rfl
  · intro r c i used hs
    have hused : used ↔ sectionInUse s index.toNat = true := (sectionInUse_iff s index.toNat).symm
    refine ⟨fun h => refuses_of_serves tag hs ?_, fun h hg => refuses_of_serves tag hs ?_,
      fun h hg hu => refuses_of_serves tag hs ?_, fun h hg hu => completesLayout_of_edit tag hs rfl rfl ?_⟩
    all_goals simp only [owner, r, removeSection, Config.sections]
    · rw [if_pos h]
      rfl
    · rw [if_neg (by omega), hg]
      rfl
    · rw [if_neg (by omega), if_neg (not_isNone hg), if_pos (hused.1 hu)]
      rfl
    · rw [if_neg (by omega), if_neg (not_isNone hg), if_neg (fun h => hu (hused.2 h))]
      rfl

/-- Settles O18: a flag already so is left, another is set and the spaces derived. -/
theorem sectionsAreClosedAndOpened : Obligations.SectionsAreClosedAndOpened := by
  intro s tag index closed hfree hplan r c
  have hrow : c = rowOf tag r := by cases closed <;> rfl
  have howner : owner r s = setClosed index closed s := by cases closed <;> rfl
  have hno : expectedRevision r = none := by cases closed <;> rfl
  have hcommon : commonRefusal r s = none := commonRefusal_other (by cases closed <;> rfl) hplan hno
  rw [hrow]
  refine ⟨fun h => exec_refused hfree tag hcommon ?_, fun h hg => exec_refused hfree tag hcommon ?_, fun x h hg hx => ?_,
    fun x h hg hx => completesLayout_of_owner hfree tag hcommon hno (u := rederive { s with lu := { s.lu with
      sections := Table.put s.lu.sections index.toNat { x with closed } } }) ?_ (rederive_lu s _) (rederive_tables_taken s rfl)⟩
  · rw [howner, setClosed, if_pos h]
    rfl
  · rw [howner, setClosed, if_neg (by simpa [Config.sections] using h), hg]
    rfl
  · refine exec_taken hfree tag hcommon hno ?_
    rw [howner, setClosed, if_neg (by simpa [Config.sections] using h), hg]
    simp only [hx, if_true]
    rfl
  · rw [howner, setClosed, if_neg (by simpa [Config.sections] using h), hg]
    simp only [hx, if_false]
    rfl

/-! ## Walls -/

theorem joins_iff (w : Wall) (x y : Nat) : w.joins x y = true ↔ (w.a = x ∧ w.b = y) ∨ (w.a = y ∧ w.b = x) := by
  simp [Wall.joins]

/-- Settles O19: the checks of R6 and R7 in order, then the new table with its spaces derived. -/
theorem wallsAreDefinedAndRemoved : Obligations.WallsAreDefinedAndRemoved := by
  refine ⟨fun s tag rev wall first second => ?_, fun s tag rev wall => ?_⟩
  · intro r c x y ranged present joined hs
    have hranged : ranged ↔ ¬ (Config.walls ≤ wall.toNat ∨ Config.sections ≤ first.toNat ∨ Config.sections ≤ second.toNat
        ∨ first = second) := by
      have hne : (x ≠ y) ↔ ¬ first = second := not_congr BitVec.toNat_inj
      simp only [ranged, Config.walls, Config.sections, hne, not_or, Nat.not_le]
      rfl
    have hpresent : present ↔ ¬ ((Table.get s.lu.sections first.toNat).isNone = true
        ∨ (Table.get s.lu.sections second.toNat).isNone = true) := by
      simp only [present, x, y, not_or, ← Option.not_isSome, Bool.not_eq_true', Bool.not_eq_false]
    have hjoined : joined ↔ (s.lu.walls.any (fun e => e.1 ≠ wall.toNat && e.2.joins first.toNat second.toNat)) = true := by
      simp only [joined, x, y, List.any_eq_true, Bool.and_eq_true, decide_eq_true_eq, joins_iff]
    refine ⟨fun h => refuses_of_serves tag hs ?_, fun h hp => refuses_of_serves tag hs ?_,
      fun h hp hj => refuses_of_serves tag hs ?_, fun h hp hj => completesLayout_of_edit tag hs rfl rfl ?_⟩
    all_goals simp only [owner, r, defineWall]
    · rw [if_pos (not_not.1 (fun hn => h (hranged.2 hn)))]
      rfl
    · rw [if_neg (hranged.1 h), if_pos (not_not.1 (fun hn => hp (hpresent.2 hn)))]
      rfl
    · rw [if_neg (hranged.1 h), if_neg (hpresent.1 hp), if_pos (hjoined.1 hj)]
      rfl
    · rw [if_neg (hranged.1 h), if_neg (hpresent.1 hp), if_neg (fun hn => hj (hjoined.2 hn))]
      rfl
  · intro r c hs
    refine ⟨fun h => refuses_of_serves tag hs ?_, fun h hg => refuses_of_serves tag hs ?_,
      fun h hg => completesLayout_of_edit tag hs rfl rfl ?_⟩
    all_goals simp only [owner, r, removeWall, Config.walls]
    · rw [if_pos h]
      rfl
    · rw [if_neg (by omega), hg]
      rfl
    · rw [if_neg (by omega), if_neg (not_isNone hg)]
      rfl

theorem forced_ofCode_code (p : Forced) : Forced.ofCode p.code = some p := by cases p <;> rfl

theorem forced_ofCode_none {b : Byte} (h : 2 < b.toNat) : Forced.ofCode b = none := by
  unfold Forced.ofCode
  split
  case h_4 => rfl
  all_goals omega

theorem forced_ofCode_some {b : Byte} (h : b.toNat ≤ 2) : ∃ p, Forced.ofCode b = some p := by
  have hcases : b.toNat = 0 ∨ b.toNat = 1 ∨ b.toNat = 2 := by omega
  rcases hcases with h | h | h <;> simp [Forced.ofCode, h]

/-- What a wall put in place of another leaves: the table, and the spaces derived when the effective position changes. -/
theorem putWall_follows (i : Nat) (before after : Wall) (s : State) :
    let lu : Layout := { s.lu with walls := Table.put s.lu.walls i after }
    Follows { s with lu := if after.effective = before.effective then lu else lu.derived } (putWall i before after s) := by
  intro lu
  unfold putWall
  simp only [eq_comm (a := before.effective)]
  split
  · exact Follows.refl _
  · exact rederive_lu s lu

theorem putWall_taken (i : Nat) (before after : Wall) (s : State) : SpacesTaken s (putWall i before after s) := by
  unfold putWall
  simp only
  split
  · exact (SpacesTaken.refl s).congr ⟨rfl, rfl, id, id⟩
      ⟨rfl, rfl, fun h => h.congr rfl rfl rfl rfl, fun h => h.of_inputs rfl rfl rfl rfl rfl rfl rfl rfl rfl, id⟩
  · exact rederive_tables_taken s rfl

/-- Settles O20: the forced position is put in the wall, and the spaces follow when the effective position moves (R12, R17). -/
theorem forceWallSetsTheForcedPosition : Obligations.ForceWallSetsTheForcedPosition := by
  intro s tag wall position hfree hplan r c
  have hcommon : commonRefusal r s = none := commonRefusal_other rfl hplan rfl
  refine ⟨fun h => exec_refused hfree tag hcommon ?_, fun h hpos hg => exec_refused hfree tag hcommon ?_, fun w p h hpos hg =>
    completesLayout_of_owner hfree tag hcommon rfl (u := putWall wall.toNat w { w with forced := p } s) ?_
      (putWall_follows wall.toNat w _ s) (putWall_taken _ _ _ _)⟩
  all_goals simp only [owner, r, forceWall]
  · cases hcode : Forced.ofCode position with
    | none => rfl
    | some p =>
      have hle : ¬ 2 < position.toNat := fun h2 => by simp [forced_ofCode_none h2] at hcode
      simp only [Config.walls, if_pos (h.resolve_right hle)]
      rfl
  · obtain ⟨p, hp⟩ := forced_ofCode_some hpos
    simp only [hp, Config.walls, if_neg (Nat.not_le.2 h), hg]
    rfl
  · subst hpos
    simp only [forced_ofCode_code, Config.walls, if_neg (Nat.not_le.2 h), hg]
    rfl

/-! ## Combinations -/

/-- Settles O22: the checks of R13 and R14 in order, then the new table with its spaces derived. -/
theorem combinationsAreDefinedAndRemoved : Obligations.CombinationsAreDefinedAndRemoved := by
  refine ⟨fun s tag rev index name sections => ?_, fun s tag rev index => ?_⟩
  · intro r c list ranged present held hs
    have hranged : ranged ↔ ¬ (Config.combos ≤ index.toNat ∨ name.bad = true ∨ list.length < 2 ∨ 12 < list.length
        ∨ list.any (fun i => Config.sections ≤ i) = true ∨ hasRepeat list = true) := by
      simp only [ranged, Config.combos, Config.sections, bad_iff, not_or, Nat.not_le, Nat.not_lt, List.any_eq_true, decide_eq_true_eq,
        not_exists, not_and, Bool.not_eq_true]
    have hpresent : present ↔ ¬ (list.any (fun i => (Table.get s.lu.sections i).isNone)) = true := by
      simp only [present, List.any_eq_true, not_exists, not_and, ← Option.not_isSome, Bool.not_eq_true', Bool.not_eq_false]
    have hheld : held ↔ (s.lu.combos.any (fun e => e.1 ≠ index.toNat && e.2.set = sortNat list)) = true := by
      simp only [held, List.any_eq_true, Bool.and_eq_true, decide_eq_true_eq]
    refine ⟨fun h => refuses_of_serves tag hs ?_, fun h hp => refuses_of_serves tag hs ?_,
      fun h hp hj => refuses_of_serves tag hs ?_, fun h hp hj => completesLayout_of_edit tag hs rfl rfl ?_⟩
    all_goals simp only [owner, r, defineCombination]
    · rw [if_pos (not_not.1 (fun hn => h (hranged.2 hn)))]
      rfl
    · rw [if_neg (hranged.1 h), if_pos (not_not.1 (fun hn => hp (hpresent.2 hn)))]
      rfl
    · rw [if_neg (hranged.1 h), if_neg (hpresent.1 hp), if_pos (hheld.1 hj)]
      rfl
    · rw [if_neg (hranged.1 h), if_neg (hpresent.1 hp), if_neg (fun hn => hj (hheld.2 hn))]
      rfl
  · intro r c hs
    refine ⟨fun h => refuses_of_serves tag hs ?_, fun h hg => refuses_of_serves tag hs ?_,
      fun h hg => completesLayout_of_edit tag hs rfl rfl ?_⟩
    all_goals simp only [owner, r, removeCombination, Config.combos]
    · rw [if_pos h]
      rfl
    · rw [if_neg (by omega), hg]
      rfl
    · rw [if_neg (by omega), if_neg (not_isNone hg)]
      rfl

end Sys2Proof.Machine
end

section
/-! PROOFS. The clock's deliveries (spec: R20–R28, R38, R52, R96, R101–R104): what a clock change and a minute turnover leave. -/

namespace Sys2Proof.Machine

/-! ## What a clock event leaves in the map and in the notices -/

/-- The part without the records of days before one, when they are purged, and without the notices that are due. -/
def settled (mark : Bool) (day minute : Nat) (v : State) : State :=
  { v with
    sessions := v.sessions.filter (fun e => !mark || day ≤ e.2.day)
    nu := { v.nu with notices := v.nu.notices.filter (fun e => !e.2.due day minute) } }

theorem filter_mapVals_stored (p : Nat → Bool) (t : Table Session) :
    Table.mapVals Session.stored (t.filter (fun e => p e.2.day))
      = (Table.mapVals Session.stored t).filter (fun e => p e.2.day) := by
  unfold Table.mapVals
  rw [List.filter_map]
  rfl

theorem settled_kept (mark : Bool) (day minute : Nat) (v : State) :
    (settled mark day minute v).kept = settled mark day minute v.kept := by
  unfold settled State.kept
  simp only [filter_mapVals_stored (fun d => !mark || decide (day ≤ d))]

theorem Follows.settled {s t : State} (h : Follows s t) (mark : Bool) (day minute : Nat) :
    Follows (settled mark day minute s) (settled mark day minute t) :=
  ⟨by rw [settled_kept, settled_kept, h.kept], h.grow, h.good⟩

/-- No record before the day, when purged, and no notice due. -/
structure Settled (mark : Bool) (day minute : Nat) (v : State) : Prop where
  sessions : mark = true → ∀ e ∈ v.sessions, day ≤ e.2.day
  notices : ∀ e ∈ v.nu.notices, e.2.due day minute = false

theorem Settled.eq {mark : Bool} {day minute : Nat} {v : State} (h : Settled mark day minute v) : Machine.settled mark day minute v = v := by
  have hsessions : v.sessions.filter (fun e => !mark || decide (day ≤ e.2.day)) = v.sessions := by
    refine List.filter_eq_self.2 (fun e he => ?_)
    cases mark with
    | false => rfl
    | true => simpa using h.sessions rfl e he
  have hnotices : v.nu.notices.filter (fun e => !e.2.due day minute) = v.nu.notices :=
    List.filter_eq_self.2 (fun e he => by rw [h.notices e he]; rfl)
  unfold Machine.settled
  rw [hsessions, hnotices]

/-- A record of the map after deliveries is one before them, as stored. -/
theorem mem_sessions_of_stored {t t' : Table Session} (h : Table.mapVals Session.stored t' = Table.mapVals Session.stored t)
    {e : Nat × Session} (he : e ∈ t') : ∃ e' ∈ t, e'.1 = e.1 ∧ e'.2.stored = e.2.stored := by
  have hmem : (e.1, e.2.stored) ∈ Table.mapVals Session.stored t := h ▸ List.mem_map.2 ⟨e, he, rfl⟩
  obtain ⟨e', he', heq⟩ := List.mem_map.1 hmem
  obtain ⟨hnumber, hstored⟩ := Prod.mk.inj heq
  exact ⟨e', he', hnumber, hstored⟩

theorem day_of_stored {x y : Session} (h : x.stored = y.stored) : x.day = y.day := (Session.mk.injEq .. ▸ h).1

/-! ## Receivers -/

theorem withoutEarlier_of_not_holds {day : Nat} {s : State} (h : s.holdsEarlier day = false) : s.withoutEarlier day = s := by
  have hall : s.sessions.filter (fun e => decide (day ≤ e.2.day)) = s.sessions := by
    unfold State.holdsEarlier at h
    refine List.filter_eq_self.2 (fun e he => ?_)
    simpa using List.any_eq_false.1 h e he
  unfold State.withoutEarlier
  rw [hall]

theorem settled_withoutEarlier (day minute : Nat) (v : State) :
    settled true day minute (v.withoutEarlier day) = settled true day minute v := by
  simp [settled, State.withoutEarlier]

theorem sessionsClockChange_settled {mark : Bool} {v : State} (minute : Nat) :
    Follows (settled mark v.clock.day minute v) (settled mark v.clock.day minute (sessionsClockChange mark v)) := by
  cases mark with
  | false => exact (reevaluateSessions_follows v).settled _ _ _
  | true =>
    rw [← settled_withoutEarlier]
    exact (reevaluateAll_follows _ _).settled _ _ _

theorem purge_settled (day minute : Nat) (v : State) : Follows (settled true day minute v) (settled true day minute (purge day v)) := by
  rw [← settled_withoutEarlier]
  unfold purge
  split
  · exact (recomputeAll_follows _).settled _ _ _
  · exact Follows.refl _

/-- NU's notices with the due ones gone. -/
def withoutDue (day minute : Nat) (v : State) : State :=
  { v with nu := { v.nu with notices := v.nu.notices.filter (fun e => !e.2.due day minute) } }

/-- The zones whose notice is due. -/
def dueZones (day minute : Nat) (v : State) : List Nat := Table.keys (v.nu.notices.filter (fun e => e.2.due day minute))

theorem expireNotices_eq (day minute : Nat) (v : State) : expireNotices day minute v =
    if dueZones day minute v = [] then v else forEach (dueZones day minute v) recomputeZone (raise .expire (withoutDue day minute v)) := by
  unfold expireNotices dueZones Table.keys
  simp only [List.isEmpty_iff, List.map_eq_nil_iff]
  rfl

theorem settled_withoutDue (mark : Bool) (day minute : Nat) (v : State) :
    settled mark day minute (withoutDue day minute v) = settled mark day minute v := by
  simp [settled, withoutDue]

/-- Notices expired: FR's recomputations after the notices are gone and EXPIRE is raised. -/
theorem expireNotices_work {day minute : Nat} {v : State} (h : dueZones day minute v ≠ []) :
    FaceWork (raise .expire (withoutDue day minute v)) (expireNotices day minute v) := by
  rw [expireNotices_eq, if_neg h]
  exact FaceWork.forEach _ _ (fun zone _ u => recomputeZone_work zone u) _

theorem withoutDue_of_none {day minute : Nat} {v : State} (h : dueZones day minute v = []) : withoutDue day minute v = v := by
  have hnone : v.nu.notices.filter (fun e => e.2.due day minute) = [] := List.map_eq_nil_iff.1 h
  have hall : v.nu.notices.filter (fun e => !e.2.due day minute) = v.nu.notices := by
    refine List.filter_eq_self.2 (fun e he => ?_)
    simpa using List.filter_eq_nil_iff.1 hnone e he
  unfold withoutDue
  rw [hall]

theorem expireNotices_nu (day minute : Nat) (v : State) : (expireNotices day minute v).nu = (withoutDue day minute v).nu := by
  by_cases h : dueZones day minute v = []
  · rw [expireNotices_eq, if_pos h, withoutDue_of_none h]
  · exact (expireNotices_work h).follows.nu

theorem expireNotices_sessions (day minute : Nat) (v : State) : (expireNotices day minute v).sessions = v.sessions := by
  by_cases h : dueZones day minute v = []
  · rw [expireNotices_eq, if_pos h]
  · exact (expireNotices_work h).sessions

theorem expireNotices_settled (mark : Bool) (day minute : Nat) (v : State) :
    Follows (settled mark day minute v) (settled mark day minute (expireNotices day minute v)) := by
  by_cases h : dueZones day minute v = []
  · rw [expireNotices_eq, if_pos h]
    exact Follows.refl _
  · rw [← settled_withoutDue]
    exact ((raise_follows .expire _).trans (expireNotices_work h).follows).settled _ _ _

theorem expireNotices_grow (day minute : Nat) (v : State) :
    v.li.attention &&& (expireNotices day minute v).li.attention = v.li.attention :=
  (expireNotices_settled false day minute v).grow

theorem expireNotices_flag {day minute : Nat} {v : State} (h : dueZones day minute v ≠ []) :
    flagSet (expireNotices day minute v) .expire = true :=
  flagSet_of_grow (expireNotices_work h).follows.grow (flagSet_raise _ _)

/-! ## Current sessions through the receivers -/

theorem AllCurrent.withoutEarlier {s : State} (h : AllCurrent s) (day : Nat) : AllCurrent (s.withoutEarlier day) :=
  fun e he => h e (List.mem_of_mem_filter he)

theorem AllCurrent.expireNotices {s : State} (h : AllCurrent s) (day minute : Nat) : AllCurrent (expireNotices day minute s) := by
  have hf := expireNotices_settled false day minute s
  exact h.congr (expireNotices_sessions day minute s) hf.clock (congrArg (fun p : PlanStore => p.options.doorLead) hf.ps)
    (congrArg Layout.spaces hf.lu)

theorem AllCurrent.purge {s : State} (h : AllCurrent s) (day : Nat) : AllCurrent (purge day s) := by
  unfold Machine.purge
  split
  · exact recomputeAll_current (h.withoutEarlier day)
  · exact h.withoutEarlier day

theorem sessionsClockChange_current (mark : Bool) (s : State) : AllCurrent (sessionsClockChange mark s) := by
  unfold sessionsClockChange
  split
  · exact reevaluateAll_current _ _
  · exact reevaluateAll_current _ _

/-! ## Faces through the receivers -/

theorem FacesNow.sessionsClockChange {s : State} (h : FacesNow s) (mark : Bool) : FacesNow (sessionsClockChange mark s) := by
  unfold Machine.sessionsClockChange
  split
  · exact reevaluateAll_faces (fun hno => (withoutEarlier_of_not_holds hno).symm ▸ h)
  · exact h.reevaluateAll

theorem FacesNow.purge {s : State} (h : FacesNow s) (day : Nat) : FacesNow (purge day s) := by
  unfold Machine.purge
  split
  · exact recomputeAll_faces _
  · rename_i hno
    rw [withoutEarlier_of_not_holds (Bool.not_eq_true _ ▸ hno)]
    exact h

/-- The part with the notices of a slot's zones alone. -/
def zoned (zones : Half) (s : State) : State :=
  { s with nu := { s.nu with notices := s.nu.notices.filter (fun e => inZone zones e.1) } }

theorem noticesAt_zoned (s : State) (zones : Half) (level : Level) : noticesAt (zoned zones s) zones level = noticesAt s zones level := by
  unfold noticesAt zoned
  rw [List.filter_filter]
  refine List.filter_congr (fun e _ => ?_)
  cases inZone zones e.1 <;> simp

theorem numberLines_zoned (zones : Half) (s : State) (cls : PanelClass) (k : Nat) (l : List Listed) :
    numberLines (zoned zones s) cls k l = numberLines s cls k l := by
  induction l generalizing k with
  | nil => rfl
  | cons e l ih =>
    rw [numberLines, numberLines, ih]
    rfl

theorem directoryFace_zoned (zones : Half) (s : State) (cls : PanelClass) (first count index : Nat) (heading : TextRef)
    (banner : Option Clip) :
    directoryFace (zoned zones s) cls first count index heading banner = directoryFace s cls first count index heading banner := by
  unfold directoryFace
  simp only [numberLines_zoned]
  rfl

theorem winningNotice_zoned (s : State) (zones : Half) : winningNotice (zoned zones s) zones = winningNotice s zones := by
  simp only [winningNotice, noticesAt_zoned]

theorem bannerOf_zoned (s : State) (zones : Half) : bannerOf (zoned zones s) zones = bannerOf s zones := by
  simp only [bannerOf, noticesAt_zoned, winningNotice_zoned]
  rfl

theorem roleFaceOf_zoned (s : State) (p : PanelSlot) (cls : PanelClass) (index : Nat) :
    roleFaceOf (zoned p.zones s) p cls index = roleFaceOf s p cls index := by
  unfold roleFaceOf
  rw [bannerOf_zoned]
  cases p.role with
  | door sec => rfl
  | directory first count heading =>
    simp only [directoryFace_zoned]
    rfl

theorem resolveFace_zoned (s : State) (slot : Nat) (p : PanelSlot) (role : RoleFace) :
    resolveFace (zoned p.zones s) slot p role = resolveFace s slot p role := by
  unfold resolveFace
  rw [winningNotice_zoned]
  rfl

/-- A slot's face reads the notices of the slot's zones alone (R74, R75). -/
theorem faceStands_zoned (s : State) (slot : Nat) (p : PanelSlot) (cls : PanelClass) :
    FaceStands (zoned p.zones s) slot p cls ↔ FaceStands s slot p cls := by
  have hpage : (zoned p.zones s).pageIndex slot = s.pageIndex slot := rfl
  unfold FaceStands
  rw [hpage, roleFaceOf_zoned, resolveFace_zoned]
  rfl

/-- A slot that a zone whose notice changed reaches. -/
def Reached (s : State) (zones : List Nat) (slot : Nat) : Prop :=
  ∃ p, Table.get s.ps.panels slot = some p ∧ ∃ z ∈ zones, inZone p.zones z = true

/-- Notices changed in some zones: the faces of the slots that no such zone reaches stand. -/
theorem FacesNow.notices {s : State} (h : FacesNow s) (zones : List Nat) (notices : Table Notice)
    (hsame : ∀ mask : Half, (∀ z ∈ zones, inZone mask z = false) →
      notices.filter (fun e => inZone mask e.1) = s.nu.notices.filter (fun e => inZone mask e.1)) :
    FacesExcept (Reached s zones) { s with nu := { s.nu with notices } } := by
  intro slot p cls hp hc hreach
  have hmask : ∀ z ∈ zones, inZone p.zones z = false := by
    intro z hz
    cases hin : inZone p.zones z with
    | false => rfl
    | true => exact absurd ⟨p, hp, z, hz, hin⟩ hreach
  have hstands := (facesNow_iff s).1 h slot p cls hp hc (fun hf => hf)
  rw [← faceStands_zoned] at hstands ⊢
  have heq : zoned p.zones { s with nu := { s.nu with notices } } = zoned p.zones s := by
    simp only [zoned, hsame p.zones hmask]
  rw [heq]
  exact hstands

/-- Zones recomputed one after another: the slots they reach are stale no more. -/
theorem foldl_recomputeZone_faces {stale : Nat → Prop} {s : State} (h : FacesExcept stale s) (zones : List Nat) :
    FacesExcept (fun n => stale n ∧ ¬ Reached s zones n) (zones.foldl (fun s zone => recomputeZone zone s) s) := by
  induction zones generalizing stale s with
  | nil => exact h.mono (fun n hn => ⟨hn, fun ⟨_, _, z, hz, _⟩ => absurd hz List.not_mem_nil⟩)
  | cons zone zones ih =>
    have hps := (recomputeZone_work zone s).follows.ps
    refine (ih (recomputeZone_faces zone h)).mono (fun n hn => ⟨hn.1.1, ?_⟩)
    rintro ⟨p, hp, z, hz, hin⟩
    rcases List.mem_cons.1 hz with rfl | hz
    · simp [hp, hin] at hn
    · exact hn.2 ⟨p, hps.symm ▸ hp, z, hz, hin⟩

theorem forEach_recomputeZone_faces {stale : Nat → Prop} {s : State} (h : FacesExcept stale s) (zones : List Nat) :
    FacesExcept (fun n => stale n ∧ ¬ Reached s zones n) (forEach zones recomputeZone s) := by
  refine (foldl_recomputeZone_faces h.dropOrder (arrange s.nextOrder zones)).mono (fun n hn => ⟨hn.1, ?_⟩)
  rintro ⟨p, hp, z, hz, hin⟩
  exact hn.2 ⟨p, hp, z, (arrange_perm s.nextOrder zones).mem_iff.2 hz, hin⟩

theorem FacesNow.raise {s : State} (h : FacesNow s) (f : Flag) : FacesNow (raise f s) :=
  h.of_inputs rfl rfl rfl rfl rfl rfl rfl rfl rfl

theorem FacesNow.expireNotices {s : State} (h : FacesNow s) (day minute : Nat) : FacesNow (expireNotices day minute s) := by
  rw [expireNotices_eq]
  split
  · exact h
  · have hexcept : FacesExcept (Reached s (dueZones day minute s)) (Machine.raise .expire (withoutDue day minute s)) := by
      refine (h.raise .expire).notices (dueZones day minute s) _ (fun mask hmask => ?_)
      rw [List.filter_filter]
      refine List.filter_congr (fun e he => ?_)
      cases hdue : e.2.due day minute with
      | false => simp
      | true => simp [hmask e.1 (List.mem_map.2 ⟨e, List.mem_filter.2 ⟨he, hdue⟩, rfl⟩)]
    refine (facesNow_iff _).2 ((forEach_recomputeZone_faces hexcept _).mono (fun n hn => ?_))
    exact hn.2 hn.1

end Sys2Proof.Machine
end

section
/-! PROOFS. A clock event taken by its receivers in any order (spec: R23, R27, R38, R52, R96). -/

namespace Sys2Proof.Machine

/-! ## Deliveries seen through the records -/

namespace FollowsThrough

variable {f : Rec → Rec} {s t u : State}

theorem refl (f : Rec → Rec) (s : State) : FollowsThrough f s s := ⟨rfl, BitVec.and_self, id⟩

theorem trans (h : FollowsThrough f s t) (h' : FollowsThrough f t u) : FollowsThrough f s u :=
  ⟨h'.kept.trans h.kept, and_grow_trans h.grow h'.grow, fun g => h'.good (h.good g)⟩

theorem clock (h : FollowsThrough f s t) : t.clock = s.clock := by
  have := congrArg State.clock h.kept
  exact this

theorem lu (h : FollowsThrough f s t) : t.lu = s.lu := by
  have := congrArg State.lu h.kept
  exact this

theorem nu (h : FollowsThrough f s t) : t.nu = s.nu := by
  have := congrArg State.nu h.kept
  exact this

theorem ps (h : FollowsThrough f s t) : t.ps = s.ps := by
  have := congrArg State.ps h.kept
  exact this

theorem text (h : FollowsThrough f s t) : t.text = s.text := by
  have := congrArg State.text h.kept
  exact this

theorem stored (h : FollowsThrough f s t) : Table.mapVals Session.stored t.sessions = Table.mapVals Session.stored s.sessions := by
  have := congrArg State.sessions h.kept
  exact this

theorem recs (h : FollowsThrough f s t) (ix : SegIx) : Table.mapVals f (t.seg ix).recs = Table.mapVals f (s.seg ix).recs := by
  have := congrArg (fun v : State => (v.seg ix).recs) h.kept
  cases ix <;> exact this

end FollowsThrough

theorem follows_iff_through (s t : State) : Follows s t ↔ FollowsThrough Rec.kept s t :=
  ⟨fun h => ⟨h.kept, h.grow, h.good⟩, fun h => ⟨h.kept, h.grow, h.good⟩⟩

/-- A view of the records that deliveries leave. -/
def SeesKept (f : Rec → Rec) : Prop := ∀ r : Rec, f r.kept = f r

theorem seesKept_kept : SeesKept Rec.kept := by
  intro r
  unfold Rec.kept
  cases hs : r.state <;> rfl

theorem mapVals_through {f : Rec → Rec} (hf : SeesKept f) (t : Table Rec) :
    Table.mapVals f t = Table.mapVals f (Table.mapVals Rec.kept t) := by
  rw [Table.mapVals_mapVals]
  exact Table.mapVals_congr t (fun r => (hf r).symm)

/-- Deliveries as any such view shows them. -/
theorem Follows.through {f : Rec → Rec} (hf : SeesKept f) {s t : State} (h : Follows s t) : FollowsThrough f s t := by
  refine ⟨?_, h.grow, h.good⟩
  have hrecs (ix : SegIx) : Table.mapVals f (t.seg ix).recs = Table.mapVals f (s.seg ix).recs := by
    have hkept : Table.mapVals Rec.kept (t.seg ix).recs = Table.mapVals Rec.kept (s.seg ix).recs := congrArg Seg.recs (h.seg ix)
    rw [mapVals_through hf, hkept, ← mapVals_through hf]
  unfold State.keptThrough
  simp only [hrecs, h.seg, h.kept]

/-! ## The receivers of a clock event -/

theorem settled_keptThrough (f : Rec → Rec) (mark : Bool) (day minute : Nat) (v : State) :
    (settled mark day minute v).keptThrough f = settled mark day minute (v.keptThrough f) := by
  unfold State.keptThrough
  rw [settled_kept]
  rfl

theorem FollowsThrough.settled {f : Rec → Rec} {s t : State} (h : FollowsThrough f s t) (mark : Bool) (day minute : Nat) :
    FollowsThrough f (settled mark day minute s) (settled mark day minute t) :=
  ⟨by rw [settled_keptThrough, settled_keptThrough, h.kept], h.grow, h.good⟩

/-- What one receiver of a clock event does to the part: deliveries, beside records purged and notices expired. -/
structure ClockWork (f : Rec → Rec) (mark : Bool) (day minute : Nat) (v w : State) : Prop where
  settled : FollowsThrough f (Machine.settled mark day minute v) (Machine.settled mark day minute w)
  sessions : ∀ e ∈ w.sessions, ∃ e' ∈ v.sessions, e'.1 = e.1 ∧ e'.2.stored = e.2.stored
  notices : w.nu.notices = v.nu.notices ∨ (flagSet w .expire = true ∧ ∀ e ∈ w.nu.notices, e ∈ v.nu.notices)

section Receivers

variable {f : Rec → Rec} {mark : Bool} {day minute : Nat} {s v w : State}

theorem ClockWork.clock (h : ClockWork f mark day minute v w) : w.clock = v.clock := h.settled.clock

theorem ClockWork.of_through (h : FollowsThrough f v w) : ClockWork f mark day minute v w :=
  ⟨h.settled mark day minute, fun _ he => mem_sessions_of_stored h.stored he, Or.inl (by rw [h.nu])⟩

theorem ClockWork.of_follows (hf : SeesKept f) (h : Follows v w) : ClockWork f mark day minute v w :=
  ClockWork.of_through (h.through hf)

theorem ClockWork.sessionsClockChange (hf : SeesKept f) (hd : v.clock.day = day) :
    ClockWork f mark day minute v (sessionsClockChange mark v) := by
  subst hd
  refine ⟨(sessionsClockChange_settled minute).through hf, fun e he => ?_, Or.inl ?_⟩
  · unfold Machine.sessionsClockChange at he
    split at he
    · obtain ⟨e', he', hsame⟩ := mem_sessions_of_stored (reevaluateAll_follows _ _).stored he
      exact ⟨e', List.mem_of_mem_filter he', hsame⟩
    · exact mem_sessions_of_stored (reevaluateSessions_follows v).stored he
  · unfold Machine.sessionsClockChange
    split
    · rw [(reevaluateAll_follows _ _).nu]
      rfl
    · rw [(reevaluateSessions_follows v).nu]

theorem ClockWork.purge (hf : SeesKept f) : ClockWork f true day minute v (purge day v) := by
  have hstep : Follows (v.withoutEarlier day) (Machine.purge day v) := by
    unfold Machine.purge
    split
    · exact recomputeAll_follows _
    · exact Follows.refl _
  refine ⟨(purge_settled day minute v).through hf, fun e he => ?_, Or.inl (by rw [hstep.nu]; rfl)⟩
  obtain ⟨e', he', hsame⟩ := mem_sessions_of_stored hstep.stored he
  exact ⟨e', List.mem_of_mem_filter he', hsame⟩

theorem ClockWork.expireNotices (hf : SeesKept f) : ClockWork f mark day minute v (expireNotices day minute v) := by
  refine ⟨(expireNotices_settled mark day minute v).through hf, fun e he => ⟨e, expireNotices_sessions day minute v ▸ he, rfl, rfl⟩, ?_⟩
  rw [expireNotices_nu]
  by_cases h : dueZones day minute v = []
  · exact Or.inl (by rw [withoutDue_of_none h])
  · exact Or.inr ⟨expireNotices_flag h, fun e he => List.mem_of_mem_filter he⟩

/-- No record of a day before the one given is held. -/
def PurgedTo (day : Nat) (v : State) : Prop := ∀ e ∈ v.sessions, day ≤ e.2.day

/-- No notice is due. -/
def NoneDue (day minute : Nat) (v : State) : Prop := ∀ e ∈ v.nu.notices, e.2.due day minute = false

theorem ClockWork.purgedTo (h : ClockWork f mark day minute v w) (hv : PurgedTo day v) : PurgedTo day w := by
  intro e he
  obtain ⟨e', he', _, hsame⟩ := h.sessions e he
  exact day_of_stored hsame ▸ hv e' he'

theorem ClockWork.noneDue (h : ClockWork f mark day minute v w) (hv : NoneDue day minute v) : NoneDue day minute w := by
  intro e he
  rcases h.notices with hsame | ⟨_, hsub⟩
  · exact hv e (hsame ▸ he)
  · exact hv e (hsub e he)

theorem withoutEarlier_purgedTo (day : Nat) (v : State) : PurgedTo day (v.withoutEarlier day) :=
  fun e he => by simpa using (List.mem_filter.1 he).2

theorem PurgedTo.follows (h : PurgedTo day v) (hf : Follows v w) : PurgedTo day w := by
  intro e he
  obtain ⟨e', he', _, hsame⟩ := mem_sessions_of_stored hf.stored he
  exact day_of_stored hsame ▸ h e' he'

theorem purge_purgedTo (day : Nat) (v : State) : PurgedTo day (purge day v) := by
  unfold purge
  split
  · exact (withoutEarlier_purgedTo day v).follows (recomputeAll_follows _)
  · exact withoutEarlier_purgedTo day v

theorem sessionsClockChange_purgedTo (v : State) : PurgedTo v.clock.day (sessionsClockChange true v) :=
  (withoutEarlier_purgedTo _ v).follows (reevaluateAll_follows _ _)

theorem expireNotices_noneDue (day minute : Nat) (v : State) : NoneDue day minute (expireNotices day minute v) := by
  intro e he
  rw [expireNotices_nu] at he
  simpa using (List.mem_filter.1 he).2

/-- Between two receivers of an event: the clock's day stands, and the settled part has but followed; NU's notices stand until
EXPIRE is raised. -/
structure MidEvent (f : Rec → Rec) (mark : Bool) (day minute : Nat) (s v : State) : Prop where
  clock : v.clock.day = day
  settled : FollowsThrough f (Machine.settled mark day minute s) (Machine.settled mark day minute v)
  seen : v.nu.notices = s.nu.notices ∨ flagSet v .expire = true

theorem MidEvent.work (h : MidEvent f mark day minute s v) (hwork : ClockWork f mark day minute v w) :
    MidEvent f mark day minute s w := by
  refine ⟨by rw [hwork.clock, h.clock], h.settled.trans hwork.settled, ?_⟩
  rcases hwork.notices with hsame | ⟨hflag, _⟩
  · exact h.seen.imp hsame.trans (flagSet_of_grow hwork.settled.grow)
  · exact Or.inr hflag

theorem dueZones_ne_nil {v : State} {e : Nat × Notice} (he : e ∈ v.nu.notices) (hdue : e.2.due day minute = true) :
    dueZones day minute v ≠ [] := by
  intro hnil
  have hmem : e ∈ v.nu.notices.filter (fun e => e.2.due day minute) := List.mem_filter.2 ⟨he, hdue⟩
  rw [List.map_eq_nil_iff.1 hnil] at hmem
  cases hmem

/-- A clock event taken by receivers that each do clock work, NU's expiry among them, and with a mark one that purges: the
map and the notices end settled, all else but for deliveries as it was, and EXPIRE is raised if a notice was due. -/
theorem deliver_settles (hf : SeesKept f) {l : List (State → State)} (hclock : s.clock.day = day)
    (hwork : ∀ g ∈ l, ∀ v, v.clock.day = day → ClockWork f mark day minute v (g v))
    (hexpire : expireNotices day minute ∈ l)
    (hpurge : mark = true → ∃ g ∈ l, ∀ v, v.clock.day = day → PurgedTo day (g v)) :
    FollowsThrough f (settled mark day minute s) (deliver l s)
      ∧ ((∃ e, e ∈ s.nu.notices ∧ e.2.due day minute = true) → flagSet (deliver l s) .expire = true) := by
  have hI : ∀ g ∈ l, ∀ v, MidEvent f mark day minute s v → MidEvent f mark day minute s (g v) :=
    fun g hg v hv => hv.work (hwork g hg v hv.clock)
  have hdrop : ∀ v, MidEvent f mark day minute s v → MidEvent f mark day minute s v.dropOrder :=
    fun v hv => hv.work (ClockWork.of_follows hf (dropOrder_follows v))
  have hstart : MidEvent f mark day minute s s := ⟨hclock, FollowsThrough.refl f _, Or.inl rfl⟩
  have hend : MidEvent f mark day minute s (deliver l s) :=
    deliver_establishes (P := MidEvent f mark day minute s) hexpire hdrop hI (fun v hv => hI _ hexpire v hv)
      (fun g hg v hv _ => hI g hg v hv) hstart
  have hnone : NoneDue day minute (deliver l s) :=
    deliver_establishes hexpire hdrop hI (fun v _ => expireNotices_noneDue day minute v)
      (fun g hg v hv h => (hwork g hg v hv.clock).noneDue h) hstart
  have hpurged : mark = true → PurgedTo day (deliver l s) := by
    intro hmark
    obtain ⟨g, hg, hgp⟩ := hpurge hmark
    exact deliver_establishes hg hdrop hI (fun v hv => hgp v hv.clock) (fun g hg v hv h => (hwork g hg v hv.clock).purgedTo h) hstart
  refine ⟨?_, fun ⟨e, he, hdue⟩ => ?_⟩
  · have heq := (Settled.mk hpurged hnone).eq
    rw [← heq]
    exact hend.settled
  · refine deliver_establishes (P := fun v => flagSet v .expire = true) hexpire hdrop hI (fun v hv => ?_) (fun g hg v hv h => ?_) hstart
    · rcases hv.seen with hsame | hflag
      · exact expireNotices_flag (dueZones_ne_nil (hsame ▸ he) hdue)
      · exact flagSet_of_grow (expireNotices_grow day minute v) hflag
    · exact flagSet_of_grow (hwork g hg v hv.clock).settled.grow h

end Receivers

/-! ## A clock change -/

/-- The receivers of a clock change (R27). -/
def clockReceivers (mark : Bool) (day minute : Nat) : List (State → State) :=
  [sessionsClockChange mark, expireNotices day minute, recomputeAll]

theorem mem_clockReceivers {mark : Bool} {day minute : Nat} {g : State → State} :
    g ∈ clockReceivers mark day minute ↔ g = sessionsClockChange mark ∨ g = expireNotices day minute ∨ g = recomputeAll := by
  simp [clockReceivers]

theorem clockChange_eq (mark : Bool) (s : State) :
    clockChange mark s = deliver (clockReceivers mark s.clock.day s.clock.minute) s := rfl

theorem clockChange_settles (mark : Bool) (s : State) :
    Follows (settled mark s.clock.day s.clock.minute s) (clockChange mark s)
      ∧ ((∃ e, e ∈ s.nu.notices ∧ e.2.due s.clock.day s.clock.minute = true) → flagSet (clockChange mark s) .expire = true) := by
  have hst := (mem_clockReceivers (mark := mark) (day := s.clock.day) (minute := s.clock.minute)).2 (Or.inl rfl)
  have h := deliver_settles (f := Rec.kept) (s := s) (mark := mark) (minute := s.clock.minute) seesKept_kept
    (l := clockReceivers mark s.clock.day s.clock.minute) rfl
    (fun g hg v hd => by
      rcases mem_clockReceivers.1 hg with rfl | rfl | rfl
      · exact ClockWork.sessionsClockChange seesKept_kept hd
      · exact ClockWork.expireNotices seesKept_kept
      · exact ClockWork.of_follows seesKept_kept (recomputeAll_follows v))
    (mem_clockReceivers.2 (Or.inr (Or.inl rfl)))
    (fun hmark => ⟨_, hst, fun v hd => by
      subst hmark
      rw [← hd]
      exact sessionsClockChange_purgedTo v⟩)
  exact ⟨(follows_iff_through _ _).2 h.1, h.2⟩

theorem clockChange_current (mark : Bool) (s : State) : AllCurrent (clockChange mark s) := by
  rw [clockChange_eq]
  refine deliver_establishes (I := fun _ => True) (mem_clockReceivers.2 (Or.inl rfl)) (fun _ _ => trivial) (fun _ _ _ _ => trivial)
    (fun v _ => sessionsClockChange_current mark v) (fun g hg v _ h => ?_) trivial
  rcases mem_clockReceivers.1 hg with rfl | rfl | rfl
  · exact sessionsClockChange_current mark v
  · exact h.expireNotices _ _
  · exact recomputeAll_current h

theorem clockChange_faces (mark : Bool) (s : State) : FacesNow (clockChange mark s) := by
  rw [clockChange_eq]
  refine deliver_establishes (I := fun _ => True) (mem_clockReceivers.2 (Or.inr (Or.inr rfl))) (fun _ _ => trivial)
    (fun _ _ _ _ => trivial) (fun v _ => recomputeAll_faces v) (fun g hg v _ h => ?_) trivial
  rcases mem_clockReceivers.1 hg with rfl | rfl | rfl
  · exact h.sessionsClockChange mark
  · exact h.expireNotices _ _
  · exact recomputeAll_faces v

theorem AllCurrent.inService {s : State} (h : AllCurrent s) (tag : Byte) (asked : Asked) (reply : List Byte) :
    AllCurrent (s.inService tag asked reply) := h.congr rfl rfl rfl rfl

theorem FacesNow.inService {s : State} (h : FacesNow s) (tag : Byte) (asked : Asked) (reply : List Byte) :
    FacesNow (s.inService tag asked reply) := h.of_inputs rfl rfl rfl rfl rfl rfl rfl rfl rfl

/-- Settles O26: a time in range is set and its clock change delivered (R26, R27). -/
theorem setClockSetsTheTime : Obligations.SetClockSetsTheTime := by
  intro s tag day minute second hfree hplan r c d m ranged mark
  have hcommon : commonRefusal r s = none := commonRefusal_other rfl hplan rfl
  have hmark : mark = (decide (s.clock.mode = .unset) || decide (s.clock.day < day.toNat)) := rfl
  refine ⟨fun h => exec_refused hfree tag hcommon ?_, fun ⟨hd, hm, hsec⟩ => ?_⟩
  · have hout : 15 < day.toNat ∨ 1439 < minute.toNat ∨ 59 < second.toNat := by
      by_contra hno
      exact h ⟨by omega, by omega, by omega⟩
    simp only [owner, r, setClock, if_pos hout]
    rfl
  · let base : State := { s with clock := { mode := .running, day := d, minute := m, second := second.toNat } }
    have howner : owner r s = .ok (clockChange mark base, []) := by
      have hin : ¬ (15 < day.toNat ∨ 1439 < minute.toNat ∨ 59 < second.toNat) := by omega
      simp only [owner, r, setClock, if_neg hin]
      rfl
    obtain ⟨hfollows, hexpire⟩ := clockChange_settles mark base
    exact ⟨_, exec_taken hfree tag hcommon rfl howner, hfollows.inService tag _ _, (clockChange_current mark base).inService tag _ _,
      (clockChange_faces mark base).inService tag _ _, hexpire⟩

end Sys2Proof.Machine
end

section
/-! PROOFS. Ticks, turnovers and adjustments of the clock, and the quiet minute (spec: R21–R28, R86, R96, R101–R104, R171). -/

namespace Sys2Proof.Machine

/-! ## Work on the records alone -/

/-- `t` is `s` after work on records that leaves the sessions, FR and the bindings. -/
structure RecordWork (f : Rec → Rec) (s t : State) : Prop where
  through : FollowsThrough f s t
  sessions : t.sessions = s.sessions
  fr : t.fr = s.fr
  bound : t.bound = s.bound

namespace RecordWork

variable {f : Rec → Rec} {s t u : State}

theorem refl (f : Rec → Rec) (s : State) : RecordWork f s s := ⟨FollowsThrough.refl f s, rfl, rfl, rfl⟩

theorem trans (h : RecordWork f s t) (h' : RecordWork f t u) : RecordWork f s u :=
  ⟨h.through.trans h'.through, h'.sessions.trans h.sessions, h'.fr.trans h.fr, h'.bound.trans h.bound⟩

theorem of_follows (hf : SeesKept f) (h : Follows s t) (hsessions : t.sessions = s.sessions) (hfr : t.fr = s.fr) : RecordWork f s t :=
  ⟨h.through hf, hsessions, hfr, h.bound⟩

theorem dropOrder (hf : SeesKept f) (s : State) : RecordWork f s s.dropOrder := of_follows hf (dropOrder_follows s) rfl rfl

theorem forEach {α : Type} (hf : SeesKept f) (l : List α) (g : α → State → State) (hg : ∀ x ∈ l, ∀ s, RecordWork f s (g x s))
    (s : State) : RecordWork f s (forEach l g s) :=
  forEach_keeps (RecordWork f s) l g (fun u h => h.trans (dropOrder hf u)) (fun x hx u h => h.trans (hg x hx u)) s (refl f s)

theorem faces (h : RecordWork f s t) (hs : FacesNow s) : FacesNow t := by
  have hview : faceView t = faceView s := by
    simp only [faceView, h.sessions, h.through.lu, h.through.clock, h.through.text, h.through.nu, h.through.ps]
  exact hs.congr hview (by rw [h.through.nu]) (by rw [h.through.ps]) h.bound h.fr

theorem current (h : RecordWork f s t) (hs : AllCurrent s) : AllCurrent t :=
  hs.congr h.sessions h.through.clock (by rw [h.through.ps]) (by rw [h.through.lu])

end RecordWork

theorem evaluate_work {f : Rec → Rec} (hf : SeesKept f) (ix : SegIx) (a : Nat) (s : State) : RecordWork f s (evaluate ix a s) :=
  RecordWork.of_follows hf (evaluate_follows ix a s) rfl rfl

/-- A record replaced by one that `f` shows the same, with its binding and class. -/
theorem RecordWork.putRec {f : Rec → Rec} {s : State} {ix : SegIx} {a : Nat} {x y : Rec} (hx : s.rec? ix a = some x)
    (hf : f y = f x) (hbinding : y.binding = x.binding) (hcls : y.cls = x.cls) : RecordWork f s (s.putRec ix a y) := by
  have hother {jx : SegIx} (hj : jx ≠ ix) : (s.putRec ix a y).seg jx = s.seg jx := seg_setSeg_other s _ hj
  have hrecs (jx : SegIx) : Table.mapVals f ((s.putRec ix a y).seg jx).recs = Table.mapVals f (s.seg jx).recs := by
    by_cases hj : jx = ix
    · subst hj
      rw [seg_putRec_same]
      exact Table.mapVals_put f _ _ _ _ hx hf
    · rw [hother hj]
  have hrest (jx : SegIx) (recs : Table Rec) : ({ ((s.putRec ix a y).seg jx).kept with recs } : Seg) = { (s.seg jx).kept with recs } := by
    by_cases hj : jx = ix
    · subst hj
      rw [seg_putRec_same]
      rfl
    · rw [hother hj]
  refine ⟨⟨?_, BitVec.and_self, id⟩, rfl, rfl, State.bound_congr fun jx => ?_⟩
  · unfold State.keptThrough
    simp only [hrecs, hrest]
    rfl
  · by_cases hj : jx = ix
    · subst hj
      have hsame : Table.mapVals (fun r : Rec => (r.binding, r.cls)) (Table.put (s.seg jx).recs a y)
          = Table.mapVals (fun r : Rec => (r.binding, r.cls)) (s.seg jx).recs :=
        Table.mapVals_put _ _ _ _ _ hx (by rw [hbinding, hcls])
      have := congrArg (List.map Prod.snd) hsame
      rw [seg_putRec_same]
      simpa [Table.mapVals, Seg.bound, Function.comp_def] using this
    · rw [hother hj]

/-! ## The quiet minute -/

theorem seesKept_unmarked : SeesKept Rec.unmarked := fun r => by
  unfold Rec.unmarked
  rw [seesKept_kept]

theorem markMaintenance_work (ix : SegIx) (a : Nat) (s : State) : RecordWork Rec.unmarked s (markMaintenance ix a s) := by
  unfold markMaintenance
  split
  · exact RecordWork.refl _ s
  · rename_i r hr
    split
    · exact (RecordWork.putRec (y := { r with forcedFull := true }) hr rfl rfl rfl).trans (evaluate_work seesKept_unmarked ix a _)
    · exact RecordWork.refl _ s

theorem quietMinute_work (minute : Nat) (ix : SegIx) (s : State) : RecordWork Rec.unmarked s (quietMinute minute ix s) := by
  unfold quietMinute
  split
  · exact RecordWork.forEach seesKept_unmarked _ _ (fun a _ s => markMaintenance_work ix a s) s
  · exact RecordWork.refl _ s

theorem markMaintenance_drift (ix : SegIx) (a : Nat) (s : State) : RecsDrift True s (markMaintenance ix a s) := by
  unfold markMaintenance
  split
  · exact RecsDrift.of_sc rfl
  · rename_i r hr
    split
    · rename_i hidle
      have hput : Drifts True r { r with forcedFull := true } := by
        refine ⟨id, id, fun _ => id, fun h => ?_, rfl, fun _ => rfl, fun hor => ?_⟩
        · rcases hidle.1 with hs | hs <;> rw [hs] at h <;> cases h
        · rcases hor with h | h | h | ⟨f, h⟩
          · exact absurd trivial h
          · exact absurd h (Nat.ne_of_gt hidle.2)
          · rcases hidle.1 with hs | hs <;> rw [hs] at h <;> cases h
          · rcases hidle.1 with hs | hs <;> rw [hs] at h <;> cases h
      refine RecsDrift.of_only ((OnlyRecord.putRec ix a { r with forcedFull := true } s).trans (OnlyRecord.evaluate ix a _)) (fun x hx => ?_)
      obtain rfl : r = x := Option.some.inj (hr.symm.trans hx)
      obtain ⟨y, hy, hxy⟩ := evaluate_rec True (rec_putRec_same s ix a { r with forcedFull := true })
      exact ⟨y, hy, hput.trans hxy⟩
    · exact RecsDrift.of_sc rfl

/-- A record that waits with a ghost count is marked (R171). -/
theorem markMaintenance_marks {ix : SegIx} {a : Nat} {s : State} {x : Rec} (hx : s.rec? ix a = some x) (hidle : x.idle)
    (hghost : 0 < x.ghost) : ∃ y, (markMaintenance ix a s).rec? ix a = some y ∧ y.forcedFull = true := by
  unfold markMaintenance
  have hcond : (x.state = .online ∨ x.state = .queued) ∧ 0 < x.ghost := ⟨hidle, hghost⟩
  rw [hx]
  simp only
  rw [if_pos hcond]
  obtain ⟨y, hy, hxy⟩ := evaluate_rec True (rec_putRec_same s ix a { x with forcedFull := true })
  exact ⟨y, hy, hxy.forced rfl⟩

theorem RecsDrift.forEach {marks : Prop} {α : Type} (l : List α) (g : α → State → State) (hg : ∀ x ∈ l, ∀ s, RecsDrift marks s (g x s))
    (s : State) : RecsDrift marks s (forEach l g s) :=
  forEach_keeps (RecsDrift marks s) l g (fun _ h => h.trans (RecsDrift.of_sc rfl)) (fun x hx u h => h.trans (hg x hx u)) s
    (RecsDrift.of_sc rfl)

theorem quietMinute_drift (minute : Nat) (ix : SegIx) (s : State) :
    RecsDrift (s.ps.options.quiet = some minute) s (quietMinute minute ix s) := by
  unfold quietMinute
  split
  · exact (RecsDrift.forEach _ _ (fun a _ s => markMaintenance_drift ix a s) s).mono (fun _ => ‹_›)
  · exact RecsDrift.of_sc rfl

/-- Records of a segment that wait with a ghost count stand marked. -/
def Marked (s : State) (ix : SegIx) (v : State) : Prop :=
  ∀ a x, s.rec? ix a = some x → x.idle → 0 < x.ghost → ∃ y, v.rec? ix a = some y ∧ y.forcedFull = true

theorem Marked.drift {marks : Prop} {s v w : State} {ix : SegIx} (h : Marked s ix v) (hd : RecsDrift marks v w) : Marked s ix w := by
  intro a x hx hidle hghost
  obtain ⟨y, hy, hforced⟩ := h a x hx hidle hghost
  obtain ⟨z, hz, hyz⟩ := hd ix a y hy
  exact ⟨z, hz, hyz.forced hforced⟩

theorem quietMinute_marked {marks : Prop} {minute : Nat} {ix : SegIx} {s v : State} (hq : v.ps.options.quiet = some minute)
    (hd : RecsDrift marks s v) : Marked s ix (quietMinute minute ix v) := by
  intro a x hx hidle hghost
  obtain ⟨y, hy, hxy⟩ := hd ix a x hx
  unfold quietMinute maintainSeg
  rw [if_pos hq]
  refine forEach_establishes (I := fun u => RecsDrift True v u) (P := fun u => ∃ z, u.rec? ix a = some z ∧ z.forcedFull = true)
    (mem_keys_of_get hy) (fun u hu => hu.trans (RecsDrift.of_sc rfl)) (fun b _ u hu => hu.trans (markMaintenance_drift ix b u))
    (fun u hu => ?_) (fun b _ u hu ⟨z, hz, hforced⟩ => ?_) (RecsDrift.of_sc rfl)
  · obtain ⟨z, hz, hyz⟩ := hu ix a y hy
    exact markMaintenance_marks hz (hyz.idle (hxy.idle hidle)) (by rw [hyz.ghost, hxy.ghost]; exact hghost)
  · obtain ⟨z', hz', hzz⟩ := markMaintenance_drift ix b u ix a z hz
    exact ⟨z', hz', hzz.forced hforced⟩

/-! ## The turnover's receivers -/

theorem updateSessions_sc (s : State) : (updateSessions s).sc = s.sc := by simp [updateSessions]

theorem recomputeAll_drift {marks : Prop} (s : State) : RecsDrift marks s (recomputeAll s) :=
  (recomputeAll_work s).drift.mono False.elim

theorem sessionsMinute_drift {marks : Prop} (s : State) : RecsDrift marks s (sessionsMinute s) :=
  (RecsDrift.of_sc (updateSessions_sc s)).trans (recomputeAll_drift _)

theorem carouselStep_sc (minute : Nat) (s : State) : (carouselStep minute s).sc = s.sc := by
  unfold carouselStep
  split <;> rfl

theorem resolverMinute_drift {marks : Prop} (minute : Nat) (s : State) : RecsDrift marks s (resolverMinute minute s) :=
  (RecsDrift.of_sc (carouselStep_sc minute s)).trans (recomputeAll_drift _)

theorem purge_drift {marks : Prop} (day : Nat) (s : State) : RecsDrift marks s (purge day s) := by
  unfold purge
  split
  · exact RecsDrift.trans (t := s.withoutEarlier day) (RecsDrift.of_sc rfl) (recomputeAll_drift _)
  · exact RecsDrift.of_sc rfl

theorem expireNotices_drift {marks : Prop} (day minute : Nat) (s : State) : RecsDrift marks s (expireNotices day minute s) := by
  by_cases h : dueZones day minute s = []
  · rw [expireNotices_eq, if_pos h]
    exact RecsDrift.of_sc rfl
  · exact (RecsDrift.of_sc rfl).trans ((expireNotices_work h).drift.mono False.elim)

theorem sessionsMinute_follows (s : State) : Follows s (sessionsMinute s) :=
  (updateSessions_follows s).trans (recomputeAll_follows _)

theorem carouselStep_sessions (minute : Nat) (s : State) : (carouselStep minute s).sessions = s.sessions := by
  unfold carouselStep
  split <;> rfl

theorem AllCurrent.resolverMinute {s : State} (h : AllCurrent s) (minute : Nat) : AllCurrent (resolverMinute minute s) := by
  have hf := carouselStep_follows minute s
  exact recomputeAll_current (h.congr (carouselStep_sessions minute s) hf.clock (by rw [hf.ps]) (by rw [hf.lu]))

/-- The receivers of a natural minute turnover (R23). -/
def minuteReceivers (day minute : Nat) (dayToo : Bool) : List (State → State) :=
  [sessionsMinute, expireNotices day minute, resolverMinute minute] ++ allSegs.map (quietMinute minute)
    ++ if dayToo then [purge day] else []

theorem turnover_eq (day minute : Nat) (dayToo : Bool) (s : State) :
    turnover day minute dayToo s = deliver (minuteReceivers day minute dayToo) (raiseIf dayToo .clock s) := by
  cases dayToo <;> rfl

theorem mem_minuteReceivers {day minute : Nat} {dayToo : Bool} {g : State → State} :
    g ∈ minuteReceivers day minute dayToo ↔ g = sessionsMinute ∨ g = expireNotices day minute ∨ g = resolverMinute minute
      ∨ (∃ ix, g = quietMinute minute ix) ∨ (dayToo = true ∧ g = purge day) := by
  have hseg : (∃ ix ∈ allSegs, quietMinute minute ix = g) ↔ ∃ ix, g = quietMinute minute ix := by
    constructor
    · rintro ⟨ix, _, rfl⟩
      exact ⟨ix, rfl⟩
    · rintro ⟨ix, rfl⟩
      exact ⟨ix, by cases ix <;> decide, rfl⟩
  cases dayToo <;> simp [minuteReceivers, hseg]

section Turnover

variable {day minute : Nat} {dayToo : Bool} {g : State → State}

theorem minuteReceivers_work (hg : g ∈ minuteReceivers day minute dayToo) (v : State) :
    ClockWork Rec.unmarked dayToo day minute v (g v) := by
  rcases mem_minuteReceivers.1 hg with rfl | rfl | rfl | ⟨ix, rfl⟩ | ⟨rfl, rfl⟩
  · exact ClockWork.of_follows seesKept_unmarked (sessionsMinute_follows v)
  · exact ClockWork.expireNotices seesKept_unmarked
  · exact ClockWork.of_follows seesKept_unmarked (resolverMinute_follows minute v)
  · exact ClockWork.of_through (quietMinute_work minute ix v).through
  · exact ClockWork.purge seesKept_unmarked

theorem minuteReceivers_current (hg : g ∈ minuteReceivers day minute dayToo) {v : State} (h : AllCurrent v) : AllCurrent (g v) := by
  rcases mem_minuteReceivers.1 hg with rfl | rfl | rfl | ⟨ix, rfl⟩ | ⟨rfl, rfl⟩
  · exact recomputeAll_current (updateSessions_current v)
  · exact h.expireNotices day minute
  · exact h.resolverMinute minute
  · exact (quietMinute_work minute ix v).current h
  · exact h.purge day

theorem minuteReceivers_faces (hg : g ∈ minuteReceivers day minute dayToo) {v : State} (h : FacesNow v) : FacesNow (g v) := by
  rcases mem_minuteReceivers.1 hg with rfl | rfl | rfl | ⟨ix, rfl⟩ | ⟨rfl, rfl⟩
  · exact recomputeAll_faces _
  · exact h.expireNotices day minute
  · exact recomputeAll_faces _
  · exact (quietMinute_work minute ix v).faces h
  · exact h.purge day

theorem minuteReceivers_drift (hg : g ∈ minuteReceivers day minute dayToo) (v : State) :
    RecsDrift (v.ps.options.quiet = some minute) v (g v) := by
  rcases mem_minuteReceivers.1 hg with rfl | rfl | rfl | ⟨ix, rfl⟩ | ⟨rfl, rfl⟩
  · exact sessionsMinute_drift v
  · exact expireNotices_drift day minute v
  · exact resolverMinute_drift minute v
  · exact quietMinute_drift minute ix v
  · exact purge_drift day v

theorem turnover_settles (s : State) (hday : s.clock.day = day) :
    FollowsThrough Rec.unmarked (settled dayToo day minute (raiseIf dayToo .clock s)) (turnover day minute dayToo s)
      ∧ ((∃ e, e ∈ s.nu.notices ∧ e.2.due day minute = true) → flagSet (turnover day minute dayToo s) .expire = true) := by
  rw [turnover_eq]
  have h := deliver_settles (s := raiseIf dayToo .clock s) (mark := dayToo) (day := day) (minute := minute) seesKept_unmarked
    (l := minuteReceivers day minute dayToo) (by rw [raiseIf_clock, hday])
    (fun g hg v _ => minuteReceivers_work hg v) (mem_minuteReceivers.2 (Or.inr (Or.inl rfl)))
    (fun hmark => ⟨purge day, mem_minuteReceivers.2 (Or.inr (Or.inr (Or.inr (Or.inr ⟨hmark, rfl⟩)))), fun v _ => purge_purgedTo day v⟩)
  rw [raiseIf_nu] at h
  exact h

theorem turnover_current (s : State) : AllCurrent (turnover day minute dayToo s) := by
  rw [turnover_eq]
  exact deliver_establishes (I := fun _ => True) (mem_minuteReceivers.2 (Or.inl rfl)) (fun _ _ => trivial) (fun _ _ _ _ => trivial)
    (fun v _ => recomputeAll_current (updateSessions_current v)) (fun _ hg _ _ h => minuteReceivers_current hg h) trivial

theorem turnover_faces (s : State) : FacesNow (turnover day minute dayToo s) := by
  rw [turnover_eq]
  exact deliver_establishes (I := fun _ => True) (mem_minuteReceivers.2 (Or.inl rfl)) (fun _ _ => trivial) (fun _ _ _ _ => trivial)
    (fun v _ => recomputeAll_faces _) (fun _ hg _ _ h => minuteReceivers_faces hg h) trivial

/-- Between two receivers of a turnover the records have drifted, and the options stand. -/
def MidTurnover (minute : Nat) (s v : State) : Prop :=
  RecsDrift (s.ps.options.quiet = some minute) s v ∧ v.ps = s.ps

theorem MidTurnover.next {s v : State} (h : MidTurnover minute s v) (hg : g ∈ minuteReceivers day minute dayToo) :
    MidTurnover minute s (g v) := by
  have hdrift := minuteReceivers_drift hg v
  rw [h.2] at hdrift
  have hps : (g v).ps = v.ps := (minuteReceivers_work hg v).settled.ps
  exact ⟨h.1.trans hdrift, hps.trans h.2⟩

theorem turnover_records (s : State) :
    RecsDrift (s.ps.options.quiet = some minute) s (turnover day minute dayToo s)
      ∧ (s.ps.options.quiet = some minute → ∀ ix, Marked s ix (turnover day minute dayToo s)) := by
  have hstart : MidTurnover minute s (raiseIf dayToo .clock s) := ⟨RecsDrift.of_sc (raiseIf_sc _ _ _), raiseIf_ps _ _ _⟩
  have hdrop : ∀ v, MidTurnover minute s v → MidTurnover minute s v.dropOrder :=
    fun v hv => ⟨hv.1.trans (RecsDrift.of_sc rfl), hv.2⟩
  have hI : ∀ g ∈ minuteReceivers day minute dayToo, ∀ v, MidTurnover minute s v → MidTurnover minute s (g v) :=
    fun g hg v hv => hv.next hg
  rw [turnover_eq]
  have hst : sessionsMinute ∈ minuteReceivers day minute dayToo := mem_minuteReceivers.2 (Or.inl rfl)
  have hend : MidTurnover minute s (deliver (minuteReceivers day minute dayToo) (raiseIf dayToo .clock s)) :=
    deliver_establishes (P := MidTurnover minute s) hst hdrop hI (fun v hv => hI _ hst v hv) (fun g hg v hv _ => hI g hg v hv) hstart
  refine ⟨hend.1, fun hq ix => ?_⟩
  refine deliver_establishes (P := Marked s ix) (f0 := quietMinute minute ix)
    (mem_minuteReceivers.2 (Or.inr (Or.inr (Or.inr (Or.inl ⟨ix, rfl⟩))))) hdrop hI
    (fun v hv => quietMinute_marked (by rw [hv.2, hq]) hv.1) (fun g hg v _ h => h.drift (minuteReceivers_drift hg v)) hstart

end Turnover

/-! ## The carousel -/

/-- The page index of a directory slot as FR's part of a turnover shows it (R85–R87). -/
def keptIndex (s : State) (cls : PanelClass) (first count index : Nat) : Nat :=
  pageKept index (pageCount cls (lineList s first count).length)

theorem keptIndex_keptIndex (s : State) (cls : PanelClass) (first count index : Nat) :
    keptIndex s cls first count (keptIndex s cls first count index) = keptIndex s cls first count index := pageKept_pageKept _ _

theorem roleFaceOf_directory (s : State) {p : PanelSlot} {first count : Nat} {heading : TextRef} (cls : PanelClass) (index : Nat)
    (hrole : p.role = .directory first count heading) :
    (roleFaceOf s p cls index).index = keptIndex s cls first count index ∧ (roleFaceOf s p cls index).pages.isSome = true := by
  unfold roleFaceOf
  rw [hrole]
  exact ⟨rfl, rfl⟩

/-- A bound directory slot recomputed keeps its index below the page count (R87). -/
theorem recomputeSlot_index {s : State} {slot index first count : Nat} {heading : TextRef} {p : PanelSlot} {cls : PanelClass}
    (hp : Table.get s.ps.panels slot = some p) (hrole : p.role = .directory first count heading) (hc : s.holderClass slot = some cls)
    (hindex : Table.get s.fr.pages slot = some index) :
    Table.get (recomputeSlot slot s).fr.pages slot = some (keptIndex s cls first count index) := by
  have hpage : s.pageIndex slot = index := by rw [State.pageIndex, hindex, Option.getD_some]
  obtain ⟨hkept, hpages⟩ := roleFaceOf_directory s cls index hrole
  rw [recomputeSlot_fr_bound hp hc, hpage, State.storeFace]
  simp only [hpages, hkept, if_true, Table.get_put_same]

/-- Every bound slot recomputed: each directory slot's index is kept below its page count. -/
theorem recomputeAll_index {s : State} {slot index first count : Nat} {heading : TextRef} {p : PanelSlot} {cls : PanelClass}
    (hp : Table.get s.ps.panels slot = some p) (hrole : p.role = .directory first count heading) (hc : s.holderClass slot = some cls)
    (hindex : Table.get s.fr.pages slot = some index) :
    Table.get (recomputeAll s).fr.pages slot = some (keptIndex s cls first count index) := by
  have hview {v : State} (hv : FaceWork s v) (i : Nat) : keptIndex v cls first count i = keptIndex s cls first count i := by
    have hsame := roleFaceOf_congr hv.faceView p cls i
    rw [← (roleFaceOf_directory v cls i hrole).1, ← (roleFaceOf_directory s cls i hrole).1, hsame]
  have hslot {v : State} (hv : FaceWork s v) {i : Nat} (hi : Table.get v.fr.pages slot = some i) :
      Table.get (recomputeSlot slot v).fr.pages slot = some (keptIndex s cls first count i) := by
    rw [recomputeSlot_index (hv.follows.ps ▸ hp) hrole (hv.holderClass slot ▸ hc) hi, hview hv]
  refine forEach_establishes (x0 := slot) (I := fun v => FaceWork s v ∧ (Table.get v.fr.pages slot = some index
      ∨ Table.get v.fr.pages slot = some (keptIndex s cls first count index)))
    (P := fun v => Table.get v.fr.pages slot = some (keptIndex s cls first count index))
    (mem_boundSlots hp hc) (fun v hv => ⟨hv.1.trans (FaceWork.dropOrder v), hv.2⟩) (fun m _ v hv => ?_) (fun v hv => ?_)
    (fun m _ v hv h => ?_) ⟨FaceWork.refl s, Or.inl hindex⟩
  · refine ⟨hv.1.trans (recomputeSlot_work m v), ?_⟩
    by_cases hm : slot = m
    · subst hm
      rcases hv.2 with h | h
      · exact Or.inr (hslot hv.1 h)
      · exact Or.inr (by rw [hslot hv.1 h, keptIndex_keptIndex])
    · rw [(recomputeSlot_fr_other v hm).2]
      exact hv.2
  · rcases hv.2 with h | h
    · exact hslot hv.1 h
    · rw [hslot hv.1 h, keptIndex_keptIndex]
  · by_cases hm : slot = m
    · subst hm
      rw [hslot hv.1 h, keptIndex_keptIndex]
    · rw [(recomputeSlot_fr_other v hm).2, h]

theorem get_map_keyed {α : Type} (f : Nat → α → α) (t : Table α) (n : Nat) :
    Table.get (t.map (fun e => (e.1, f e.1 e.2))) n = (Table.get t n).map (f n) := by
  induction t with
  | nil => rfl
  | cons e t ih =>
    obtain ⟨k, v⟩ := e
    simp only [List.map_cons, Table.get_cons, ih]
    split
    · rename_i hk
      rw [hk]
      rfl
    · rfl

/-- The index after the carousel step (R86). -/
theorem carouselStep_pages (minute : Nat) (s : State) (slot : Nat) :
    Table.get (carouselStep minute s).fr.pages slot
      = (Table.get s.fr.pages slot).map (fun index =>
          if minute % s.ps.options.carousel = 0 then stepPage s.fr.faces slot index else index) := by
  unfold carouselStep
  split
  · exact get_map_keyed (stepPage s.fr.faces) s.fr.pages slot
  · rw [Option.map_id']

theorem stepPage_eq (faces : Table FaceRec) (slot index : Nat) :
    stepPage faces slot index = if ((Table.get faces slot).bind (·.pages)).isSome = true then
      (if some (index + 1) = (Table.get faces slot).bind (·.pages) then 0 else index + 1) else index := by
  unfold stepPage
  cases (Table.get faces slot).bind (·.pages) with
  | none => rfl
  | some count => simp

theorem keptIndex_eq (s : State) (cls : PanelClass) (first count index : Nat) :
    let lines := match cls with
      | .s => 4
      | .m => 8
      | .l => 12
    let pages := max 1 (((lineList s first count).length + lines - 1) / lines)
    keptIndex s cls first count index = if index < pages then index else 0 := by
  cases cls <;> rfl

theorem carouselStep_view (minute : Nat) (s : State) : faceView (carouselStep minute s) = faceView s := by
  have hf := carouselStep_follows minute s
  simp only [faceView, carouselStep_sessions, hf.lu, hf.clock, hf.text, hf.nu, hf.ps]

theorem resolverMinute_index {s : State} (minute : Nat) {slot index first count : Nat} {heading : TextRef} {p : PanelSlot}
    {cls : PanelClass} (hp : Table.get s.ps.panels slot = some p) (hrole : p.role = .directory first count heading)
    (hc : s.holderClass slot = some cls) (hindex : Table.get s.fr.pages slot = some index) :
    Table.get (resolverMinute minute s).fr.pages slot = some (keptIndex s cls first count
      (if minute % s.ps.options.carousel = 0 then stepPage s.fr.faces slot index else index)) := by
  have hf := carouselStep_follows minute s
  have hpages := carouselStep_pages minute s slot
  rw [hindex, Option.map_some] at hpages
  have hsame (i : Nat) : keptIndex (carouselStep minute s) cls first count i = keptIndex s cls first count i := by
    rw [← (roleFaceOf_directory _ cls i hrole).1, ← (roleFaceOf_directory s cls i hrole).1,
      roleFaceOf_congr (carouselStep_view minute s)]
  unfold resolverMinute
  rw [recomputeAll_index (by rw [hf.ps]; exact hp) hrole (by rw [holderClass_of_bound hf.bound]; exact hc) hpages, hsame]

/-! ## The minute turnover -/

theorem due_iff (n : Notice) (d m : Nat) : n.due d m = true ↔
    ∃ day minute, n.expiry = some (day, minute) ∧ (day < d ∨ (day = d ∧ minute ≤ m)) := by
  unfold Notice.due
  cases n.expiry with
  | none => simp
  | some e =>
    obtain ⟨day, minute⟩ := e
    simp

/-- EC's part of a tick at second 59: the clock passes to the next minute (R22). -/
theorem exec_minuteTurnover {s : State} (hpin : s.resetPin = false) (hmode : s.clock.mode = .running) (hsec : s.clock.second = 59)
    (hlast : ¬ (s.clock.day = 15 ∧ s.clock.minute = 1439)) : exec .minuteTurnover s = .next (passMinute s) := by
  have hend : s.clock.atEnd = false := by
    simp only [Clock.atEnd, Bool.and_eq_false_iff, decide_eq_false_iff_not]
    by_cases hday : s.clock.day = 15
    · exact Or.inl (Or.inr fun hm => hlast ⟨hday, hm⟩)
    · exact Or.inl (Or.inl hday)
  show execMinuteTurnover s = _
  unfold execMinuteTurnover
  rw [whenUp_up hpin, if_pos ⟨hmode, by simp [hend], hsec⟩]

/-- The day and minute after a turnover, and whether the day turns too. -/
theorem passMinute_eq {s : State} (hmode : s.clock.mode = .running) :
    passMinute s = turnover (if s.clock.minute = 1439 then s.clock.day + 1 else s.clock.day)
      (if s.clock.minute = 1439 then 0 else s.clock.minute + 1) (decide (s.clock.minute = 1439))
      { s with clock := { mode := .running
                          day := if s.clock.minute = 1439 then s.clock.day + 1 else s.clock.day
                          minute := if s.clock.minute = 1439 then 0 else s.clock.minute + 1, second := 0 } } := by
  unfold passMinute State.setTime
  by_cases h : s.clock.minute = 1439 <;> simp only [h, hmode, if_true, if_false, decide_true, decide_false]

/-- Settles O27: every receiver's part stands after a turnover, in whatever order they took it (R23); FR's part steps and
keeps the page indices (R86, R87). -/
theorem minuteTurnoverIsDelivered : Obligations.MinuteTurnoverIsDelivered := by
  refine ⟨fun s hpin hmode hsec hlast => ?_, fun s m slot index p h first count heading hp hrole hh hindex => ?_, due_iff⟩
  · intro dayToo d m now receivers
    have hpass : passMinute s = turnover d m dayToo now := by
      rw [passMinute_eq hmode]
      simp only [d, m, now, dayToo, decide_eq_true_eq]
    refine ⟨turnover d m dayToo now, by rw [exec_minuteTurnover hpin hmode hsec hlast, hpass], ⟨_, arrange_perm (raiseIf dayToo .clock now).nextOrder receivers, ?_⟩,
      ?_, turnover_current now, turnover_faces now, ?_, ?_, fun ix a x y hx hy => ?_⟩
    · rw [turnover_eq]
      rfl
    · have hsettled := (turnover_settles (day := d) (minute := m) (dayToo := dayToo) now rfl).1
      exact (((raiseIf_follows dayToo .clock now).settled dayToo d m).through seesKept_unmarked).trans hsettled
    · exact (turnover_settles (day := d) (minute := m) (dayToo := dayToo) now rfl).2
    · intro hday
      have hsettled := (turnover_settles (day := d) (minute := m) (dayToo := dayToo) now rfl).1
      refine flagSet_of_grow hsettled.grow ?_
      rw [hday]
      exact flagSet_raise _ _
    · obtain ⟨hdrift, hmarked⟩ := turnover_records (day := d) (minute := m) (dayToo := dayToo) now
      obtain ⟨y', hy', hxy⟩ := hdrift ix a x hx
      obtain rfl : y' = y := Option.some.inj (hy'.symm.trans hy)
      refine ⟨hxy.unmarked, fun _ hload => (hxy.loading hload).2, fun hq hghost hidle => ?_⟩
      obtain ⟨z, hz, hforced⟩ := hmarked hq ix a x hx hidle hghost
      obtain rfl : z = y' := Option.some.inj (hz.symm.trans hy)
      exact hforced
  · intro t steps held stepped lines pages
    have hc : s.holderClass slot = some h.rec_.cls := by rw [State.holderClass, hh]; rfl
    refine ⟨recomputeAll_faces _, resolverMinute_follows m s, ?_⟩
    have hindex' := resolverMinute_index m hp hrole hc hindex
    have hstep : (if m % s.ps.options.carousel = 0 then stepPage s.fr.faces slot index else index) = stepped := by
      rw [stepPage_eq]
      by_cases hsteps : m % s.ps.options.carousel = 0
      · simp only [stepped, steps, held, hsteps, if_true, true_and]
      · simp only [stepped, steps, hsteps, if_false, false_and]
    rw [hstep, keptIndex_eq] at hindex'
    exact hindex'

end Sys2Proof.Machine
end

section
/-! PROOFS. The second tick and ADJUST-CLOCK (spec: R21–R28, R101–R104), and the phase of a session (R33, R34). -/

namespace Sys2Proof.Machine

/-! ## The tick -/

theorem atEnd_iff (c : Clock) : c.atEnd = true ↔ c.day = 15 ∧ c.minute = 1439 ∧ c.second = 59 := by
  simp [Clock.atEnd, and_assoc]

/-- The part with another second on its clock. -/
def State.setSecond (s : State) (n : Nat) : State := { s with clock := { s.clock with second := n } }

theorem setSecond_clock (s : State) (n : Nat) : (s.setSecond n).clock = { s.clock with second := n } := rfl

/-- EC's part of a tick, by the clock's state and second (R22, R25). -/
theorem tickClock_stopped {s : State} (h : s.clock.mode ≠ .running) : tickClock s = s := if_neg h

theorem tickClock_within {s : State} (hmode : s.clock.mode = .running) (hsec : s.clock.second < 59) :
    tickClock s = s.setSecond (s.clock.second + 1) := by
  have hend : ¬ s.clock.atEnd = true := fun h => by
    have := ((atEnd_iff _).1 h).2.2
    omega
  unfold tickClock
  rw [if_pos hmode, if_neg hend, if_neg (Nat.ne_of_lt hsec)]
  rfl

theorem tickClock_last {s : State} (hmode : s.clock.mode = .running)
    (hlast : s.clock.day = 15 ∧ s.clock.minute = 1439 ∧ s.clock.second = 59) : tickClock s = expireClock s := by
  unfold tickClock
  rw [if_pos hmode, if_pos ((atEnd_iff _).2 hlast)]

theorem tickClock_turns {s : State} (hmode : s.clock.mode = .running) (hsec : s.clock.second = 59)
    (hlast : ¬ (s.clock.day = 15 ∧ s.clock.minute = 1439 ∧ s.clock.second = 59)) : tickClock s = passMinute s := by
  unfold tickClock
  rw [if_pos hmode, if_neg (fun h => hlast ((atEnd_iff _).1 h)), if_pos hsec]

/-- Settles O28: EC's part by the clock's state, then NU's (R21). -/
theorem secondTickCountsClockAndHold : Obligations.SecondTickCountsClockAndHold := by
  intro s hpin last expired released hold
  have hhold (u : State) : tickHold u = hold u := by
    unfold tickHold
    cases hheld : u.nu.held with
    | false => simp only [hold, hheld, if_true, Bool.false_eq_true, if_false]
    | true => simp only [hold, hheld, if_true, Bool.true_eq_false, if_false]; rfl
  have htick : exec .secondTick s = .next (hold (tickClock s)) := by
    rw [← hhold]
    show execSecondTick s = _
    rw [execSecondTick, whenUp_up hpin]
  refine ⟨fun hmode => ?_, fun hmode hsec => ?_, fun hmode hlast => ⟨?_, ?_⟩, fun hmode hsec hlast u hu => ?_, fun hheld htimer => ?_⟩
  · rw [htick, tickClock_stopped hmode]
  · rw [htick, tickClock_within hmode hsec]
    rfl
  · rw [htick, tickClock_last hmode hlast]
    rfl
  · show execClockExpire s = _
    rw [execClockExpire, whenUp_up hpin, if_pos ⟨hmode, (atEnd_iff _).2 hlast⟩]
    rfl
  · have hturn : ¬ (s.clock.day = 15 ∧ s.clock.minute = 1439) := fun h => hlast ⟨h.1, h.2, hsec⟩
    rw [exec_minuteTurnover hpin hmode hsec hturn] at hu
    obtain rfl : passMinute s = u := by injection hu
    rw [htick, tickClock_turns hmode hsec hlast]
  · show execHoldTimeout s = _
    rw [execHoldTimeout, whenUp_up hpin, if_pos ⟨hheld, by omega⟩]
    rfl

/-! ## Phases -/

/-- Settles O33: the tests of R34 in order. -/
theorem phasesFollowTheClock : Obligations.PhasesFollowTheClock := by
  intro c lead x open_ stop
  have hopen : x.opening lead = open_ := rfl
  have hstop : x.effectiveEnd = stop := rfl
  refine ⟨fun e he => ?_, fun he => ?_, fun hmode => if_pos hmode, fun hmode hc => ?_, fun hmode hc => ⟨fun hd => ?_, fun hd => ?_, fun hd => ?_⟩⟩
  · simp only [stop, Session.effectiveEnd, he]
  · simp only [stop, Session.effectiveEnd, he]
  · rw [phaseAt, if_neg hmode, if_pos hc]
  · rw [phaseAt, if_neg hmode, if_neg (by simp [hc]), if_pos hd]
  · rw [phaseAt, if_neg hmode, if_neg (by simp [hc]), if_neg (by omega), if_pos hd]
  · have hday : phaseAt c lead x = if c.minute < open_ then .upcoming else if c.minute < x.start then .doors
        else if c.minute < min x.stop stop then .live else if x.stop ≤ c.minute ∧ c.minute < stop then .overrun else .done := by
      rw [phaseAt, if_neg hmode, if_neg (by simp [hc]), if_neg (by omega), if_neg (by omega), hopen, hstop]
    have hle : open_ ≤ x.start := Nat.sub_le _ _
    rw [hday]
    refine ⟨fun h => if_pos h, fun h1 h2 => ?_, fun h1 h2 => ?_, fun h1 h2 h3 => ?_, fun h1 h2 => ?_⟩
    · rw [if_neg (by omega), if_pos h2]
    · rw [if_neg (by omega), if_neg (by omega), if_pos h2]
    · rw [if_neg (by omega), if_neg (by omega), if_neg (by omega), if_pos ⟨h2, h3⟩]
    · rw [if_neg (by omega), if_neg (by omega), if_neg (by omega), if_neg (by omega)]

/-! ## ADJUST-CLOCK -/

theorem times_add (f : State → State) (m n : Nat) (s : State) : times f (m + n) s = times f n (times f m s) := by
  induction m generalizing s with
  | zero => rw [Nat.zero_add]; rfl
  | succ m ih =>
    rw [Nat.succ_add]
    exact ih (f s)

theorem times_ticks_within {s : State} (hmode : s.clock.mode = .running) {k : Nat} (hk : s.clock.second + k ≤ 59) :
    times tickClock k s = s.setSecond (s.clock.second + k) := by
  induction k generalizing s with
  | zero => rfl
  | succ k ih =>
    have hsec : (s.setSecond (s.clock.second + 1)).clock.second = s.clock.second + 1 := rfl
    show times tickClock k (tickClock s) = _
    rw [tickClock_within hmode (by omega), ih (s := s.setSecond (s.clock.second + 1)) hmode (by rw [hsec]; omega), hsec,
      show s.clock.second + (k + 1) = s.clock.second + 1 + k by omega]
    rfl

theorem times_ticks_stopped {s : State} (hmode : s.clock.mode ≠ .running) (k : Nat) : times tickClock k s = s := by
  induction k with
  | zero => rfl
  | succ k ih =>
    show times tickClock k (tickClock s) = s
    rw [tickClock_stopped hmode, ih]

theorem times_ticks_split {s : State} (hmode : s.clock.mode = .running) (hsec : s.clock.second ≤ 59) {k : Nat}
    (hk : 59 < s.clock.second + k) :
    times tickClock k s = times tickClock (s.clock.second + k - 60) (tickClock (s.setSecond 59)) := by
  have hsplit : k = (59 - s.clock.second) + ((s.clock.second + k - 60) + 1) := by omega
  conv_lhs => rw [hsplit]
  rw [times_add, times_ticks_within hmode (by omega), show s.clock.second + (59 - s.clock.second) = 59 by omega]
  rfl

theorem turnover_clock {day minute : Nat} {dayToo : Bool} (s : State) (hday : s.clock.day = day) :
    (turnover day minute dayToo s).clock = s.clock := by
  have hsettled := (turnover_settles (minute := minute) (dayToo := dayToo) s hday).1.clock
  rw [hsettled]
  exact raiseIf_clock _ _ _

/-- The clock after a turnover (R22). -/
theorem passMinute_clock {s : State} (hmode : s.clock.mode = .running) : (passMinute s).clock =
    { mode := .running, day := if s.clock.minute = 1439 then s.clock.day + 1 else s.clock.day
      minute := if s.clock.minute = 1439 then 0 else s.clock.minute + 1, second := 0 } := by
  rw [passMinute_eq hmode]
  exact turnover_clock _ rfl

/-- The reply of ADJUST-CLOCK taken, from the clock after it (R28). -/
def adjustReply (applied : Int) (c : Clock) : List Byte :=
  [0x00, BitVec.ofInt 8 applied, c.mode.code, byte c.day] ++ two c.minute ++ [byte c.second]

theorem exec_adjustClock {s t : State} (hfree : Free s) (hplan : s.ps.plan ≠ .loading) (tag seconds : Byte)
    (hrange : -30 ≤ seconds.toInt ∧ seconds.toInt ≤ 30) (hmode : s.clock.mode = .running)
    (ht : (if 0 ≤ seconds.toInt then times tickClock seconds.toInt.toNat s else moveBack (-seconds.toInt).toNat s) = t) :
    exec (.adjustClock tag seconds) s = .next (t.inService tag (.request (.adjustClock seconds))
      (adjustReply ((t.clock.seconds : Int) - s.clock.seconds) t.clock)) := by
  have howner : owner (.adjustClock seconds) s = .ok (t, [signedByte ((t.clock.seconds : Int) - s.clock.seconds), t.clock.mode.code]
      ++ clockBytes t.clock) := by
    have hin : ¬ (seconds.toInt < -30 ∨ 30 < seconds.toInt) := by omega
    simp only [owner, adjustClock, if_neg hin, hmode, ne_eq, not_true_eq_false, if_false, ht]
    rfl
  exact exec_taken hfree tag (commonRefusal_other rfl hplan rfl) rfl howner

theorem seconds_eq (c : Clock) : c.seconds = (c.day * 1440 + c.minute) * 60 + c.second := rfl

/-- Settles O29: forward by ticks, backward by one move, with a clock change into an earlier minute only (R28). -/
theorem adjustClockMovesTheTime : Obligations.AdjustClockMovesTheTime := by
  intro s tag seconds hfree hplan hgood r c k old reply ready lastMinute back
  obtain ⟨hday, hminute, hsecond, -, -⟩ := hgood
  have hcommon : commonRefusal r s = none := commonRefusal_other rfl hplan rfl
  have hold : s.clock.seconds = old := rfl
  refine ⟨fun h => exec_refused hfree tag hcommon ?_, fun h1 h2 hmode => exec_refused hfree tag hcommon ?_, fun ⟨h1, h2, hmode⟩ hk hsec => ?_,
    fun ⟨h1, h2, hmode⟩ hk hsec hlast => ?_, fun ⟨h1, h2, hmode⟩ hk hsec hlast u hu => ?_, fun ⟨h1, h2, hmode⟩ hk hsame => ?_,
    fun ⟨h1, h2, hmode⟩ hk hsame => ?_⟩
  · have hout : seconds.toInt < -30 ∨ 30 < seconds.toInt := by omega
    simp only [owner, r, adjustClock, if_pos hout]
    rfl
  · have hin : ¬ (seconds.toInt < -30 ∨ 30 < seconds.toInt) := by omega
    simp only [owner, r, adjustClock, if_neg hin, ne_eq, hmode, not_false_eq_true, if_true]
    rfl
  · have ht : (if 0 ≤ seconds.toInt then times tickClock seconds.toInt.toNat s else moveBack (-seconds.toInt).toNat s)
        = s.setSecond (s.clock.second + k.toNat) := by rw [if_pos hk, times_ticks_within hmode hsec]
    have happlied : (((s.setSecond (s.clock.second + k.toNat)).clock.seconds : Int) - s.clock.seconds) = k := by
      simp only [seconds_eq, setSecond_clock]
      omega
    rw [exec_adjustClock hfree hplan tag seconds ⟨h1, h2⟩ hmode ht, happlied, adjustReply, setSecond_clock, hmode]
    rfl
  · have ht : (if 0 ≤ seconds.toInt then times tickClock seconds.toInt.toNat s else moveBack (-seconds.toInt).toNat s)
        = expireClock (s.setSecond 59) := by
      rw [if_pos hk, times_ticks_split hmode hsecond hsec, tickClock_last (s := s.setSecond 59) hmode ⟨hlast.1, hlast.2, rfl⟩]
      exact times_ticks_stopped (fun h => ClockMode.noConfusion h) _
    have hclock : (expireClock (s.setSecond 59)).clock = { mode := .expired, day := 15, minute := 1439, second := 59 } := by
      rw [← hlast.1, ← hlast.2]
      rfl
    have happlied : (((expireClock (s.setSecond 59)).clock.seconds : Int) - s.clock.seconds) = 59 - s.clock.second := by
      rw [hclock]
      simp only [seconds_eq]
      omega
    rw [exec_adjustClock hfree hplan tag seconds ⟨h1, h2⟩ hmode ht, happlied, adjustReply, hclock]
    rfl
  · have hat : (s.setSecond 59).clock.mode = .running := hmode
    have hexec := (exec_minuteTurnover (s := s.setSecond 59) hfree.1 hat rfl hlast).symm.trans hu
    obtain rfl : passMinute (s.setSecond 59) = u := by injection hexec
    have hclock := passMinute_clock hat
    generalize hpass : passMinute (s.setSecond 59) = u at hclock ⊢
    have hmode' : u.clock.mode = .running := by rw [hclock]
    have hzero : u.clock.second = 0 := by rw [hclock]
    have ht : (if 0 ≤ seconds.toInt then times tickClock seconds.toInt.toNat s else moveBack (-seconds.toInt).toNat s)
        = u.setSecond (s.clock.second + k.toNat - 60) := by
      rw [if_pos hk, times_ticks_split hmode hsecond hsec,
        tickClock_turns (s := s.setSecond 59) hmode rfl (fun h => hlast ⟨h.1, h.2.1⟩), hpass,
        times_ticks_within hmode' (by omega), hzero, Nat.zero_add]
    have happlied : (((u.setSecond (s.clock.second + k.toNat - 60)).clock.seconds : Int) - s.clock.seconds) = k := by
      simp only [seconds_eq, setSecond_clock, hclock]
      by_cases hm : s.clock.minute = 1439
      · simp only [hm, if_true]
        omega
      · simp only [hm, if_false]
        omega
    rw [exec_adjustClock hfree hplan tag seconds ⟨h1, h2⟩ hmode ht, happlied, adjustReply, setSecond_clock, hmode']
    rfl
  · have ht : (if 0 ≤ seconds.toInt then times tickClock seconds.toInt.toNat s else moveBack (-seconds.toInt).toNat s)
        = s.setSecond (back % 60) := by
      have hd : back / 86400 = s.clock.day := by omega
      have hm : back / 60 % 1440 = s.clock.minute := by omega
      rw [if_neg (by omega)]
      unfold moveBack
      simp only [hold]
      rw [if_pos hsame, State.setTime, hd, hm]
      rfl
    have happlied : (((s.setSecond (back % 60)).clock.seconds : Int) - s.clock.seconds) = (back : Int) - old := by
      simp only [seconds_eq, setSecond_clock]
      omega
    rw [exec_adjustClock hfree hplan tag seconds ⟨h1, h2⟩ hmode ht, happlied, adjustReply, setSecond_clock, hmode]
    rfl
  · intro d m
    let now : State := { s with clock := { mode := .running, day := d, minute := m, second := back % 60 } }
    have hnow : s.setTime d m (back % 60) = now := by simp only [State.setTime, hmode, now]
    have ht : (if 0 ≤ seconds.toInt then times tickClock seconds.toInt.toNat s else moveBack (-seconds.toInt).toNat s)
        = clockChange false now := by
      rw [if_neg (by omega)]
      unfold moveBack
      simp only [hold]
      rw [if_neg hsame, ← hnow]
    have hfollows := (clockChange_settles false now).1
    have hall : settled false d m now = { now with nu := { s.nu with notices := s.nu.notices.filter (fun e => !e.2.due d m) } } := by
      simp [settled, now]
    have hclock : (clockChange false now).clock = now.clock := hfollows.clock
    have happlied : (((clockChange false now).clock.seconds : Int) - s.clock.seconds) = (back : Int) - old := by
      rw [hclock]
      simp only [seconds_eq, now]
      omega
    refine ⟨_, exec_adjustClock hfree hplan tag seconds ⟨h1, h2⟩ hmode ht, ?_, (clockChange_current false now).inService tag _ _⟩
    rw [happlied, hclock]
    rw [hall] at hfollows
    exact hfollows.inService tag _ _

end Sys2Proof.Machine
end

section
/-! PROOFS. RESTART applied (spec: R54, R65, R87, R90, R96, R106, R187, R189): each block's part, in any order the manual leaves. -/

namespace Sys2Proof.Machine

/-! ## Flags that ST's and FR's work raises -/

/-- No flag but LAYOUT and PANEL is raised or cleared. -/
def LowFlags (s t : State) : Prop := ∀ f, f ≠ .layout → f ≠ .panel → flagSet t f = flagSet s f

namespace LowFlags

variable {s t u : State}

theorem refl (s : State) : LowFlags s s := fun _ _ _ => rfl

theorem trans (h : LowFlags s t) (h' : LowFlags t u) : LowFlags s u := fun f h1 h2 => (h' f h1 h2).trans (h f h1 h2)

theorem of_work (h : FaceWork s t) : LowFlags s t := fun f _ h2 => h.flags f h2

theorem deliver (l : List (State → State)) (hl : ∀ f ∈ l, ∀ s, LowFlags s (f s)) (s : State) : LowFlags s (deliver l s) :=
  forEach_keeps (LowFlags s) l (fun f => f) (fun _ h => h) (fun f hf u h => h.trans (hl f hf u)) s (refl s)

end LowFlags

theorem recomputeAll_low (s : State) : LowFlags s (recomputeAll s) := LowFlags.of_work (recomputeAll_work s)

theorem updateSessions_low (s : State) : LowFlags s (updateSessions s) := by
  intro f hl _
  unfold updateSessions raiseIf
  simp only
  split
  · exact flagSet_raise_other hl _
  · rfl

theorem reevaluateAll_low (changed : Bool) (s : State) : LowFlags s (reevaluateAll changed s) := by
  unfold reevaluateAll
  split
  · exact (updateSessions_low s).trans (recomputeAll_low _)
  · exact updateSessions_low s

theorem rederive_low (s : State) : LowFlags s (rederive s) := by
  rw [rederive_eq]
  split
  · exact LowFlags.refl s
  · refine LowFlags.trans (t := { s with lu := s.lu.derived }) (fun _ _ _ => rfl) (LowFlags.deliver _ (fun f hf u => ?_) _)
    rcases mem_spaceReceivers.1 hf with rfl | rfl
    · exact reevaluateAll_low false u
    · exact recomputeAll_low u

/-! ## Page indices at 0 -/

/-- Every page index FR holds is 0. -/
def ZeroPages (s : State) : Prop := ∀ e, e ∈ s.fr.pages → e.2 = 0

namespace ZeroPages

variable {s t : State}

theorem of_pages (h : ZeroPages s) (hp : t.fr.pages = s.fr.pages) : ZeroPages t := fun e he => h e (hp ▸ he)

theorem pageIndex (h : ZeroPages s) (slot : Nat) : s.pageIndex slot = 0 := by
  unfold State.pageIndex
  cases hg : Table.get s.fr.pages slot with
  | none => rfl
  | some index => exact h _ (mem_of_get hg)

theorem recomputeSlot (h : ZeroPages s) (slot : Nat) : ZeroPages (recomputeSlot slot s) := by
  cases hp : Table.get s.ps.panels slot with
  | none =>
    unfold Machine.recomputeSlot
    simp only [hp]
    exact h
  | some p =>
    cases hc : s.holderClass slot with
    | none =>
      have hnone : s.holder slot = none := Option.map_eq_none_iff.1 hc
      unfold Machine.recomputeSlot
      simp only [hp, hnone]
      exact h
    | some cls =>
      have hzero : (roleFaceOf s p cls (s.pageIndex slot)).index = 0 := by
        unfold roleFaceOf
        rw [h.pageIndex]
        cases p.role with
        | door sec => rfl
        | directory first count heading => exact if_pos (Nat.lt_of_lt_of_le Nat.zero_lt_one (Nat.le_max_left _ _))
      unfold ZeroPages
      rw [recomputeSlot_fr_bound hp hc]
      unfold State.storeFace
      simp only [hzero]
      split
      · intro e he
        rcases Table.mem_put he with rfl | he
        · rfl
        · exact h e he
      · exact h

theorem forEach {α : Type} (h : ZeroPages s) (l : List α) (f : α → State → State) (hf : ∀ x ∈ l, ∀ u, ZeroPages u → ZeroPages (f x u)) :
    ZeroPages (forEach l f s) :=
  forEach_keeps ZeroPages l f (fun _ h => h) (fun x hx u h => hf x hx u h) s h

theorem recomputeAll (h : ZeroPages s) : ZeroPages (recomputeAll s) := h.forEach _ _ (fun slot _ _ hu => hu.recomputeSlot slot)

theorem recomputeZone (h : ZeroPages s) (zone : Nat) : ZeroPages (recomputeZone zone s) :=
  h.forEach _ _ (fun slot _ _ hu => hu.recomputeSlot slot)

theorem reevaluateAll (h : ZeroPages s) (changed : Bool) : ZeroPages (reevaluateAll changed s) := by
  have hupdate : ZeroPages (updateSessions s) := h.of_pages (by rw [updateSessions_fr])
  unfold Machine.reevaluateAll
  split
  · exact hupdate.recomputeAll
  · exact hupdate

theorem rederive (h : ZeroPages s) : ZeroPages (rederive s) := by
  rw [rederive_eq]
  split
  · exact h
  · refine ZeroPages.forEach (s := { s with lu := s.lu.derived }) h _ _ (fun f hf u hu => ?_)
    rcases mem_spaceReceivers.1 hf with rfl | rfl
    · exact hu.reevaluateAll false
    · exact hu.recomputeAll

end ZeroPages

theorem mem_storeFace_pages {s : State} : ZeroPages { s with fr := { s.fr with pages := Table.mapVals (fun _ => 0) s.fr.pages } } := by
  intro e he
  obtain ⟨e', _, rfl⟩ := List.mem_map.1 he
  rfl

/-! ## What each block comes to -/

/-- Every section open again. -/
def Layout.opened (lu : Layout) : Layout := { lu with sections := Table.mapVals (fun x => { x with closed := false }) lu.sections }

theorem opened_opened (lu : Layout) : lu.opened.opened = lu.opened := by
  unfold Layout.opened
  simp only [Table.mapVals_mapVals]

/-- LU as a RESTART leaves it: open, the spaces derived. -/
def Layout.restarted (lu : Layout) : Layout := lu.opened.derived

theorem restarted_restarted (lu : Layout) : lu.restarted.restarted = lu.restarted := by
  have hagain : lu.restarted.restarted = lu.opened.opened.derived := rfl
  rw [hagain, opened_opened]
  rfl

/-- One block at the values a RESTART gives it, FR's faces aside. -/
def restartBase : RestartPart → State → State
  | .layout, v => { v with lu := v.lu.restarted }
  | .clock, v => { v with clock := Clock.atReset }
  | .sessions, v => { v with sessions := [] }
  | .text, v => { v with text := v.text.clearSchedule }
  | .notices, v => { v with nu := NoticeUnit.atReset }
  | .resolver, v => v

/-- Every block so. -/
def restarted (v : State) : State :=
  { v with lu := v.lu.restarted, clock := Clock.atReset, sessions := [], text := v.text.clearSchedule, nu := NoticeUnit.atReset }

theorem clearSchedule_clearSchedule (m : TextMem) : m.clearSchedule.clearSchedule = m.clearSchedule := by
  simp [TextMem.clearSchedule]

theorem restarted_base (p : RestartPart) (v : State) : restarted (restartBase p v) = restarted v := by
  cases p with
  | layout => simp only [restarted, restartBase, restarted_restarted]
  | text => simp only [restarted, restartBase, clearSchedule_clearSchedule]
  | clock | sessions | notices | resolver => rfl

theorem Follows.restarted {s t : State} (h : Follows s t) : Follows (restarted s) (restarted t) := by
  refine ⟨?_, h.grow, h.good⟩
  have hsame : (Machine.restarted t).kept = { t.kept with
      lu := t.lu.restarted, clock := Clock.atReset, sessions := [], text := t.text.clearSchedule, nu := NoticeUnit.atReset } := rfl
  have hsame' : (Machine.restarted s).kept = { s.kept with
      lu := s.lu.restarted, clock := Clock.atReset, sessions := [], text := s.text.clearSchedule, nu := NoticeUnit.atReset } := rfl
  rw [hsame, hsame', h.kept, h.lu, h.text]

/-- A block stands at the values a RESTART gives it. -/
def Restarted : RestartPart → State → Prop
  | .layout, v => v.lu.restarted = v.lu
  | .clock, v => v.clock = Clock.atReset
  | .sessions, v => v.sessions = []
  | .text, v => v.text.clearSchedule = v.text
  | .notices, v => v.nu = NoticeUnit.atReset
  | .resolver, v => ZeroPages v ∧ FacesNow v

theorem restarted_eq {v : State} (h : ∀ p, Restarted p v) : restarted v = v := by
  have hlu : v.lu.restarted = v.lu := h .layout
  have hclock : v.clock = Clock.atReset := h .clock
  have hsessions : v.sessions = [] := h .sessions
  have htext : v.text.clearSchedule = v.text := h .text
  have hnu : v.nu = NoticeUnit.atReset := h .notices
  unfold restarted
  rw [hlu, htext, ← hclock, ← hnu, ← hsessions]

/-- Deliveries leave the blocks beside FR as they stand. -/
theorem Restarted.follows {p : RestartPart} {s t : State} (h : Restarted p s) (hf : Follows s t) (hp : p ≠ .resolver) : Restarted p t := by
  cases p with
  | layout => exact (congrArg Layout.restarted hf.lu).trans (h.trans hf.lu.symm)
  | clock => exact hf.clock.trans h
  | sessions =>
    have hstored := hf.stored
    have hnil : s.sessions = [] := h
    rw [hnil] at hstored
    exact List.map_eq_nil_iff.1 hstored
  | text => exact (congrArg TextMem.clearSchedule hf.text).trans (h.trans hf.text.symm)
  | notices => exact hf.nu.trans h
  | resolver => exact absurd rfl hp

/-- A block restarted stands so, and the others stand as they stood. -/
theorem restartBase_restarted {p q : RestartPart} {v : State} (hq : q ≠ .resolver) (h : q = p ∨ Restarted q v) :
    Restarted q (restartBase p v) := by
  by_cases hqp : q = p
  · subst hqp
    cases q with
    | layout => exact restarted_restarted v.lu
    | text => exact clearSchedule_clearSchedule v.text
    | clock | sessions | notices => rfl
    | resolver => exact absurd rfl hq
  · have hv := h.resolve_left hqp
    have hkeeps : Restarted q (restartBase p v) = Restarted q v := by
      cases p <;> cases q
      case layout.layout | clock.clock | sessions.sessions | text.text | notices.notices => exact absurd rfl hqp
      case layout.resolver | clock.resolver | sessions.resolver | text.resolver | notices.resolver | resolver.resolver => exact absurd rfl hq
      all_goals rfl
    exact hkeeps ▸ hv

/-! ## Each block's part -/

theorem restartNotices_work (v : State) : FaceWork { v with nu := NoticeUnit.atReset } (restartNotices v) := by
  refine FaceWork.forEach _ _ (fun f hf u => ?_) _
  rcases List.mem_append.1 hf with hf | hf
  · obtain ⟨zone, _, rfl⟩ := List.mem_map.1 hf
    exact recomputeZone_work zone u
  · obtain ⟨slot, _, rfl⟩ := List.mem_map.1 hf
    exact recomputeSlot_work slot u

theorem settled_of_no_notices {day minute : Nat} {v : State} (h : v.nu.notices = []) : settled false day minute v = v := by
  refine Settled.eq ⟨fun hf => Bool.noConfusion hf, ?_⟩
  rw [h]
  exact fun e he => absurd he List.not_mem_nil

theorem restartBlock_follows (p : RestartPart) (v : State) (h : p = .clock → v.nu.notices = []) :
    Follows (restartBase p v) (restartBlock p v) := by
  cases p with
  | layout => exact rederive_lu v v.lu.opened
  | clock =>
    have hfollows := (clockChange_settles false { v with clock := Clock.atReset }).1
    rw [settled_of_no_notices (v := { v with clock := Clock.atReset }) (h rfl)] at hfollows
    exact hfollows
  | sessions => exact recomputeAll_follows _
  | text => exact recomputeAll_follows _
  | notices => exact (restartNotices_work v).follows
  | resolver =>
    exact Follows.trans (t := { v with fr := { v.fr with pages := Table.mapVals (fun _ => 0) v.fr.pages } })
      (Follows.of_li rfl rfl rfl) (recomputeAll_follows _)

theorem expireNotices_of_none {day minute : Nat} {v : State} (h : v.nu.notices = []) : expireNotices day minute v = v := by
  rw [expireNotices_eq, dueZones, h]
  rfl

/-- A clock change without notices: ST's and FR's parts alone do anything. -/
theorem clockChange_low {v : State} (h : v.nu.notices = []) : LowFlags v (clockChange false v) := by
  rw [clockChange_eq]
  refine (forEach_keeps (fun u => u.nu = v.nu ∧ LowFlags v u) _ _ (fun _ hu => hu) (fun g hg u hu => ?_) v ⟨rfl, LowFlags.refl v⟩).2
  rcases mem_clockReceivers.1 hg with rfl | rfl | rfl
  · exact ⟨(reevaluateSessions_follows u).nu.trans hu.1, hu.2.trans (reevaluateAll_low false u)⟩
  · rw [expireNotices_of_none (hu.1 ▸ h)]
    exact hu
  · exact ⟨(recomputeAll_follows u).nu.trans hu.1, hu.2.trans (recomputeAll_low u)⟩

theorem ZeroPages.clockChange {v : State} (hz : ZeroPages v) (h : v.nu.notices = []) : ZeroPages (clockChange false v) := by
  rw [clockChange_eq]
  refine (forEach_keeps (fun u => u.nu = v.nu ∧ ZeroPages u) _ _ (fun _ hu => hu) (fun g hg u hu => ?_) v ⟨rfl, hz⟩).2
  rcases mem_clockReceivers.1 hg with rfl | rfl | rfl
  · exact ⟨(reevaluateSessions_follows u).nu.trans hu.1, hu.2.reevaluateAll false⟩
  · rw [expireNotices_of_none (hu.1 ▸ h)]
    exact hu
  · exact ⟨(recomputeAll_follows u).nu.trans hu.1, hu.2.recomputeAll⟩

theorem restartBlock_low (p : RestartPart) (v : State) (h : p = .clock → v.nu.notices = []) : LowFlags v (restartBlock p v) := by
  have hof {u : State} (hli : u.li = v.li) : LowFlags v u := fun f _ _ => by rw [flagSet, hli, flagSet]
  cases p with
  | layout => exact (hof (u := { v with lu := v.lu.opened }) rfl).trans (rederive_low _)
  | clock => exact (hof (u := { v with clock := Clock.atReset }) rfl).trans (clockChange_low (h rfl))
  | sessions => exact (hof (u := { v with sessions := [] }) rfl).trans (recomputeAll_low _)
  | text => exact (hof (u := { v with text := v.text.clearSchedule }) rfl).trans (recomputeAll_low _)
  | notices => exact (hof (u := { v with nu := NoticeUnit.atReset }) rfl).trans (LowFlags.of_work (restartNotices_work v))
  | resolver =>
    exact (hof (u := { v with fr := { v.fr with pages := Table.mapVals (fun _ => 0) v.fr.pages } }) rfl).trans (recomputeAll_low _)

theorem restartBlock_zero (p : RestartPart) (v : State) (h : p = .clock → v.nu.notices = []) (hz : p = .resolver ∨ ZeroPages v) :
    ZeroPages (restartBlock p v) := by
  cases p with
  | resolver => exact mem_storeFace_pages.recomputeAll
  | layout => exact (hz.resolve_left (fun h => RestartPart.noConfusion h)).rederive (s := { v with lu := v.lu.opened })
  | clock => exact ZeroPages.clockChange (v := { v with clock := Clock.atReset }) (hz.resolve_left (fun h => RestartPart.noConfusion h)) (h rfl)
  | sessions => exact ZeroPages.recomputeAll (s := { v with sessions := [] }) (hz.resolve_left (fun h => RestartPart.noConfusion h))
  | text =>
    exact ZeroPages.recomputeAll (s := { v with text := v.text.clearSchedule }) (hz.resolve_left (fun h => RestartPart.noConfusion h))
  | notices =>
    refine ZeroPages.forEach (s := { v with nu := NoticeUnit.atReset }) (hz.resolve_left (fun h => RestartPart.noConfusion h)) _ _
      (fun f hf u hu => ?_)
    rcases List.mem_append.1 hf with hf | hf
    · obtain ⟨zone, _, rfl⟩ := List.mem_map.1 hf
      exact hu.recomputeZone zone
    · obtain ⟨slot, _, rfl⟩ := List.mem_map.1 hf
      exact hu.recomputeSlot slot

/-- Every block but NU's leaves the faces as their inputs give them, or keeps them so; EC's gives them so. -/
theorem restartBlock_faces {p : RestartPart} (hp : p ≠ .notices) {v : State} (h : p = .clock ∨ FacesNow v) : FacesNow (restartBlock p v) := by
  cases p with
  | layout =>
    have hv := h.resolve_left (fun h => RestartPart.noConfusion h)
    exact (rederive_tables_taken v (lu := v.lu.opened) rfl).faces (Or.inr hv)
  | clock => exact clockChange_faces false _
  | sessions | text | resolver => exact recomputeAll_faces _
  | notices => exact absurd rfl hp

/-! ## The order -/

theorem insertAt_eq {α : Type} (k : Nat) (x : α) (l : List α) : insertAt k x l = l.take k ++ x :: l.drop k := by
  induction k generalizing l with
  | zero => simp [insertAt]
  | succ k ih =>
    cases l with
    | nil => simp [insertAt]
    | cons y l => simp [insertAt, ih]

/-- Is a part one of those that stand before EC's clock change? -/
def beforeClock (p : RestartPart) : Bool := p = .sessions || p = .notices

/-- EC's clock change comes once, after ST's and NU's parts; every part comes. -/
theorem restartOrder_eq (n m : Nat) : ∃ before after : List RestartPart, restartOrder n m = before ++ .clock :: after
    ∧ .clock ∉ before ∧ .clock ∉ after ∧ (∀ p ∈ after, beforeClock p = false)
    ∧ ∀ p, p ≠ .clock → p ∈ before ∨ p ∈ after := by
  let l := arrange n [RestartPart.layout, .sessions, .text, .notices, .resolver]
  have hmem (p : RestartPart) : p ∈ l ↔ p ∈ [RestartPart.layout, .sessions, .text, .notices, .resolver] :=
    (arrange_perm n _).mem_iff
  have hall (p : RestartPart) (hp : p ≠ .clock) : p ∈ l := by
    rw [hmem]
    cases p with
    | clock => exact absurd rfl hp
    | layout | sessions | text | notices | resolver => decide
  have hno : RestartPart.clock ∉ l := by
    rw [hmem]
    decide
  let k := m % (restartRoom l + 1)
  have hk : k ≤ restartRoom l := Nat.le_of_lt_succ (Nat.mod_lt _ (Nat.succ_pos _))
  refine ⟨(l.reverse.drop k).reverse, (l.reverse.take k).reverse, ?_, fun h => hno ?_, fun h => hno ?_, fun p hp => ?_, fun p hp => ?_⟩
  · show (insertAt k .clock l.reverse).reverse = _
    rw [insertAt_eq]
    simp
  · exact List.mem_reverse.1 (List.mem_of_mem_drop (List.mem_reverse.1 h))
  · exact List.mem_reverse.1 (List.mem_of_mem_take (List.mem_reverse.1 h))
  · have hprefix : (l.reverse.take k).Sublist (l.reverse.takeWhile (fun p => p ≠ .sessions && p ≠ .notices)) := by
      have htake := List.prefix_iff_eq_take.1 (List.takeWhile_prefix (l := l.reverse) (fun p : RestartPart => p ≠ .sessions && p ≠ .notices))
      rw [htake]
      exact (List.take_prefix_take_left hk).sublist
    have hnot := List.mem_takeWhile_imp (hprefix.subset (List.mem_reverse.1 hp))
    simpa [beforeClock] using hnot
  · have hin : p ∈ l.reverse.take k ++ l.reverse.drop k := by
      rw [List.take_append_drop]
      exact List.mem_reverse.2 (hall p hp)
    rcases List.mem_append.1 hin with h | h
    · exact Or.inr (List.mem_reverse.2 h)
    · exact Or.inl (List.mem_reverse.2 h)

/-! ## The blocks one after another -/

/-- What some blocks restarted one after another come to. -/
structure RestartedBy (l : List RestartPart) (v w : State) : Prop where
  follows : Follows (restarted v) (restarted w)
  low : LowFlags v w
  parts : ∀ q, q ≠ .resolver → q ∈ l ∨ Restarted q v → Restarted q w
  zero : .resolver ∈ l ∨ ZeroPages v → ZeroPages w

theorem foldl_restart (l : List RestartPart) (v : State) (h : .clock ∈ l → v.nu = NoticeUnit.atReset) :
    RestartedBy l v (l.foldl (fun s p => restartBlock p s) v) := by
  induction l generalizing v with
  | nil =>
    exact ⟨Follows.refl _, LowFlags.refl v, fun q _ hq => hq.resolve_left List.not_mem_nil, fun hz => hz.resolve_left List.not_mem_nil⟩
  | cons p l ih =>
    have hclock : p = .clock → v.nu.notices = [] := by
      rintro rfl
      rw [h List.mem_cons_self]
      rfl
    have hstep := restartBlock_follows p v hclock
    have hparts (q : RestartPart) (hq : q ≠ .resolver) (hor : q = p ∨ Restarted q v) : Restarted q (restartBlock p v) :=
      (restartBase_restarted hq hor).follows hstep hq
    have hrest := ih (restartBlock p v) (fun hin => hparts .notices (fun h => RestartPart.noConfusion h) (Or.inr (h (List.mem_cons_of_mem _ hin))))
    refine ⟨?_, (restartBlock_low p v hclock).trans hrest.low, fun q hq hor => hrest.parts q hq ?_, fun hor => hrest.zero ?_⟩
    · have hfirst := hstep.restarted
      rw [restarted_base] at hfirst
      exact hfirst.trans hrest.follows
    · rcases hor with hin | hv
      · rcases List.mem_cons.1 hin with hqp | hin
        · exact Or.inr (hparts q hq (Or.inl hqp))
        · exact Or.inl hin
      · exact Or.inr (hparts q hq (Or.inr hv))
    · rcases hor with hin | hv
      · rcases List.mem_cons.1 hin with hp | hin
        · exact Or.inr (restartBlock_zero p v hclock (Or.inl hp.symm))
        · exact Or.inl hin
      · exact Or.inr (restartBlock_zero p v hclock (Or.inr hv))

theorem RestartedBy.trans {l l' : List RestartPart} {u v w : State} (h : RestartedBy l u v) (h' : RestartedBy l' v w) :
    RestartedBy (l ++ l') u w where
  follows := h.follows.trans h'.follows
  low := h.low.trans h'.low
  parts q hq hor := h'.parts q hq (by
    rcases hor with hin | hv
    · rcases List.mem_append.1 hin with hin | hin
      · exact Or.inr (h.parts q hq (Or.inl hin))
      · exact Or.inl hin
    · exact Or.inr (h.parts q hq (Or.inr hv)))
  zero hor := h'.zero (by
    rcases hor with hin | hv
    · rcases List.mem_append.1 hin with hin | hin
      · exact Or.inr (h.zero (Or.inl hin))
      · exact Or.inl hin
    · exact Or.inr (h.zero (Or.inr hv)))

theorem foldl_restart_faces (l : List RestartPart) (v : State) (hl : .notices ∉ l) (h : FacesNow v) :
    FacesNow (l.foldl (fun s p => restartBlock p s) v) := by
  induction l generalizing v with
  | nil => exact h
  | cons p l ih =>
    exact ih _ (fun hin => hl (List.mem_cons_of_mem _ hin))
      (restartBlock_faces (fun hp => hl (hp ▸ List.mem_cons_self)) (Or.inr h))

/-- All the blocks restarted. -/
theorem applyRestart_restarts (s : State) :
    Follows (restarted (restartLink s)) (applyRestart s) ∧ LowFlags (restartLink s) (applyRestart s)
      ∧ (∀ p, Restarted p (applyRestart s)) := by
  obtain ⟨before, after, horder, hbefore, hafter, hlater, hall⟩ := restartOrder_eq s.nextOrder s.dropOrder.nextOrder
  let v := (restartLink s).dropOrder.dropOrder
  let w := before.foldl (fun s p => restartBlock p s) v
  have hnotices : RestartPart.notices ∈ before :=
    (hall .notices (fun h => RestartPart.noConfusion h)).resolve_right (fun h => Bool.noConfusion (hlater _ h))
  have hfirst : RestartedBy before v w := foldl_restart before v (fun h => absurd h hbefore)
  have hnu : w.nu = NoticeUnit.atReset := hfirst.parts .notices (fun h => RestartPart.noConfusion h) (Or.inl hnotices)
  have hlast := foldl_restart (.clock :: after) w (fun _ => hnu)
  have hend : applyRestart s = (.clock :: after).foldl (fun s p => restartBlock p s) w := by
    unfold applyRestart
    rw [horder, List.foldl_append]
  have hby : RestartedBy (before ++ .clock :: after) v (applyRestart s) := hend ▸ hfirst.trans hlast
  have hmem (p : RestartPart) : p ∈ before ++ .clock :: after := by
    by_cases hp : p = .clock
    · subst hp
      exact List.mem_append_right _ List.mem_cons_self
    · rcases hall p hp with h | h
      · exact List.mem_append_left _ h
      · exact List.mem_append_right _ (List.mem_cons_of_mem _ h)
  have hfaces : FacesNow (applyRestart s) := by
    rw [hend]
    exact foldl_restart_faces after _ (fun h => Bool.noConfusion (hlater _ h))
      (restartBlock_faces (fun h => RestartPart.noConfusion h) (Or.inl rfl))
  have hparts (p : RestartPart) : Restarted p (applyRestart s) := by
    by_cases hp : p = .resolver
    · subst hp
      exact ⟨hby.zero (Or.inl (hmem _)), hfaces⟩
    · exact hby.parts p hp (Or.inl (hmem p))
  refine ⟨?_, hby.low, hparts⟩
  have hfollows := hby.follows
  rw [restarted_eq hparts] at hfollows
  exact Follows.trans (t := restarted v) (Follows.of_li rfl rfl rfl) hfollows

/-! ## RESTART -/

/-! ### LI's fields read through deliveries -/

section Fields

variable {s t : State} (h : Follows s t)
include h

theorem Follows.service : t.li.service = s.li.service := by
  have := congrArg Link.service h.link
  exact this

theorem Follows.waiting : t.li.waiting = s.li.waiting := by
  have := congrArg Link.waiting h.link
  exact this

theorem Follows.receiver : t.li.receiver = s.li.receiver := by
  have := congrArg Link.receiver h.link
  exact this

theorem Follows.served : t.li.served = s.li.served := by
  have := congrArg Link.served h.link
  exact this

theorem Follows.cause : t.li.cause = s.li.cause := by
  have := congrArg Link.cause h.link
  exact this

theorem Follows.mask : t.li.mask = s.li.mask := by
  have := congrArg Link.mask h.link
  exact this

end Fields

theorem restartLink_flags (s : State) : FlagsGood (restartLink s) := by
  have hstart : startAlone &&& 0xF000 = 0 := by decide
  exact ⟨hstart, rfl⟩

theorem restartLink_flagSet (s : State) (f : Flag) : flagSet (restartLink s) f = decide (f = .start) := bit_getLsbD .start f

theorem attnOf_start {a : Half} (h : a.getLsbD 0 = true) : attnOf false a 0xFFFF = true := by
  have hbit : (a &&& 0xFFFF).getLsbD 0 = true := by
    rw [BitVec.getLsbD_and, h]
    rfl
  have hne : a &&& 0xFFFF ≠ 0 := fun hzero => absurd hbit (by rw [hzero]; decide)
  simp only [attnOf, Bool.not_false, Bool.true_and, decide_eq_true hne]

theorem exec_replySent {s : State} {v : InService} (hpin : s.resetPin = false) (hs : s.li.service = some v) (hr : v.restarts = true) :
    exec .replySent s = .next (endService (applyRestart s)) := by
  show execReplySent s = _
  rw [execReplySent, whenUp_up hpin, replyGone, hs]
  simp only [hr, if_true]

/-- Settles O13: the blocks' parts commute on all but FR's faces, which the last recomputation gives (R189). -/
theorem restartClearsTheDay : Obligations.RestartClearsTheDay := by
  intro s v hpin hs hr
  obtain ⟨hfollows, hlow, hparts⟩ := applyRestart_restarts s
  have hgood : FlagsGood (applyRestart s) := hfollows.good (restartLink_flags s)
  have hmask : (applyRestart s).li.mask = 0xFFFF := hfollows.mask
  have hstart : flagSet (applyRestart s) .start = true := flagSet_of_grow hfollows.grow (restartLink_flagSet s .start)
  have hwaiting : (applyRestart s).li.waiting = s.li.waiting := hfollows.waiting
  have hlu : (applyRestart s).lu = s.lu.restarted := hfollows.lu
  have hpin' : (applyRestart s).resetPin = false := hfollows.resetPin.trans hpin
  refine ⟨applyRestart s, fun hw => ?_, fun w hw => ?_, hstart, fun f h1 h2 h3 => ?_, hgood.1, hmask, hfollows.cause, ?_,
    hfollows.service, hwaiting, hfollows.receiver, hfollows.served, hfollows.clock, hparts .sessions, hfollows.nu, fun a => ?_,
    ?_, ?_, ?_, ?_, (hparts .resolver).1, (hparts .resolver).2, hfollows.ps, fun ix => hfollows.seg ix, hfollows.time,
    hfollows.pending, hpin'⟩
  · rw [exec_replySent hpin hs hr, endService]
    simp only [hwaiting, hw]
  · rw [exec_replySent hpin hs hr, endService]
    simp only [hwaiting, hw]
  · rw [hlow f h2 h3, restartLink_flagSet, decide_eq_false h1]
  · rw [hgood.2, hmask, hpin']
    exact attnOf_start hstart
  · have hplan : a / Config.pageBytes < Config.planPages ↔ a < 16 * 256 := by
      show a / 256 < 16 ↔ a < 16 * 256
      omega
    rw [hfollows.text]
    refine (TextMem.read_clearSchedule s.text a).trans ?_
    simp only [hplan]
  all_goals
    rw [hlu]
    rfl

end Sys2Proof.Machine
end

section
/-! PROOFS. SET-OPTION (spec: R121, R150, R201, R202): the clamp, and what an option's change delivers. -/

namespace Sys2Proof.Machine

/-! ## The option table -/

/-- The values of options 0–14 in their order, OFF as −1. -/
def optionValues (o : Options) : List Int :=
  [o.settle, o.travel, o.doorLead, o.nextWindow, o.horizon, o.carousel, (o.quiet.map Int.ofNat).getD (-1), o.budget0,
   o.budget1, o.budget2, o.budget3, o.refreshFloor, o.missLimit, o.holdTimeout, o.passLimit]

/-- The ranges of R201. -/
def optionRanges : List (Int × Int) :=
  [(2, 32), (8, 1200), (0, 60), (15, 480), (15, 480), (1, 15), (0, 1439), (100, 1000), (100, 1000), (100, 1000),
   (100, 1000), (-20, 10), (2, 8), (10, 600), (1, 15)]

theorem optionRanges_get {n : Nat} {range : Int × Int} (h : optionRanges[n]? = some range) : n < 15 ∧ optionRange n = range := by
  obtain ⟨hlt, heq⟩ := List.getElem?_eq_some_iff.1 h
  have hn : n < 15 := hlt
  refine ⟨hn, heq ▸ ?_⟩
  clear h heq
  interval_cases n <;> rfl

/-- An option put reads back, and the others stand. -/
theorem optionValues_put (o : Options) {n : Nat} (hn : n < 15) {a : Int} (ha : 0 ≤ a ∨ n = 11 ∨ (n = 6 ∧ a = -1)) :
    optionValues (o.put n a) = (optionValues o).set n a := by
  have hnat (h : n ≠ 11 ∧ n ≠ 6) : (a.toNat : Int) = a := Int.toNat_of_nonneg (by omega)
  have hquiet (h : n = 6) : ((if a = -1 then none else some a.toNat).map Int.ofNat).getD (-1) = a := by
    split
    · rename_i ha'
      exact ha'.symm
    · exact Int.toNat_of_nonneg (by omega)
  by_cases h6 : n = 6
  · subst h6
    simp only [optionValues, Options.put, hquiet rfl]
    rfl
  by_cases h11 : n = 11
  · subst h11
    rfl
  have hvalue := hnat ⟨h11, h6⟩
  obtain rfl | rfl | rfl | rfl | rfl | rfl | rfl | rfl | rfl | rfl | rfl | rfl | rfl : n = 0 ∨ n = 1 ∨ n = 2 ∨ n = 3 ∨ n = 4 ∨ n = 5 ∨ n = 7
      ∨ n = 8 ∨ n = 9 ∨ n = 10 ∨ n = 12 ∨ n = 13 ∨ n = 14 := by omega
  all_goals
    simp only [optionValues, Options.put, hvalue]
    rfl

theorem privateText_put (o : Options) (n : Nat) (a : Int) : (o.put n a).privateText = o.privateText := by
  unfold Options.put
  split <;> rfl

theorem refreshFloor_put (o : Options) (a : Int) : (o.put 11 a).refreshFloor = a := rfl

theorem clampTo_eq {range : Int × Int} (h : range.1 ≤ range.2) (v : Int) : clampTo range v = max range.1 (min range.2 v) := by
  unfold clampTo
  omega

/-! ## The refresh floor -/

/-- The record with its cold flag as a floor gives it. -/
def Rec.floored (floor : Int) (x : Rec) : Rec := { x with cold := decide (x.temp < floor) }

/-- A record as the refresh floor judges it, its need evaluated when the judgement changes (R121, R150). -/
def coldJudged (floor : Int) (x : Rec) : Rec :=
  if decide (x.temp < floor) = x.cold then x
  else { x.floored floor with
    state := if x.state = .online ∨ x.state = .queued then (if (x.floored floor).needs then .queued else .online) else x.state }

theorem coldJudged_coldJudged (floor : Int) (x : Rec) : coldJudged floor (coldJudged floor x) = coldJudged floor x := by
  have hcold : (coldJudged floor x).cold = decide (x.temp < floor) := by
    unfold coldJudged
    split
    · rename_i h
      exact h.symm
    · rfl
  have htemp : (coldJudged floor x).temp = x.temp := by
    unfold coldJudged
    split <;> rfl
  exact if_pos (by rw [htemp, hcold])

/-- A segment without its records and its queue. -/
def Seg.blank (g : Seg) : Seg := { g with recs := [], queue := [], sequence := 0 }

/-- `t` is `s` after some records have been judged against the refresh floor. -/
structure ColdWork (s t : State) : Prop where
  rest : { t with li := { t.li with attention := 0, attn := false }, sc := s.sc, orders := [] }
    = { s with li := { s.li with attention := 0, attn := false }, orders := [] }
  flags : t.li.attention = s.li.attention ∨ t.li.attention = s.li.attention ||| Flag.cold.bit
  segs : ∀ ix, (t.seg ix).blank = (s.seg ix).blank
  absent : ∀ ix k, s.rec? ix k = none → t.rec? ix k = none
  recs : ∀ ix k x, s.rec? ix k = some x → t.rec? ix k = some x
    ∨ (t.rec? ix k = some (coldJudged s.ps.options.refreshFloor x)
        ∧ (x.temp < s.ps.options.refreshFloor → x.cold = false → flagSet t .cold = true))

namespace ColdWork

variable {s t u : State}

theorem refl (s : State) : ColdWork s s := ⟨rfl, Or.inl rfl, fun _ => rfl, fun _ _ => id, fun _ _ _ => Or.inl⟩

theorem ps (h : ColdWork s t) : t.ps = s.ps := by
  have := congrArg State.ps h.rest
  exact this

theorem grow (h : ColdWork s t) : s.li.attention &&& t.li.attention = s.li.attention := by
  rcases h.flags with hf | hf
  · rw [hf, BitVec.and_self]
  · rw [hf]
    ext i hi
    simp only [BitVec.getElem_and, BitVec.getElem_or, Bool.and_or_distrib_left, Bool.and_self]
    cases s.li.attention[i] <;> rfl

theorem trans (h : ColdWork s t) (h' : ColdWork t u) : ColdWork s u := by
  have hps := h.ps
  refine ⟨?_, ?_, fun ix => (h'.segs ix).trans (h.segs ix), fun ix k hx => h'.absent ix k (h.absent ix k hx), fun ix k x hx => ?_⟩
  · have h1 := congrArg (fun v : State => { v with sc := s.sc }) h'.rest
    exact h1.trans h.rest
  · rcases h.flags with hf | hf <;> rcases h'.flags with hf' | hf' <;> rw [hf', hf]
    · exact Or.inl rfl
    · exact Or.inr rfl
    · exact Or.inr rfl
    · exact Or.inr (by rw [BitVec.or_assoc, BitVec.or_self])
  · rw [← hps]
    rcases h.recs ix k x hx with hy | ⟨hy, hflag⟩
    · exact h'.recs ix k x hy
    · rw [← hps] at hy hflag
      refine Or.inr ⟨?_, fun hlt hcold => flagSet_of_grow h'.grow (hflag hlt hcold)⟩
      rcases h'.recs ix k _ hy with hz | ⟨hz, _⟩
      · exact hz
      · rw [hz, coldJudged_coldJudged]

theorem forEach {α : Type} (l : List α) (f : α → State → State) (hf : ∀ x ∈ l, ∀ s, ColdWork s (f x s)) (s : State) :
    ColdWork s (forEach l f s) :=
  forEach_keeps (ColdWork s) l f (fun _ h => h.trans ⟨rfl, Or.inl rfl, fun _ => rfl, fun _ _ => id, fun _ _ _ => Or.inl⟩)
    (fun x hx u h => h.trans (hf x hx u)) s (refl s)

end ColdWork

theorem Seg.evaluate_blank (g : Seg) (a : Nat) (least : QueueClass) : (g.evaluate a least).blank = g.blank := by
  unfold Seg.evaluate
  repeat' split
  all_goals rfl

section JudgeColdAt

variable {ix : SegIx} {a : Nat} {s : State} {x : Rec}

theorem judgeColdAt_none (hx : s.rec? ix a = none) : judgeColdAt ix a s = s := by
  unfold judgeColdAt
  rw [hx]

theorem judgeColdAt_same (hx : s.rec? ix a = some x) (h : decide (x.temp < s.ps.options.refreshFloor) = x.cold) :
    judgeColdAt ix a s = s := by
  unfold judgeColdAt
  rw [hx]
  exact if_pos h

theorem judgeColdAt_changed (hx : s.rec? ix a = some x) (h : decide (x.temp < s.ps.options.refreshFloor) ≠ x.cold) :
    judgeColdAt ix a s = evaluate ix a (raiseIf (newlyCold x (x.floored s.ps.options.refreshFloor)) .cold
      (s.putRec ix a (x.floored s.ps.options.refreshFloor))) := by
  unfold judgeColdAt
  rw [hx]
  exact if_neg h

/-- The record judged. -/
theorem judgeColdAt_rec (hx : s.rec? ix a = some x) :
    (judgeColdAt ix a s).rec? ix a = some (coldJudged s.ps.options.refreshFloor x)
      ∧ (x.temp < s.ps.options.refreshFloor → x.cold = false → flagSet (judgeColdAt ix a s) .cold = true) := by
  by_cases hsame : decide (x.temp < s.ps.options.refreshFloor) = x.cold
  · rw [judgeColdAt_same hx hsame, coldJudged, if_pos hsame]
    refine ⟨hx, fun hlt hcold => ?_⟩
    rw [hcold, decide_eq_true hlt] at hsame
    cases hsame
  · rw [judgeColdAt_changed hx hsame, coldJudged, if_neg hsame]
    refine ⟨?_, fun hlt hcold => ?_⟩
    · have hput : Table.get (Table.put (s.seg ix).recs a (x.floored s.ps.options.refreshFloor)) a
          = some (x.floored s.ps.options.refreshFloor) := Table.get_put_same _ _ _
      unfold State.rec?
      rw [seg_evaluate_same, seg_raiseIf, seg_putRec_same]
      by_cases hidle : x.state = .online ∨ x.state = .queued
      · rw [Seg.evaluate_idle .maint (r := x.floored s.ps.options.refreshFloor) hput hidle, if_pos hidle]
      · rw [Seg.evaluate_flying .maint (r := x.floored s.ps.options.refreshFloor) hput (fun h => hidle (Or.inl h)) (fun h => hidle (Or.inr h)), if_neg hidle, hput]
        rfl
    · have hnew : newlyCold x (x.floored s.ps.options.refreshFloor) = true := by simp [newlyCold, Rec.floored, hcold, hlt]
      rw [hnew]
      exact flagSet_raise _ _

theorem judgeColdAt_only (ix : SegIx) (a : Nat) (s : State) : OnlyRecord ix a s (judgeColdAt ix a s) := by
  cases hx : s.rec? ix a with
  | none =>
    rw [judgeColdAt_none hx]
    exact OnlyRecord.refl ix a s
  | some x =>
    by_cases hsame : decide (x.temp < s.ps.options.refreshFloor) = x.cold
    · rw [judgeColdAt_same hx hsame]
      exact OnlyRecord.refl ix a s
    · rw [judgeColdAt_changed hx hsame]
      exact ((OnlyRecord.putRec ix a _ s).trans (OnlyRecord.raiseIf ix a _ _ _)).trans (OnlyRecord.evaluate ix a _)

end JudgeColdAt

theorem judgeColdAt_work (ix : SegIx) (a : Nat) (s : State) : ColdWork s (judgeColdAt ix a s) := by
  cases hx : s.rec? ix a with
  | none =>
    rw [judgeColdAt_none hx]
    exact ColdWork.refl s
  | some x =>
    by_cases hsame : decide (x.temp < s.ps.options.refreshFloor) = x.cold
    · rw [judgeColdAt_same hx hsame]
      exact ColdWork.refl s
    · have honly := judgeColdAt_only ix a s
      have hrec := judgeColdAt_rec hx
      have heq := judgeColdAt_changed hx hsame
      generalize judgeColdAt ix a s = t at honly hrec heq ⊢
      have hother {jx : SegIx} {b : Nat} (h : ¬ (jx = ix ∧ b = a)) : t.rec? jx b = s.rec? jx b := by
        by_cases hj : jx = ix
        · subst hj
          exact honly.rec_other (fun hb => h ⟨rfl, hb⟩)
        · unfold State.rec?
          rw [honly.others jx hj]
      refine ⟨?_, ?_, fun jx => ?_, fun jx b hb => ?_, fun jx b y hy => ?_⟩
      · rw [heq]
        unfold raiseIf
        split <;> rfl
      · rw [heq]
        unfold raiseIf
        split
        · exact Or.inr rfl
        · exact Or.inl rfl
      · by_cases hj : jx = ix
        · subst hj
          rw [heq, seg_evaluate_same, Seg.evaluate_blank, seg_raiseIf, seg_putRec_same]
          rfl
        · rw [honly.others jx hj]
      · by_cases h : jx = ix ∧ b = a
        · rw [h.1, h.2, hx] at hb
          cases hb
        · rw [hother h, hb]
      · by_cases h : jx = ix ∧ b = a
        · obtain ⟨rfl, rfl⟩ := h
          obtain rfl : x = y := Option.some.inj (hx.symm.trans hy)
          exact Or.inr hrec
        · exact Or.inl ((hother h).trans hy)

/-- Every record judged stands judged. -/
theorem judgeColdAll_judges {s : State} {ix : SegIx} {a : Nat} {x : Rec} (hx : s.rec? ix a = some x) :
    (judgeColdAll s).rec? ix a = some (coldJudged s.ps.options.refreshFloor x)
      ∧ (x.temp < s.ps.options.refreshFloor → x.cold = false → flagSet (judgeColdAll s) .cold = true) := by
  let J (v : State) : Prop := v.rec? ix a = some (coldJudged s.ps.options.refreshFloor x)
    ∧ (x.temp < s.ps.options.refreshFloor → x.cold = false → flagSet v .cold = true)
  have hdrop (v : State) (hv : ColdWork s v) : ColdWork s v.dropOrder := hv.trans ⟨rfl, Or.inl rfl, fun _ => rfl, fun _ _ => id, fun _ _ _ => Or.inl⟩
  have hkeep (v w : State) (hv : ColdWork s v) (hw : ColdWork v w) (h : J v) : J w := by
    refine ⟨?_, fun hlt hcold => flagSet_of_grow hw.grow (h.2 hlt hcold)⟩
    rcases hw.recs ix a _ h.1 with hz | ⟨hz, _⟩
    · exact hz
    · rw [hz, hv.ps, coldJudged_coldJudged]
  have hseg (jx : SegIx) (v : State) : ColdWork v (judgeColdSeg jx v) := ColdWork.forEach _ _ (fun b _ u => judgeColdAt_work jx b u) v
  refine forEach_establishes (I := ColdWork s) (P := J) (x0 := ix) (by cases ix <;> decide) hdrop
    (fun jx _ v hv => hv.trans (hseg jx v)) (fun v hv => ?_) (fun jx _ v hv h => hkeep v _ hv (hseg jx v) h) (ColdWork.refl s)
  have hin : a ∈ Table.keys (v.seg ix).recs := by
    rcases hv.recs ix a x hx with hy | ⟨hy, _⟩ <;> exact mem_keys_of_get hy
  refine forEach_establishes (I := ColdWork s) (P := J) hin hdrop (fun b _ u hu => hu.trans (judgeColdAt_work ix b u)) (fun u hu => ?_)
    (fun b _ u hu h => hkeep u _ hu (judgeColdAt_work ix b u) h) hv
  rcases hu.recs ix a x hx with hy | hy
  · have hstep := judgeColdAt_rec hy
    rw [hu.ps] at hstep
    exact hstep
  · exact hkeep u _ hu (judgeColdAt_work ix a u) hy

theorem judgeColdAll_work (s : State) : ColdWork s (judgeColdAll s) :=
  ColdWork.forEach _ _ (fun jx _ v => ColdWork.forEach _ _ (fun b _ u => judgeColdAt_work jx b u) v) s

/-! ## The door lead -/

theorem reevaluateAll_faces_of_moved {s : State} {k : Nat} {x y : Session} (hx : Table.get s.sessions k = some x)
    (hy : Table.get (reevaluateSessions s).sessions k = some y) (hmoved : x.phase ≠ y.phase ∨ x.home ≠ y.home ∨ x.placed ≠ y.placed) :
    FacesNow (reevaluateSessions s) := by
  have hsessions : (reevaluateSessions s).sessions = (updateSessions s).sessions := reevaluateAll_sessions false s
  rw [hsessions, updateSessions_sessions, Table.get_mapVals, hx] at hy
  obtain rfl := Option.some.inj hy
  have hchange : x.phase ≠ (s.evalSession x).phase ∨ x.home ≠ (s.evalSession x).home ∨ x.placed ≠ (s.evalSession x).placed := hmoved
  have hmove : sessionsMove s = true :=
    List.any_eq_true.2 ⟨(k, x), mem_of_get hx, by simpa [Session.moved, or_assoc] using hchange⟩
  unfold reevaluateSessions reevaluateAll
  rw [if_pos (by simp [hmove])]
  exact recomputeAll_faces _

/-! ## SET-OPTION -/

theorem applyOption_same (n : Nat) (s : State) {o : Options} (h : o = s.ps.options) : applyOption n o s = s := if_pos h

theorem applyOption_changed (n : Nat) (s : State) {o : Options} (h : o ≠ s.ps.options) :
    applyOption n o s = optionChanged n (s.setOptions o) := if_neg h

theorem optionChanged_other {n : Nat} (h2 : n ≠ 2) (h3 : n ≠ 3) (h4 : n ≠ 4) (h11 : n ≠ 11) (h15 : n ≠ 15) (s : State) :
    optionChanged n s = s := by
  unfold optionChanged
  split
  case h_1 => exact absurd rfl h2
  case h_2 => exact absurd rfl h3
  case h_3 => exact absurd rfl h4
  case h_4 => exact absurd rfl h11
  case h_5 => exact absurd rfl h15
  case h_6 => rfl

theorem owner_setOption {number : Byte} {v : OptionValue} {s : State} (hn : number.toNat < 15) :
    let a := appliedValue number.toNat (half v.first v.second).toInt
    owner (.setOption number v) s = .ok (applyOption number.toNat (s.ps.options.put number.toNat a) s, number :: signedTwo a) := by
  intro a
  simp only [owner, setOption]
  rw [if_neg (by omega), if_neg (by omega)]
  rfl

/-- Settles O14: the value clamped to its range, put, and its change delivered to the block that reads it (R201, R202). -/
theorem setOptionClampsAndApplies : Obligations.SetOptionClampsAndApplies := by
  unfold Obligations.SetOptionClampsAndApplies
  intro ranges values s tag number v hfree hplan n r c sent text done
  have hcommon : commonRefusal r s = none := commonRefusal_other rfl hplan rfl
  have htaken {u : State} {items : List Byte} (ho : owner r s = .ok (u, items)) : exec c s = .next (done u (0x00 :: items)) :=
    exec_taken hfree tag hcommon rfl ho
  refine ⟨fun h => exec_refused hfree tag hcommon ?_, fun h hpage => exec_refused hfree tag hcommon ?_, fun h hpage => ?_, fun low high hrange => ?_⟩
  · simp only [owner, r, setOption]
    rw [if_pos h]
    rfl
  · have hbad : TextRef.bad ⟨v.first, v.second, v.third⟩ = true := (bad_iff _).2 hpage
    simp only [owner, r, setOption]
    rw [if_neg (Nat.not_lt.2 (Nat.le_of_eq h)), if_pos h, if_pos hbad]
    rfl
  · intro base reply
    have howner : owner r s = .ok (applyOption n { s.ps.options with privateText := text } s, number :: text.bytes) := by
      have hbad : ¬ TextRef.bad ⟨v.first, v.second, v.third⟩ = true := fun hb => absurd ((bad_iff _).1 hb) (Nat.not_le.2 hpage)
      simp only [owner, r, setOption]
      rw [if_neg (Nat.not_lt.2 (Nat.le_of_eq h)), if_pos h, if_neg hbad]
      rfl
    refine ⟨fun hsame => ?_, fun hother => ⟨_, htaken howner, ?_⟩⟩
    · rw [htaken howner, applyOption_same n s (by rw [hsame])]
      rfl
    · have hne : ({ s.ps.options with privateText := text } : Options) ≠ s.ps.options := fun he =>
        hother (congrArg Options.privateText he)
      rw [applyOption_changed n s hne, h]
      have hwork := recomputeAll_work base
      exact ⟨hwork.follows.inService tag _ _, hwork.sessions, (recomputeAll_faces base).inService tag _ _⟩
  · intro a reply
    obtain ⟨hn, hr⟩ := optionRanges_get hrange
    have hle : low ≤ high ∧ (0 ≤ low ∨ n = 11) := by
      have hr' := hr
      clear_value n
      clear hrange hr
      interval_cases n <;> cases hr' <;> decide
    have ha : appliedValue n sent = a := by
      unfold appliedValue
      rw [hr, clampTo_eq hle.1]
    have howner : owner r s = .ok (applyOption n (s.ps.options.put n a) s, number :: signedTwo a) := by
      rw [← ha]
      exact owner_setOption hn
    have hput : values (s.ps.options.put n a) = (values s.ps.options).set n a := by
      refine optionValues_put s.ps.options hn ?_
      simp only [a]
      split
      · rename_i hoff
        exact Or.inr (Or.inr ⟨hoff.1, rfl⟩)
      · omega
    refine ⟨s.ps.options.put n a, hput, privateText_put _ n a, fun hsame => ?_, fun h2 h3 h4 h11 => ?_, fun h2 hne => ?_, fun h34 hne => ?_,
      fun h11 hne => ?_⟩
    · rw [htaken howner, applyOption_same n s hsame]
      rfl
    · by_cases hsame : s.ps.options.put n a = s.ps.options
      · rw [htaken howner, applyOption_same n s hsame, hsame]
        rfl
      · rw [htaken howner, applyOption_changed n s hsame, optionChanged_other h2 h3 h4 h11 (Nat.ne_of_lt hn)]
        rfl
    · refine ⟨_, htaken howner, ?_⟩
      rw [applyOption_changed n s hne, h2]
      have hcurrent := reevaluateAll_current false (s.setOptions (s.ps.options.put 2 a))
      have hwarns := reevaluateAll_warns false (s.setOptions (s.ps.options.put 2 a))
      exact ⟨(reevaluateSessions_follows _).inService tag _ _, hcurrent.inService tag _ _, fun k x y hx hy =>
        ⟨fun hm => (reevaluateAll_faces_of_moved (s := s.setOptions (s.ps.options.put 2 a)) hx hy hm).inService tag _ _, hwarns k x y hx hy⟩⟩
    · refine ⟨_, htaken howner, ?_⟩
      have hchange : applyOption n (s.ps.options.put n a) s = recomputeAll (s.setOptions (s.ps.options.put n a)) := by
        rw [applyOption_changed n s hne]
        rcases h34 with h | h <;> rw [h] <;> rfl
      rw [hchange]
      have hwork := recomputeAll_work (s.setOptions (s.ps.options.put n a))
      exact ⟨hwork.follows.inService tag _ _, hwork.sessions, (recomputeAll_faces _).inService tag _ _⟩
    · have hchange : applyOption n (s.ps.options.put n a) s = judgeColdAll (s.setOptions (s.ps.options.put n a)) := by
        rw [applyOption_changed n s hne, h11]
        rfl
      have hfloor : (s.ps.options.put n a).refreshFloor = a := by rw [h11, refreshFloor_put]
      rw [hchange] at howner
      refine ⟨_, htaken howner, ?_⟩
      have hwork := judgeColdAll_work (s.setOptions (s.ps.options.put n a))
      have hjudges {ix : SegIx} {k : Nat} {x : Rec} (hx : s.rec? ix k = some x) := judgeColdAll_judges (s := s.setOptions (s.ps.options.put n a)) hx
      generalize judgeColdAll (s.setOptions (s.ps.options.put n a)) = t at hwork hjudges ⊢
      obtain ⟨hrest, hflags, hsegs, habsent, -⟩ := hwork
      simp only [State.mk.injEq, true_and, and_true] at hrest
      obtain ⟨hpending, hli, hpin, hlu, hclock, hsessions, htext, hfr, hnu, hps, htime⟩ := hrest
      refine ⟨hps, ?_, hflags, hlu, hclock, hsessions, htext, hnu, hfr, htime, hpending, hpin, hsegs, habsent, fun ix k x hx => ?_⟩
      · have hlink : ({ t.li with attention := 0, attn := false } : Link) = { s.li with attention := 0, attn := false } := hli
        simp only [Link.mk.injEq] at hlink
        obtain ⟨hreceiver, -, hwaiting, -, hmask, hcause, -, hserved⟩ := hlink
        show ({ t.li with served := t.li.served + 1, service := _ } : Link) = _
        simp only [hreceiver, hwaiting, hmask, hcause, hserved]
        rfl
      · intro cold y
        obtain ⟨hrec, hcold⟩ := hjudges hx
        have hrec' : t.rec? ix k = some (coldJudged a x) := hfloor ▸ hrec
        refine ⟨fun hsame => hrec'.trans (congrArg some (if_pos hsame)), fun hother => hrec'.trans (congrArg some (if_neg hother)),
          fun hset hclear => hcold ?_ hclear⟩
        have hlt : x.temp < a := of_decide_eq_true hset
        exact hfloor.symm ▸ hlt

end Sys2Proof.Machine
end

section
/-! PROOFS. The guard of plan edits (spec: R181, R182, R191): an owner leaves plan state and revision to LI's commit. -/

namespace Sys2Proof.Machine

/-! ## PS through the bindings -/

theorem unpinned_ps (ix : SegIx) (a : Nat) (s : State) : (unpinned ix a s).ps = s.ps := by
  unfold unpinned
  split <;> rfl

theorem makeStray_ps (ix : SegIx) (a : Nat) (s : State) : (makeStray ix a s).ps = s.ps :=
  (makeStray_seg ix a s).ps.trans (unpinned_ps ix a s)

theorem bindSlot_ps (slot : Nat) (serial : Serial) (s : State) : (bindSlot slot serial s).ps = s.ps := by
  unfold bindSlot
  split
  · rfl
  · exact (bindRecord_seg _ _ slot _).ps.trans (raiseIf_ps _ _ _)

theorem workBinding_ps (slot : Nat) (before : Option Serial) (serial : Serial) (s : State) :
    (workBinding slot before serial s).ps = s.ps := by
  unfold workBinding
  split
  · split
    · exact (recomputeSlot_follows slot s).ps
    · exact (bindSlot_ps _ _ _).trans (makeStray_ps _ _ _)
  · exact bindSlot_ps slot serial s

theorem setPages_ps (slot : Nat) (role : Role) (s : State) : (setPages slot role s).ps = s.ps := by
  cases role <;> rfl

theorem strayHolder_ps (slot : Nat) (s : State) : (strayHolder slot s).ps = s.ps := by
  unfold strayHolder
  split
  · exact makeStray_ps _ _ _
  · rfl

/-! ## Plan edits -/

theorem rederive_ps (s : State) : (rederive s).ps = s.ps := (rederive_follows s).ps

theorem definePanel_ps {p : PanelSpec} {s u : State} {items : List Byte} (h : definePanel p s = .ok (u, items)) :
    ∃ panels, u.ps = { s.ps with panels } := by
  simp only [definePanel, refuse, taken] at h
  split at h
  · cases h
  · split_ifs at h
    cases h
    exact ⟨_, by rw [workBinding_ps, setPages_ps]⟩

theorem removePanel_ps {slot : Half} {s u : State} {items : List Byte} (h : removePanel slot s = .ok (u, items)) :
    ∃ panels, u.ps = { s.ps with panels } := by
  simp only [removePanel, refuse, taken] at h
  split_ifs at h
  cases h
  exact ⟨_, by rw [discardPages_ps, strayHolder_ps]⟩

/-- A plan edit's owner changes the panels of PS at most. -/
theorem owner_edit_ps {r : Request} {rev : Half} {s u : State} {items : List Byte} (he : expectedRevision r = some rev)
    (h : owner r s = .ok (u, items)) : ∃ panels, u.ps = { s.ps with panels } := by
  have hderived {v : State} (hv : v.ps = s.ps) : ∃ panels, (rederive v).ps = { s.ps with panels } :=
    ⟨s.ps.panels, (rederive_ps v).trans hv⟩
  have hwritten (text : TextMem) : ∃ panels, (pageWrite text s).ps = { s.ps with panels } :=
    ⟨s.ps.panels, (recomputeAll_follows _).ps⟩
  cases r
  case definePanel => exact definePanel_ps h
  case removePanel => exact removePanel_ps h
  case putText =>
    simp only [owner, putText, refuse, taken] at h
    split_ifs at h
    cases h
    exact hwritten _
  case clearPage =>
    simp only [owner, clearPage, refuse, taken] at h
    split_ifs at h
    cases h
    exact hwritten _
  case defineSection | removeSection | defineWall | removeWall | defineCombination | removeCombination =>
    simp only [owner, defineSection, removeSection, defineWall, removeWall, defineCombination, removeCombination, refuse, taken] at h
    split_ifs at h
    cases h
    exact hderived rfl
  all_goals cases he

/-- Settles O9: the guard's tests in order, and the commit of a taken edit (R181, R182). -/
theorem planEditsAreGuardedByRevision : Obligations.PlanEditsAreGuardedByRevision := by
  intro s tag r rev hfree hfits he hplan
  have hloaded : ¬ (s.ps.plan = .loading ∧ takenWhileLoading r = false) := fun h => hplan h.1
  have hcheck : commonRefusal r s = if s.ps.plan = .saving then some (.busy, [])
      else if rev.toNat ≠ s.ps.revision then some (.stale, two s.ps.revision) else none := by
    simp only [commonRefusal, hfits, Bool.not_true, Bool.false_eq_true, if_false, if_neg hloaded, he]
  refine ⟨fun hsaving => ?_, fun hsaving hrev => ?_, fun hsaving hrev u items ho => ?_⟩
  · exact exec_common hfree tag (hcheck.trans (if_pos hsaving))
  · exact exec_common hfree tag (hcheck.trans ((if_neg hsaving).trans (if_pos hrev)))
  · obtain ⟨panels, hps⟩ := owner_edit_ps he ho
    have hcommon : commonRefusal r s = none := hcheck.trans ((if_neg hsaving).trans (if_neg (fun h => h hrev)))
    have hplan' : u.ps.plan = s.ps.plan := by rw [hps]
    have hrevision : u.ps.revision = s.ps.revision := by rw [hps]
    refine ⟨hplan', hrevision, (exec_edit hfree tag hcommon he ho hrevision).trans ?_⟩
    have hready : editedPlan u.ps.plan = .ready := by
      rw [hplan']
      cases hp : s.ps.plan with
      | loading => exact absurd hp hplan
      | saving => exact absurd hp hsaving
      | ready => rfl
      | empty => rfl
    have hnext : nextRevision s.ps.revision = if s.ps.revision = 65535 then 1 else s.ps.revision + 1 := by
      have hlt := rev.isLt
      unfold nextRevision
      split_ifs <;> omega
    simp only [commitEdit, editReply, hready, hrevision, hnext]

end Sys2Proof.Machine
end

section
/-! PROOFS. ST's requests (spec: R31–R51): the checks in order, and the one record that a request leaves. -/

namespace Sys2Proof.Machine

/-! ## One record stored -/

/-- The record that a request leaves under a number, and what is delivered for it (R38, R41). -/
theorem reevaluateOne_sessions (changed : Bool) (number : Nat) (r : Session) (s : State) :
    (reevaluateOne changed number r s).sessions = Table.put s.sessions number (s.evalSession r).judgeWarning := by
  unfold reevaluateOne
  simp only
  split
  · rw [(recomputeAll_work _).sessions, raiseIf_sessions]
  · rw [raiseIf_sessions]

/-- The record stored is current. -/
theorem reevaluateOne_current (changed : Bool) (number : Nat) (r : Session) (s : State) :
    Current (reevaluateOne changed number r s) (s.evalSession r).judgeWarning := by
  have hf := reevaluateOne_follows changed number r s
  unfold Current
  rw [hf.clock, hf.ps, hf.lu]
  exact current_evalSession s r

theorem reevaluateOne_layout {changed : Bool} {number : Nat} {r : Session} {s : State} (hold : r.warned = false)
    (hnew : (s.evalSession r).judgeWarning.warned = true) : flagSet (reevaluateOne changed number r s) .layout = true := by
  have hkept : (s.evalSession r).warned = false := hold
  have hwarns : (s.evalSession r).warns = true := by simpa [Session.warns, hkept, Session.judgeWarning] using hnew
  unfold reevaluateOne
  simp only [hwarns, raiseIf, if_true]
  split
  · exact flagSet_of_grow (recomputeAll_follows _).grow (flagSet_raise _ _)
  · exact flagSet_raise _ _

/-- A request taken that leaves one record: what stands after it. -/
theorem exec_one {s : State} (hfree : Free s) (tag : Byte) {r : Request} {changed : Bool} {n : Nat} {x : Session} {items : List Byte}
    (hcommon : commonRefusal r s = none) (he : expectedRevision r = none) (ho : owner r s = .ok (reevaluateOne changed n x s, items)) :
    ∃ t y, exec (rowOf tag r) s = .next t
      ∧ Follows (({ s with sessions := Table.put s.sessions n x }).inService tag (.request r) (0x00 :: items)) t
      ∧ Table.get t.sessions n = some y ∧ y.stored = x.stored ∧ Current t y
      ∧ (y.warned = true → x.warned = false → flagSet t .layout = true)
      ∧ (∀ m, m ≠ n → Table.get t.sessions m = Table.get s.sessions m) := by
  have hsessions := reevaluateOne_sessions changed n x s
  refine ⟨_, (s.evalSession x).judgeWarning, exec_taken hfree tag hcommon he ho, (reevaluateOne_follows changed n x s).inService tag _ _,
    ?_, rfl, reevaluateOne_current changed n x s, fun hw hold => reevaluateOne_layout hold hw, fun m hm => ?_⟩
  · rw [inService_sessions, hsessions, Table.get_put_same]
  · rw [inService_sessions, hsessions, Table.get_put_other _ _ hm]

/-! ## The sorted list and the home space -/

theorem sortNat_eq (l : List Nat) : sortNat l = l.insertionSort (· ≤ ·) := by
  have hinsert (n : Nat) (l : List Nat) : insertNat n l = l.orderedInsert (· ≤ ·) n := by
    induction l with
    | nil => rfl
    | cons k t ih => simp only [insertNat, List.orderedInsert_cons, ih]
  unfold sortNat
  induction l with
  | nil => rfl
  | cons n l ih => rw [List.foldr_cons, List.insertionSort_cons, ih, hinsert]

theorem sortNat_perm (l : List Nat) : (sortNat l).Perm l := sortNat_eq l ▸ List.perm_insertionSort _ l

theorem sortNat_sorted (l : List Nat) : (sortNat l).Pairwise (· ≤ ·) := sortNat_eq l ▸ List.pairwise_insertionSort _ l

theorem hasRepeat_iff (l : List Nat) : hasRepeat l = false ↔ l.Nodup := by
  induction l with
  | nil => simp [hasRepeat]
  | cons k t ih => simp [hasRepeat, ih]

theorem spaceHolding_of_first {spaces before after : List Space} {p : Space} {low : Nat} (h : spaces = before ++ p :: after)
    (hp : low ∈ p.sections) (hbefore : ∀ q, q ∈ before → low ∉ q.sections) : spaceHolding spaces low = some p := by
  unfold spaceHolding
  rw [h, List.find?_append, List.find?_eq_none.2 (fun q hq => by simpa using hbefore q hq)]
  simp [hp]

theorem lowest_of_head {x : Session} {low : Nat} (h : x.sections.head? = some low) : x.lowest = low := by
  rw [Session.lowest, List.headD_eq_head?_getD, h]
  rfl

theorem warnedPhase_iff (p : Phase) : warnedPhase p = true ↔ p = .doors ∨ p = .live ∨ p = .overrun := by
  cases p <;> simp [warnedPhase]

/-! ## Clashes -/

theorem share_iff (a b : List Nat) : share a b = true ↔ ∃ i, i ∈ a ∧ i ∈ b := by
  simp [share]

theorem clashes_iff (t : Table Session) (n day : Nat) (sections : List Nat) (start stop : Nat) :
    clashes t n day sections start stop = true ↔ ∃ e, e ∈ t ∧ e.1 ≠ n ∧ e.2.cancelled = false ∧ e.2.day = day
      ∧ (∃ i, i ∈ sections ∧ i ∈ e.2.sections) ∧ start < e.2.effectiveEnd ∧ e.2.start < stop := by
  simp only [clashes, Session.clashesWith, overlap, List.any_eq_true, Bool.and_eq_true, decide_eq_true_eq, Bool.not_eq_true', share_iff,
    and_assoc]

/-! ## STORE-SESSION -/

theorem storeOutOfRange_iff (p : StoreSpec) : storeOutOfRange p = false ↔
    p.number.toNat ≠ 0 ∧ p.day.toNat ≤ 15 ∧ p.start.toNat ≤ 1439 ∧ p.start.toNat < p.stop.toNat ∧ p.stop.toNat ≤ 1440
      ∧ 1 ≤ (p.sections.map (·.toNat)).length ∧ (p.sections.map (·.toNat)).length ≤ 12
      ∧ (∀ i, i ∈ p.sections.map (·.toNat) → i < 96) ∧ hasRepeat (p.sections.map (·.toNat)) = false
      ∧ p.title.page.toNat < 48 ∧ (p.flags.getLsbD 2 = true → p.speaker.page.toNat < 48) ∧ (p.lead = 0xFF ∨ p.lead.toNat ≤ 60)
      ∧ p.track.toNat ≤ 15 := by
  have hbad (r : TextRef) : r.bad = false ↔ r.page.toNat < 48 := by
    rw [← Bool.not_eq_true, bad_iff, Nat.not_le]
  have hlead : (p.lead = 0xFF ∨ p.lead.toNat ≤ 60) ↔ ¬ (p.lead ≠ 0xFF ∧ 60 < p.lead.toNat) := by
    rw [not_and_or, not_not, Nat.not_lt]
  have hspeaker : (p.flags.getLsbD 2 = true → p.speaker.page.toNat < 48) ↔ ¬ (p.flags.getLsbD 2 = true ∧ p.speaker.bad = true) := by
    rw [not_and, bad_iff, Nat.not_le]
  rw [hlead, hspeaker]
  simp only [storeOutOfRange, Bool.or_eq_false_iff, decide_eq_false_iff_not, Nat.not_lt, Nat.not_le, hbad, List.any_eq_false,
    Bool.and_eq_false_iff, and_assoc, decide_eq_true_eq, Config.sections, List.length_map, List.mem_map, forall_exists_index, and_imp,
    forall_apply_eq_imp_iff₂, ne_eq, not_and_or, Bool.not_eq_true]

/-- Settles O30: the checks of R40 in order, then the record built and judged (R41). -/
theorem sessionsAreStored : Obligations.SessionsAreStored := by
  refine ⟨fun l => ⟨sortNat_perm l, sortNat_sorted l, hasRepeat_iff l⟩, fun s x low hlow ⟨_, hhome, hplaced, hwarned⟩ => ?_,
    fun s tag p hfree hplan hlen => ?_⟩
  · have hlowest := lowest_of_head hlow
    refine ⟨fun p ⟨before, after, heq, hp, hbefore⟩ => ?_, fun hnone => ?_, ?_⟩
    · have hspace : x.homeSpace s.lu.spaces = some p := by
        rw [Session.homeSpace, hlowest]
        exact spaceHolding_of_first heq hp hbefore
      rw [hspace] at hhome hplaced
      exact ⟨hhome, by rw [hplaced]; simp⟩
    · have hspace : x.homeSpace s.lu.spaces = none := by
        rw [Session.homeSpace, hlowest]
        exact List.find?_eq_none.2 (fun q hq => by simpa using hnone q hq)
      rw [hspace] at hhome hplaced
      exact ⟨hhome.trans hlowest, hplaced⟩
    · rw [hwarned, Bool.and_eq_true, warnedPhase_iff, Bool.not_eq_true']
  · intro r c n list speaking off ranged present clash full
    have hfits : r.fits = true := decide_eq_true hlen
    have hcommon : commonRefusal r s = none := commonRefusal_other hfits hplan rfl
    have hranged : ranged ↔ storeOutOfRange p = false := (storeOutOfRange_iff p).symm
    have hmem (i : Nat) : i ∈ sortNat list ↔ i ∈ list := (sortNat_perm list).mem_iff
    have hpresent : present ↔ ((recordOf p).sections.any (fun i => (Table.get s.lu.sections i).isNone)) = false := by
      simp only [present, recordOf, List.any_eq_false, hmem, list, Option.isNone_iff_eq_none, ← Option.isSome_iff_ne_none]
    have hclash : clash ↔ (!(recordOf p).cancelled && clashes s.sessions n (recordOf p).day (recordOf p).sections (recordOf p).start
        (recordOf p).stop) = true := by
      simp only [clash, Bool.and_eq_true, Bool.not_eq_true', clashes_iff]
      simp only [recordOf, hmem, off, list]
    have hfull : full ↔ (Table.get s.sessions n).isNone = true ∧ Config.sessions ≤ s.sessions.length := by
      simp only [full, Option.isNone_iff_eq_none, Config.sessions]
    refine ⟨fun h => exec_refused hfree tag hcommon ?_, fun h hp => exec_refused hfree tag hcommon ?_,
      fun h hp hc => exec_refused hfree tag hcommon ?_, fun h hp hc hf => exec_refused hfree tag hcommon ?_, fun h hp hc hf => ?_⟩
    · simp only [owner, r, storeSession]
      rw [if_pos (by simpa using fun hb => h (hranged.2 hb))]
      rfl
    · simp only [owner, r, storeSession]
      rw [if_neg (by simp [hranged.1 h]), if_pos (by simpa using fun hb => hp (hpresent.2 hb))]
      rfl
    · simp only [owner, r, storeSession]
      rw [if_neg (by simp [hranged.1 h]), if_neg (by simp [hpresent.1 hp]), if_pos (hclash.1 hc)]
      rfl
    · simp only [owner, r, storeSession]
      rw [if_neg (by simp [hranged.1 h]), if_neg (by simp [hpresent.1 hp]), if_neg (fun hb => hc (hclash.2 hb)), if_pos (hfull.1 hf)]
      rfl
    · have howner : owner r s = .ok (reevaluateOne true n (recordOf p) s, []) := by
        simp only [owner, r, storeSession]
        rw [if_neg (by simp [hranged.1 h]), if_neg (by simp [hpresent.1 hp]), if_neg (fun hb => hc (hclash.2 hb)),
          if_neg (fun hb => hf (hfull.2 hb))]
        rfl
      obtain ⟨t, y, hexec, hfollows, hget, hstored, hcurrent, hwarned, hother⟩ := exec_one hfree tag hcommon rfl howner
      exact ⟨t, y, hexec, hfollows, hget, hstored, hcurrent, fun hw => hwarned hw rfl, hother⟩

/-! ## The record a request names -/

theorem withSession_zero {number : Half} {s : State} {f : Session → Taken} (h : number.toNat = 0) :
    withSession number s f = .error .range := if_pos h

theorem withSession_none {number : Half} {s : State} {f : Session → Taken} (h : number.toNat ≠ 0)
    (hg : Table.get s.sessions number.toNat = none) : withSession number s f = .error .notFound := by
  rw [withSession, if_neg h, hg]
  rfl

theorem withSession_some {number : Half} {s : State} {f : Session → Taken} {x : Session} (h : number.toNat ≠ 0)
    (hg : Table.get s.sessions number.toNat = some x) : withSession number s f = f x := by
  rw [withSession, if_neg h, hg]

/-- Settles O31: DROP, CANCEL and RESTORE of the record named (R42–R44). -/
theorem sessionsAreDroppedCancelledAndRestored : Obligations.SessionsAreDroppedCancelledAndRestored := by
  intro s tag number hfree hplan n named changes
  have hnamed (r : Request) (f : Session → Taken) (ho : owner r s = withSession number s f) (hfits : r.fits = true)
      (he : expectedRevision r = none) : named (rowOf tag r) r :=
    ⟨fun h => exec_refused hfree tag (commonRefusal_other hfits hplan he) (ho.trans (withSession_zero h)),
      fun h hg => exec_refused hfree tag (commonRefusal_other hfits hplan he) (ho.trans (withSession_none h hg))⟩
  have hchanges (r : Request) (hfits : r.fits = true) (he : expectedRevision r = none) (x : Session)
      (ho : owner r s = .ok (reevaluateOne true n x s, [])) : changes (rowOf tag r) r x :=
    exec_one hfree tag (commonRefusal_other hfits hplan he) he ho
  refine ⟨hnamed (.dropSession number) _ rfl rfl rfl, hnamed (.cancelSession number) _ rfl rfl rfl,
    hnamed (.restoreSession number) _ rfl rfl rfl, fun x hn hg => ⟨?_, fun hc => ?_, fun hc => ?_, fun hc => ?_, fun hc hcl => ?_, fun hc hcl => ?_⟩⟩
  · have howner : owner (.dropSession number) s = .ok (recomputeAll { s with sessions := Table.del s.sessions n }, []) :=
      withSession_some hn hg
    have hwork := recomputeAll_work { s with sessions := Table.del s.sessions n }
    exact ⟨_, exec_taken hfree tag (commonRefusal_other rfl hplan rfl) rfl howner, hwork.follows.inService tag _ _, hwork.sessions⟩
  · refine exec_taken hfree tag (r := .cancelSession number) (commonRefusal_other rfl hplan rfl) rfl ?_
    exact (withSession_some hn hg).trans (if_pos hc)
  · exact hchanges (.cancelSession number) rfl rfl _ ((withSession_some hn hg).trans (if_neg (by simp [hc])))
  · refine exec_taken hfree tag (r := .restoreSession number) (commonRefusal_other rfl hplan rfl) rfl ?_
    exact (withSession_some hn hg).trans (if_pos (by simp [hc]))
  · refine exec_refused hfree tag (r := .restoreSession number) (commonRefusal_other rfl hplan rfl) ?_
    refine (withSession_some hn hg).trans ((if_neg (by simp [hc])).trans (if_pos ?_))
    exact (clashes_iff _ _ _ _ _ _).2 hcl
  · refine hchanges (.restoreSession number) rfl rfl _ ?_
    refine (withSession_some hn hg).trans ((if_neg (by simp [hc])).trans (if_neg fun h => hcl ?_))
    exact (clashes_iff _ _ _ _ _ _).1 h

/-! ## The grant of EXTEND-SESSION -/

/-- A booking that limits the extension of a record (R46). -/
def Limits (t : Table Session) (n : Nat) (x : Session) (e : Nat × Session) : Prop :=
  e ∈ t ∧ e.1 ≠ n ∧ e.2.cancelled = false ∧ e.2.day = x.day ∧ (∃ i, i ∈ x.sections ∧ i ∈ e.2.sections) ∧ x.start ≤ e.2.start

theorem mem_nextBookings (t : Table Session) (n : Nat) (x : Session) (e : Nat × Session) :
    e ∈ t.filter (fun e => e.1 ≠ n && !e.2.cancelled && e.2.day = x.day && share x.sections e.2.sections && x.start ≤ e.2.start)
      ↔ Limits t n x e := by
  simp only [List.mem_filter, Bool.and_eq_true, decide_eq_true_eq, Bool.not_eq_true', share_iff, Limits, and_assoc]

/-- The least start of a limiting booking, when one limits. -/
theorem nextBooking_spec (t : Table Session) (n : Nat) (x : Session) :
    (nextBooking t n x = none → ∀ e, ¬ Limits t n x e)
      ∧ (∀ m, nextBooking t n x = some m → (∃ e, Limits t n x e ∧ e.2.start = m) ∧ ∀ e, Limits t n x e → m ≤ e.2.start) := by
  unfold nextBooking
  refine ⟨fun hnone e he => ?_, fun m hm => ?_⟩
  · rw [List.min?_eq_none_iff, List.map_eq_nil_iff] at hnone
    have := (mem_nextBookings t n x e).2 he
    rw [hnone] at this
    cases this
  · obtain ⟨hin, hleast⟩ := List.min?_eq_some_iff.1 hm
    obtain ⟨e, he, hstart⟩ := List.mem_map.1 hin
    exact ⟨⟨e, (mem_nextBookings t n x e).1 he, hstart⟩,
      fun e he => hleast _ (List.mem_map.2 ⟨e, (mem_nextBookings t n x e).2 he, rfl⟩)⟩

/-- An extension by `g` more minutes stays within the cap, midnight and the next booking (R46). -/
def ExtensionFits (t : Table Session) (n : Nat) (x : Session) (g : Nat) : Prop :=
  x.extension + g ≤ 180 ∧ x.stop + x.extension + g ≤ 1440 ∧ ∀ e, Limits t n x e → x.stop + x.extension + g ≤ e.2.start

/-- The grant is the most that fits, or 0. -/
theorem grant_spec (t : Table Session) (n : Nat) (x : Session) (k : Nat) :
    grant t n x k ≤ k ∧ (grant t n x k = 0 ∨ ExtensionFits t n x (grant t n x k))
      ∧ ∀ g, g ≤ k → ExtensionFits t n x g → g ≤ grant t n x k := by
  obtain ⟨hnone, hsome⟩ := nextBooking_spec t n x
  unfold grant
  cases hb : nextBooking t n x with
  | none =>
    have hno := hnone hb
    simp only
    refine ⟨by omega, ?_, fun g hg ⟨h1, h2, _⟩ => by omega⟩
    by_cases hz : min k (min (180 - x.extension) (1440 - (x.stop + x.extension))) = 0
    · exact Or.inl hz
    · exact Or.inr ⟨by omega, by omega, fun e he => absurd he (hno e)⟩
  | some m =>
    obtain ⟨⟨e, he, hstart⟩, hleast⟩ := hsome m hb
    simp only
    refine ⟨by omega, ?_, fun g hg ⟨h1, h2, h3⟩ => ?_⟩
    · by_cases hz : min (min k (min (180 - x.extension) (1440 - (x.stop + x.extension)))) (m - (x.stop + x.extension)) = 0
      · exact Or.inl hz
      · refine Or.inr ⟨by omega, by omega, fun e he => ?_⟩
        have := hleast e he
        omega
    · have := h3 e he
      omega

/-- Settles O32: the grant of R46 and the early end of R47, each stored in the record named. -/
theorem sessionsAreExtendedAndEnded : Obligations.SessionsAreExtendedAndEnded := by
  intro s tag number minutes hfree hplan n k extend r finish q changes
  have hextend : commonRefusal r s = none := commonRefusal_other rfl hplan rfl
  have hfinish : commonRefusal q s = none := commonRefusal_other rfl hplan rfl
  have hchanges {r : Request} {changed : Bool} {x : Session} {items : List Byte} (hcommon : commonRefusal r s = none)
      (he : expectedRevision r = none) (ho : owner r s = .ok (reevaluateOne changed n x s, items)) :
      changes (rowOf tag r) r x (0x00 :: items) := by
    obtain ⟨t, y, hexec, hfollows, hget, hstored, hcurrent, -, hother⟩ := exec_one hfree tag hcommon he ho
    exact ⟨t, y, hexec, hfollows, hget, hstored, hcurrent, hother⟩
  refine ⟨fun h => exec_refused hfree tag hextend ?_, fun h1 h2 hn hg => exec_refused hfree tag hextend ?_,
    fun h => exec_refused hfree tag hfinish (withSession_zero h), fun hn hg => exec_refused hfree tag hfinish (withSession_none hn hg),
    fun x hn hg => ?_⟩
  · simp only [owner, r, extendSession]
    by_cases hrange : minutes.toNat = 0 ∨ 180 < minutes.toNat
    · rw [if_pos hrange]
      rfl
    · rw [if_neg hrange]
      exact withSession_zero ((h.resolve_left (fun h1 => hrange (Or.inl h1))).resolve_left (fun h2 => hrange (Or.inr h2)))
  · simp only [owner, r, extendSession]
    rw [if_neg (by omega)]
    exact withSession_none hn hg
  · intro closed fits m e
    have hopen (h1 : 1 ≤ k) (h2 : k ≤ 180) : owner r s = if s.clock.mode ≠ .running then .error .notReady
        else if x.phase = .done ∨ x.phase = .cancelled ∨ x.earlyEnd.isSome then .error .wrongState
        else .ok (if grant s.sessions n x k = 0 then s
            else reevaluateOne true n { x with extension := x.extension + grant s.sessions n x k } s,
          byte (grant s.sessions n x k) :: two (Session.effectiveEnd { x with extension := x.extension + grant s.sessions n x k })) := by
      simp only [owner, r, extendSession]
      rw [if_neg (by omega)]
      exact withSession_some hn hg
    have hend : owner q s = if s.clock.mode ≠ .running then .error .notReady
        else if x.phase ≠ .live ∧ x.phase ≠ .overrun then .error .wrongState
        else .ok (reevaluateOne (x.earlyEnd ≠ some e) n { x with earlyEnd := some e } s, two e) := withSession_some hn hg
    refine ⟨fun h1 h2 hm => exec_refused hfree tag hextend ((hopen h1 h2).trans (if_pos hm)),
      fun h1 h2 hm hc => exec_refused hfree tag hextend ((hopen h1 h2).trans ((if_neg (not_not.2 hm)).trans (if_pos hc))),
      fun h1 h2 hm hc => ?_, fun hm => exec_refused hfree tag hfinish (hend.trans (if_pos hm)),
      fun hm hl ho => exec_refused hfree tag hfinish (hend.trans ((if_neg (not_not.2 hm)).trans (if_pos ⟨hl, ho⟩))), fun hm hp => ?_⟩
    · have hnoEnd : x.earlyEnd = none := by
        cases hx : x.earlyEnd with
        | none => rfl
        | some v => exact absurd (Or.inr (Or.inr (by rw [hx]; rfl))) hc
      obtain ⟨hle, hfits, hmost⟩ := grant_spec s.sessions n x k
      have hiff (g : Nat) : ExtensionFits s.sessions n x g ↔ fits g := by
        simp only [ExtensionFits, Limits, fits, and_imp]
      have howner := (hopen h1 h2).trans ((if_neg (not_not.2 hm)).trans (if_neg hc))
      have hreply : Session.effectiveEnd { x with extension := x.extension + grant s.sessions n x k }
          = min (x.stop + (x.extension + grant s.sessions n x k)) 1440 := by
        simp only [Session.effectiveEnd, hnoEnd]
      rw [hreply] at howner
      refine ⟨grant s.sessions n x k, hle, hfits.imp_right (hiff _).1, fun g' hg' hf => hmost g' hg' ((hiff g').2 hf), fun hz => ?_, fun hz => ?_⟩
      · rw [if_pos hz] at howner
        exact exec_taken hfree tag hextend rfl howner
      · rw [if_neg hz] at howner
        exact hchanges hextend rfl howner
    · have hnot : ¬ (x.phase ≠ .live ∧ x.phase ≠ .overrun) := fun h => hp.elim h.1 h.2
      have howner := hend.trans ((if_neg (not_not.2 hm)).trans (if_neg hnot))
      refine ⟨hchanges hfinish rfl howner, fun hsame hcurrent => ?_⟩
      have hrecord : ({ x with earlyEnd := some e } : Session) = x := by rw [← hsame]
      have hunchanged : reevaluateOne (decide (x.earlyEnd ≠ some e)) n { x with earlyEnd := some e } s = s := by
        rw [hrecord, decide_eq_false (not_not.2 hsame)]
        exact reevaluateOne_same hg hcurrent
      rw [hunchanged] at howner
      exact exec_taken hfree tag hfinish rfl howner

end Sys2Proof.Machine
end

section
/-! PROOFS. TP's and NU's requests (spec: R59–R64, R92–R99). -/

namespace Sys2Proof.Machine

/-! ## TP -/

/-- A write of TP taken: a plan edit on pages 0–15, and a page write delivered to FR (R59, R64). -/
theorem exec_pageWrite {s : State} (tag : Byte) {r : Request} {rev : Half} {text : TextMem} {items : List Byte} {plan : Prop} [Decidable plan]
    (h : Serves s r) (he : expectedRevision r = if plan then some rev else none) (ho : owner r s = .ok (pageWrite text s, items)) :
    ∃ t, exec (rowOf tag r) s = .next t ∧ t.text = text
      ∧ Follows (({ (if plan then commitEdit s else s) with text }).inService tag (.request r)
          (if plan then editReply s items else 0x00 :: items)) t := by
  have hwork := (recomputeAll_work { s with text }).follows
  have hcommon := commonRefusal_of_serves h
  by_cases hp : plan
  · rw [if_pos hp] at he
    simp only [if_pos hp]
    exact ⟨_, exec_edit h.1 tag hcommon he ho (congrArg PlanStore.revision hwork.ps), hwork.text, hwork.commitEdit.inService tag _ _⟩
  · rw [if_neg hp] at he
    simp only [if_neg hp]
    exact ⟨_, exec_taken h.1 tag hcommon he ho, hwork.text, hwork.inService tag _ _⟩

/-- Settles O34: the bytes inside the page are written, or the page is cleared, and no other byte changes (R60, R62). -/
theorem textIsWrittenAndCleared : Obligations.TextIsWrittenAndCleared := by
  refine ⟨fun s tag rev page offset data => ?_, fun s tag rev page => ?_⟩
  · intro r c a n plan edited hs
    refine ⟨fun h => refuses_of_serves tag hs ?_, fun h => ?_⟩
    · simp only [owner, r, putText]
      rw [if_pos h]
      rfl
    · have howner : owner r s = .ok (pageWrite (s.text.writeAll (textAddress page.toNat offset.toNat)
          (data.take (writeCount offset.toNat data.length))) s, [byte n]) := by
        simp only [owner, r, putText]
        rw [if_neg (Nat.not_le.2 h)]
        rfl
      obtain ⟨t, hexec, htext, hfollows⟩ := exec_pageWrite (plan := plan) tag hs rfl howner
      have hlength : (data.take (writeCount offset.toNat data.length)).length = n := by
        rw [List.length_take]
        exact Nat.min_eq_left (Nat.min_le_left _ _)
      refine ⟨t, hexec, fun b => ?_, htext ▸ hfollows⟩
      rw [htext, TextMem.read_writeAll, hlength]
      show (if a ≤ b ∧ b < a + n then _ else _) = _
      by_cases hb : a ≤ b ∧ b < a + n
      · rw [if_pos hb, if_pos hb]
        have hin : b - a < writeCount offset.toNat data.length := Nat.sub_lt_left_of_lt_add hb.1 hb.2
        show (data.take _).getD (b - a) 0 = data.getD (b - a) 0
        rw [List.getD_eq_getElem?_getD, List.getD_eq_getElem?_getD, List.getElem?_take_of_lt hin]
      · rw [if_neg hb, if_neg hb]
  · intro r c plan edited hs
    refine ⟨fun h => refuses_of_serves tag hs ?_, fun h => ?_⟩
    · simp only [owner, r, clearPage]
      rw [if_pos h]
      rfl
    · have howner : owner r s = .ok (pageWrite (s.text.clearPage page.toNat) s, []) := by
        simp only [owner, r, clearPage]
        rw [if_neg (Nat.not_le.2 h)]
        rfl
      obtain ⟨t, hexec, htext, hfollows⟩ := exec_pageWrite (plan := plan) tag hs rfl howner
      refine ⟨t, hexec, fun b => ?_, htext ▸ hfollows⟩
      rw [htext]
      exact TextMem.read_clearPage s.text page.toNat b

/-! ## NU: notices -/

theorem level_ofCode_iff (b : Byte) (level : Level) : Level.ofCode b = some level ↔
    (1 ≤ b.toNat ∧ b.toNat ≤ 3) ∧ level = (if b = 1 then Level.advisory else if b = 2 then .urgent else .evacuate) := by
  unfold Level.ofCode
  split
  case h_1 h =>
    obtain rfl : b = 1 := BitVec.eq_of_toNat_eq h
    simp [eq_comm]
  case h_2 h =>
    obtain rfl : b = 2 := BitVec.eq_of_toNat_eq h
    simp [eq_comm]
  case h_3 h =>
    obtain rfl : b = 3 := BitVec.eq_of_toNat_eq h
    simp [eq_comm]
  case h_4 not1 not2 not3 =>
    refine iff_of_false nofun (fun h => ?_)
    obtain ⟨⟨low, high⟩, _⟩ := h
    have hcases : b.toNat = 1 ∨ b.toNat = 2 ∨ b.toNat = 3 := by omega
    exact hcases.elim not1 (·.elim not2 not3)

theorem noticeOutOfRange_iff (p : NoticeSpec) : noticeOutOfRange p = true ↔
    ¬ (p.zone.toNat ≤ 15 ∧ p.text.page.toNat < 48 ∧ p.expiryPresent.toNat ≤ 1
        ∧ (p.expiryPresent = 1 → p.day.toNat ≤ 15 ∧ p.minute.toNat ≤ 1439)) := by
  have hexpiry : (expiryOf p).any (fun e => 15 < e.1 || 1439 < e.2) = true
      ↔ p.expiryPresent = 1 ∧ (15 < p.day.toNat ∨ 1439 < p.minute.toNat) := by
    unfold expiryOf
    split
    case isTrue he => simp [he]
    case isFalse he => simpa using fun h => absurd h he
  simp only [noticeOutOfRange, TextRef.bad, Config.pages, Bool.or_eq_true, decide_eq_true_eq, hexpiry]
  by_cases he : p.expiryPresent = 1
  · rw [and_iff_right he, forall_prop_of_true he]
    omega
  · have hvacuous : p.expiryPresent = 1 → p.day.toNat ≤ 15 ∧ p.minute.toNat ≤ 1439 := fun h => absurd h he
    have hnone : ¬ (p.expiryPresent = 1 ∧ (15 < p.day.toNat ∨ 1439 < p.minute.toNat)) := fun h => he h.1
    rw [iff_false_intro hnone, iff_true_intro hvacuous, or_false, and_true]
    omega

/-- The notice that a taken POST-NOTICE leaves in its zone. -/
def postedNotice (p : NoticeSpec) (level : Level) : Notice := { level, text := p.text, expiry := expiryOf p }

theorem postedNotice_due (p : NoticeSpec) (level : Level) (day minute : Nat) : (postedNotice p level).due day minute = true ↔
    p.expiryPresent = 1 ∧ ¬ (day < p.day.toNat ∨ (day = p.day.toNat ∧ minute < p.minute.toNat)) := by
  rw [due_iff]
  by_cases he : p.expiryPresent = 1
  · have hexpiry : (postedNotice p level).expiry = some (p.day.toNat, p.minute.toNat) := if_pos he
    rw [hexpiry, and_iff_right he]
    constructor
    · rintro ⟨d, m, hdm, hdue⟩
      cases hdm
      omega
    · intro hdue
      refine ⟨p.day.toNat, p.minute.toNat, rfl, ?_⟩
      omega
  · have hexpiry : (postedNotice p level).expiry = none := if_neg he
    refine iff_of_false (fun h => ?_) (fun h => he h.1)
    obtain ⟨d, m, hdm, -⟩ := h
    rw [hexpiry] at hdm
    cases hdm

/-- POST-NOTICE with a level of the manual, as its remaining checks in order (R93). -/
theorem postNotice_of_level {p : NoticeSpec} {level : Level} (s : State) (h : Level.ofCode p.level = some level) :
    postNotice p s = if noticeOutOfRange p = true then refuse .range
      else if level = .evacuate ∧ p.expiryPresent = 1 then refuse .range
      else if p.expiryPresent = 1 ∧ s.clock.mode = .unset then refuse .notReady
      else if (postedNotice p level).due s.clock.day s.clock.minute = true then refuse .range
      else taken (changeNotices p.zone.toNat (Table.put s.nu.notices p.zone.toNat (postedNotice p level)) s)
        [Level.optCode ((Table.get s.nu.notices p.zone.toNat).map (·.level))] := by
  have hsome : (expiryOf p).isSome = true ↔ p.expiryPresent = 1 := by
    unfold expiryOf
    split
    case isTrue he => exact iff_of_true rfl he
    case isFalse he => exact iff_of_false nofun he
  unfold postNotice
  rw [h]
  simp only [hsome]
  rfl

/-- Settles O36: the checks of R93 in order; the zone's entry replaced or emptied and the change delivered (R94, R95). -/
theorem noticesArePostedAndWithdrawn : Obligations.NoticesArePostedAndWithdrawn := by
  refine ⟨fun s tag p hfree hplan => ?_, fun s tag zone hfree hplan => ?_⟩
  · intro r c expires d m ranged later
    have hcommon : commonRefusal r s = none := commonRefusal_other rfl hplan rfl
    have howner : owner r s = postNotice p s := rfl
    have hlevel (h : ranged) : Level.ofCode p.level
        = some (if p.level = 1 then Level.advisory else if p.level = 2 then .urgent else .evacuate) :=
      (level_ofCode_iff _ _).2 ⟨⟨h.2.1, h.2.2.1⟩, rfl⟩
    have hin (h : ranged) : ¬ noticeOutOfRange p = true := by
      obtain ⟨hzone, -, -, htext, hflag, hexpiry⟩ := h
      exact fun hn => (noticeOutOfRange_iff p).1 hn ⟨hzone, htext, hflag, hexpiry⟩
    have hnot (h : ranged) (h3 : p.level ≠ 3) :
        ¬ ((if p.level = 1 then Level.advisory else if p.level = 2 then .urgent else .evacuate) = .evacuate ∧ p.expiryPresent = 1) := by
      obtain ⟨-, low, high, -⟩ := h
      have hcases : p.level.toNat = 1 ∨ p.level.toNat = 2 := by
        have : p.level.toNat ≠ 3 := fun hn => h3 (BitVec.eq_of_toNat_eq hn)
        omega
      rintro ⟨hevacuate, -⟩
      rcases hcases with h1 | h2
      · rw [if_pos (BitVec.eq_of_toNat_eq h1)] at hevacuate
        cases hevacuate
      · obtain h2 : p.level = 2 := BitVec.eq_of_toNat_eq h2
        rw [h2] at hevacuate
        cases hevacuate
    refine ⟨fun h => exec_refused hfree tag hcommon ?_, fun h h3 he => exec_refused hfree tag hcommon ?_,
      fun h h3 he hmode => exec_refused hfree tag hcommon ?_, fun h h3 he hmode hlater => exec_refused hfree tag hcommon ?_,
      fun h hright => ?_⟩
    · rw [howner]
      cases hl : Level.ofCode p.level with
      | none =>
        unfold postNotice
        rw [hl]
        rfl
      | some level =>
        obtain ⟨⟨low, high⟩, -⟩ := (level_ofCode_iff _ _).1 hl
        rw [postNotice_of_level s hl]
        refine if_pos ((noticeOutOfRange_iff p).2 (fun hn => h ?_))
        obtain ⟨hzone, htext, hflag, hexpiry⟩ := hn
        exact ⟨hzone, low, high, htext, hflag, hexpiry⟩
    · rw [howner, postNotice_of_level s (hlevel h), if_neg (hin h)]
      refine if_pos ⟨?_, he⟩
      rw [h3]
      rfl
    · rw [howner, postNotice_of_level s (hlevel h), if_neg (hin h), if_neg (hnot h h3), if_pos ⟨he, hmode⟩]
      rfl
    · rw [howner, postNotice_of_level s (hlevel h), if_neg (hin h), if_neg (hnot h h3), if_neg (fun hn => hmode hn.2)]
      exact if_pos ((postedNotice_due p _ _ _).2 ⟨he, hlater⟩)
    · intro level before x
      refine completes_of_owner hfree tag hcommon rfl
        (u := changeNotices p.zone.toNat (Table.put s.nu.notices p.zone.toNat x) s) ?_ (recomputeZone_follows _ _)
      rw [howner, postNotice_of_level s (hlevel h), if_neg (hin h), if_neg (fun hn => hnot h (hright hn.2).1 hn),
        if_neg (fun hn => (hright hn.1).2.1 hn.2), if_neg (fun hn => ((postedNotice_due p _ _ _).1 hn).2
          (hright ((postedNotice_due p _ _ _).1 hn).1).2.2)]
      have hbefore : Level.optCode ((Table.get s.nu.notices p.zone.toNat).map (·.level)) = before := by
        unfold before
        cases Table.get s.nu.notices p.zone.toNat <;> rfl
      rw [hbefore]
      rfl
  · intro r c
    have hcommon : commonRefusal r s = none := commonRefusal_other rfl hplan rfl
    refine ⟨fun h => exec_refused hfree tag hcommon (if_pos h), fun h hg => exec_refused hfree tag hcommon ?_, fun x h hg =>
      completes_of_owner hfree tag hcommon rfl (u := changeNotices zone.toNat (Table.del s.nu.notices zone.toNat) s) ?_
        (recomputeZone_follows _ _)⟩
    all_goals simp only [owner, r, withdrawNotice]
    · rw [if_neg (Nat.not_lt.2 h), hg]
      rfl
    · rw [if_neg (Nat.not_lt.2 h), hg]
      rfl

/-! ## NU: pins -/

/-- Settles O37: the checks of R98 and R99 in order; the pin copies the role face FR holds. -/
theorem panelsArePinnedAndUnpinned : Obligations.PanelsArePinnedAndUnpinned := by
  intro s tag slot hfree hplan n pin r unpin q defined_ bound full
  have hpin : commonRefusal r s = none := commonRefusal_other rfl hplan rfl
  have hunpin : commonRefusal q s = none := commonRefusal_other rfl hplan rfl
  have hfull : full ↔ (Table.get s.nu.pins n).isNone = true ∧ Config.pins ≤ s.nu.pins.length := by
    simp only [full, Option.isNone_iff_eq_none, Config.pins]
  have hslot (h : n < 384) : owner r s = match Table.get s.ps.panels n with
      | none => .error .notFound
      | some p =>
        match s.holder n with
        | none => .error .wrongState
        | some h =>
          if (Table.get s.nu.pins n).isNone ∧ Config.pins ≤ s.nu.pins.length then .error .full
          else .ok (changePins n (Table.put s.nu.pins n { copy := heldRole s n p h.rec_.cls, digest := fletcher16 (heldRole s n p h.rec_.cls) }) s,
            halfBytes (fletcher16 (heldRole s n p h.rec_.cls))) := if_neg (Nat.not_le.2 h)
  refine ⟨fun h => ⟨exec_refused hfree tag hpin (if_pos h), exec_refused hfree tag hunpin (if_pos h)⟩,
    fun h hd => exec_refused hfree tag hpin ?_, fun h hd hb => exec_refused hfree tag hpin ?_, fun h hd hb hf => exec_refused hfree tag hpin ?_,
    fun f h hd hb hf hface => ?_, fun h hg => exec_refused hfree tag hunpin ?_, fun h hg => ?_⟩
  · have hg : Table.get s.ps.panels n = none := by simpa [defined_] using hd
    rw [hslot h, hg]
  · obtain ⟨p, hp⟩ := Option.isSome_iff_exists.1 hd
    have hh : s.holder n = none := by simpa [bound] using hb
    rw [hslot h, hp, hh]
  · obtain ⟨p, hp⟩ := Option.isSome_iff_exists.1 hd
    obtain ⟨place, hh⟩ := Option.isSome_iff_exists.1 hb
    rw [hslot h, hp, hh]
    exact if_pos (hfull.1 hf)
  · obtain ⟨p, hp⟩ := Option.isSome_iff_exists.1 hd
    obtain ⟨place, hh⟩ := Option.isSome_iff_exists.1 hb
    have hrole : heldRole s n p place.rec_.cls = f.role := by
      unfold heldRole
      rw [hface]
    refine completes_of_owner hfree tag hpin rfl
      (u := changePins n (Table.put s.nu.pins n { copy := f.role, digest := fletcher16 f.role }) s) ?_ (recomputeSlot_follows n _)
    rw [hslot h, hp, hh]
    simp only [hrole]
    exact if_neg (fun hn => hf (hfull.2 hn))
  · refine (if_neg (Nat.not_le.2 h)).trans (if_pos ?_)
    rw [hg]
    rfl
  · refine completes_of_owner hfree tag hunpin rfl (u := changePins n (Table.del s.nu.pins n) s) ?_ (recomputeSlot_follows n _)
    exact (if_neg (Nat.not_le.2 h)).trans (if_neg (not_isNone hg))

end Sys2Proof.Machine
end

section
/-! PROOFS. The readers: requests that reply and change nothing (spec: R18, R19, R30, R48, R49, R63, R148, R159). -/

namespace Sys2Proof.Machine

/-- A request that only reads: it is answered with its owner's items, and the state is as it was. -/
theorem exec_reads {s : State} (h : Free s) (hplan : s.ps.plan ≠ .loading) (tag : Byte) (r : Request) {items : List Byte}
    (hfits : r.fits = true) (hno : expectedRevision r = none) (ho : owner r s = taken s items) :
    exec (rowOf tag r) s = .next (s.inService tag (.request r) (0x00 :: items)) :=
  exec_taken h tag (commonRefusal_other hfits hplan hno) hno ho

/-- A request that only reads, refused by its owner. -/
theorem exec_unread {s : State} (h : Free s) (hplan : s.ps.plan ≠ .loading) (tag : Byte) (r : Request) {result : Result}
    (hfits : r.fits = true) (hno : expectedRevision r = none) (ho : owner r s = refuse result) : Refuses (rowOf tag r) s tag r result :=
  exec_refused h tag (commonRefusal_other hfits hplan hno) ho

/-! ## Options -/

/-- The rows of R201: least, most and reset value. -/
def optionRows : List (Int × Int × Int) :=
  [(2, 32, 8), (8, 1200, 240), (0, 60, 15), (15, 480, 120), (15, 480, 90), (1, 15, 2), (0, 1439, 240), (100, 1000, 300),
   (100, 1000, 300), (100, 1000, 300), (100, 1000, 300), (-20, 10, -5), (2, 8, 3), (10, 600, 120), (1, 15, 4)]

theorem optionRows_get {n : Nat} {least most start : Int} (h : optionRows[n]? = some (least, most, start)) :
    n < 15 ∧ optionRange n = (least, most) ∧ Options.default.value n = start := by
  obtain ⟨hlt, heq⟩ := List.getElem?_eq_some_iff.1 h
  have hn : n < 15 := hlt
  refine ⟨hn, ?_⟩
  clear h
  interval_cases n <;> cases heq <;> exact ⟨rfl, rfl⟩

theorem value_of_optionValues {o : Options} {n : Nat} {v : Int} (hn : n < 15) (h : (optionValues o)[n]? = some v) : o.value n = v := by
  have hquiet : (match o.quiet with | some m => (m : Int) | none => -1) = (o.quiet.map Int.ofNat).getD (-1) := by
    cases o.quiet <;> rfl
  have hall : optionValues o = (List.range 15).map o.value := by
    unfold optionValues
    rw [← hquiet]
    rfl
  rw [hall, List.getElem?_map, List.getElem?_range hn] at h
  exact Option.some.inj h

/-! ## Tables -/

/-- Settles O23: each reader replies with its items and leaves the state (R18, R19, R30, R49, R63). -/
theorem tableReadsChangeNothing : Obligations.TableReadsChangeNothing := by
  refine ⟨by decide, ?_⟩
  intro s tag hfree hplan o values rows sectionItem spaceEntry low
  refine ⟨fun number h => exec_unread hfree hplan tag (.readOption number) rfl rfl (if_pos h), fun number v least most start hv hrow => ?_,
    ?_, ?_, fun first h => exec_unread hfree hplan tag (.readSpaces first) rfl rfl (if_pos h), fun first h => ?_, ?_,
    fun position count h => exec_unread hfree hplan tag (.listSessions position count) rfl rfl (if_pos h), ?_,
    fun page offset count h => exec_unread hfree hplan tag (.readText page offset count) rfl rfl (if_pos h),
    fun page offset count h hc => ?_⟩
  · obtain ⟨hn, hrange, hstart⟩ := optionRows_get hrow
    have hvalue : o.value number.toNat = v := value_of_optionValues hn hv
    refine exec_reads hfree hplan tag (.readOption number) rfl rfl ?_
    show readOption number s = _
    unfold readOption
    rw [if_neg (by omega), if_neg (by omega), hvalue, hrange, hstart]
    rfl
  · exact exec_reads hfree hplan tag (.readOption 15) rfl rfl rfl
  · exact exec_reads hfree hplan tag .readWalls rfl rfl rfl
  · obtain ⟨rest, hlist, hroom, hnext⟩ := wholeEntries_spec (Config.bodyBytes - 3)
      ((s.lu.spaces.filter (fun p => first.toNat ≤ p.anchor)).map (spaceItem s.lu))
    exact ⟨_, rest, hlist, hroom, hnext, exec_reads hfree hplan tag (.readSpaces first) rfl rfl (if_neg (Nat.not_le.2 h))⟩
  · exact exec_reads hfree hplan tag .readClock rfl rfl rfl
  · refine ⟨sortBy listedBefore s.sessions, sortBy_perm _ _, sortBy_listed _, fun position count hp hlow hhigh => ?_⟩
    intro found
    refine (exec_reads hfree hplan tag (.listSessions position count) rfl rfl (if_neg (by omega))).trans ?_
    rw [List.append_assoc, List.append_assoc]
    rfl
  · refine exec_reads hfree hplan tag (.readText page offset count) rfl rfl (if_neg ?_)
    rw [not_or]
    exact ⟨Nat.not_le.2 h, Nat.not_lt.2 hc⟩

end Sys2Proof.Machine
end

section
/-! PROOFS. The readers of records: READ-SESSION, READ-FACE, READ-PANEL, READ-SEGMENT (spec: R48, R89, R123, R124). -/

namespace Sys2Proof.Machine

/-! ## Naming a segment -/

theorem named_of_high {n : Byte} (h : 4 ≤ n.toNat) : SegIx.named n = none := by
  unfold SegIx.named
  split
  case h_5 => rfl
  all_goals omega

theorem withSegment_high {n : Byte} (h : 4 ≤ n.toNat) (f : SegIx → Taken) : withSegment n f = refuse .range := by
  unfold withSegment
  rw [named_of_high h]

theorem withSegment_named {n : Byte} {ix : SegIx} (h : SegIx.named n = some ix) (f : SegIx → Taken) : withSegment n f = f ix := by
  unfold withSegment
  rw [h]

theorem withAddress_out {n a : Byte} (h : 4 ≤ n.toNat ∨ a.toNat = 0 ∨ 96 < a.toNat) (f : SegIx → Nat → Taken) :
    withAddress n a f = refuse .range := by
  unfold withAddress
  rcases h with h | h
  · exact withSegment_high h _
  · unfold withSegment
    split
    case h_1 => exact if_pos h
    case h_2 => rfl

theorem withAddress_named {n a : Byte} {ix : SegIx} (h : SegIx.named n = some ix) (hlow : 1 ≤ a.toNat) (hhigh : a.toNat ≤ 96)
    (f : SegIx → Nat → Taken) : withAddress n a f = f ix a.toNat := by
  unfold withAddress
  rw [withSegment_named h]
  exact if_neg (fun hn => hn.elim (by omega) (Nat.not_lt.2 hhigh))

/-! ## Absent values -/

theorem length_absentBytes (s : State) (item w : Nat) : (absentBytes s item w).length = w := by
  rw [absentBytes, List.length_map, List.length_range]

theorem visibleAt_eq (c : Clock) (lead : Nat) (x : Session) : visibleAt c lead x = decide (x.cancelled = true ∧ c.mode ≠ .unset
    ∧ c.day = x.day ∧ x.start - x.lead.getD lead ≤ c.minute ∧ c.minute < x.stop) := by
  rw [Bool.eq_iff_iff]
  simp only [visibleAt, Bool.and_eq_true, decide_eq_true_eq, and_assoc]
  rfl

theorem sessionItems_eq (s : State) (number : Nat) (x : Session) : sessionItems s number x =
    two number ++ [byte x.day] ++ two x.start ++ two x.stop ++ (byte x.sections.length :: x.sections.map byte)
      ++ x.title.bytes ++ optItem s 0 3 (x.speaker.map (·.bytes)) ++ [(x.lead.map byte).getD 0xFF]
      ++ [byte x.track, markCode x.withheld, markCode x.cancelled, byte x.extension] ++ optItem s 1 2 (x.earlyEnd.map two)
      ++ [markCode x.warned] := by
  unfold sessionItems
  cases x.lead <;> rfl

theorem readPanel_out {segment address : Byte} {s : State} (h : 4 ≤ segment.toNat ∨ address.toNat = 0 ∨ 96 < address.toNat) :
    readPanel segment address s = refuse .range := withAddress_out h _

/-- READ-PANEL of an address of a segment. -/
theorem readPanel_named {segment address : Byte} {s : State} {ix : SegIx} (h : SegIx.named segment = some ix)
    (hlow : 1 ≤ address.toNat) (hhigh : address.toNat ≤ 96) : readPanel segment address s = match s.rec? ix address.toNat with
      | none => refuse .notFound
      | some x => taken s (recItems s address.toNat x ++ boundItems s x ++ stateItems s (s.seg ix) address.toNat x.state) :=
  withAddress_named h hlow hhigh _

/-- READ-FACE of a slot and position in range. -/
theorem readFace_ranged {slot position : Half} {s : State} (hs : slot.toNat < 384) (hp : position.toNat ≤ 2047) :
    readFace slot position s = match Table.get s.ps.panels slot.toNat, s.holder slot.toNat, Table.get s.fr.faces slot.toNat with
      | some _, some _, some f =>
        taken s ([f.source.code] ++ halfBytes f.digest ++ two f.wanted.length
          ++ (match f.pages with
              | some count => [byte (s.pageIndex slot.toNat), byte count]
              | none => [])
          ++ two (faceBytesFrom f.wanted position.toNat).length ++ faceBytesFrom f.wanted position.toNat)
      | _, _, _ => refuse .notFound :=
  if_neg (not_or.2 ⟨Nat.not_le.2 hs, Nat.not_lt.2 hp⟩)

/-- Settles O24: each reader of a record replies with its items and leaves the state (R48, R89, R123, R124). -/
theorem recordReadsChangeNothing : Obligations.RecordReadsChangeNothing := by
  refine ⟨by decide, ?_⟩
  intro s tag hfree hplan mark ref opt
  refine ⟨fun number h => exec_unread hfree hplan tag (.readSession number) rfl rfl ?_,
    fun number h hg => exec_unread hfree hplan tag (.readSession number) rfl rfl ?_, fun number x h hg => ?_,
    fun slot position h => exec_unread hfree hplan tag (.readFace slot position) rfl rfl (if_pos h),
    fun slot position hs hp hno => exec_unread hfree hplan tag (.readFace slot position) rfl rfl ?_,
    fun slot position p h f hs hp hpanel hholder hface => ?_,
    fun segment address h => exec_unread hfree hplan tag (.readPanel segment address) rfl rfl (readPanel_out h),
    fun segment address ix hix hlow hhigh hno => exec_unread hfree hplan tag (.readPanel segment address) rfl rfl ?_,
    fun segment address ix x hix hlow hhigh hx => ?_,
    fun segment h => exec_unread hfree hplan tag (.readSegment segment) rfl rfl (withSegment_high h _), fun segment ix hix => ?_⟩
  · exact withSession_zero h
  · exact withSession_none h hg
  · intro lead opening visible
    have hvisible : visible = visibleAt s.clock s.ps.options.doorLead x := (visibleAt_eq s.clock s.ps.options.doorLead x).symm
    refine ⟨absentBytes s 0 3, absentBytes s 1 2, length_absentBytes s 0 3, length_absentBytes s 1 2, ?_⟩
    refine (exec_reads hfree hplan tag (.readSession number) rfl rfl (withSession_some h hg)).trans ?_
    rw [hvisible]
    simp only [sessionItems_eq, List.append_assoc]
    rfl
  · refine (readFace_ranged hs hp).trans ?_
    rcases hno with hno | hno
    · rw [hno]
    · rw [hno]
      cases Table.get s.ps.panels slot.toNat <;> rfl
  · intro part pages
    have howner : owner (.readFace slot position) s = taken s ([f.source.code] ++ halfBytes f.digest ++ two f.wanted.length
        ++ pages ++ two part.length ++ part) := by
      refine (readFace_ranged hs hp).trans ?_
      rw [hpanel, hholder, hface]
      rfl
    exact exec_reads hfree hplan tag (.readFace slot position) rfl rfl howner
  · refine (readPanel_named hix hlow hhigh).trans ?_
    rw [hno]
  · intro g wanted stateCode more
    refine ⟨absentBytes s 0 2, absentBytes s 1 2, absentBytes s 2 1, absentBytes s 3 2, length_absentBytes s 0 2,
      length_absentBytes s 1 2, length_absentBytes s 2 1, length_absentBytes s 3 2, ?_⟩
    have howner : owner (.readPanel segment address) s
        = taken s (recItems s address.toNat x ++ boundItems s x ++ stateItems s g address.toNat x.state) := by
      refine (readPanel_named hix hlow hhigh).trans ?_
      rw [hx]
    refine (exec_reads hfree hplan tag (.readPanel segment address) rfl rfl howner).trans ?_
    have hmore : stateItems s g address.toNat x.state = more := by
      unfold stateItems more
      cases x.state
      case queued =>
        unfold entryOf
        generalize g.queue.find? (fun e => e.address = address.toNat) = found
        cases found <;> rfl
      case loading =>
        show (g.transfer.map _).getD [] = _
        generalize g.transfer = carried
        cases carried <;> rfl
      all_goals rfl
    rw [hmore]
    simp only [recItems, boundItems, List.append_assoc]
    rfl
  · intro g count waiting refreshing addresses budget
    refine ⟨absentBytes s 4 2, absentBytes s 5 1, length_absentBytes s 4 2, length_absentBytes s 5 1, ?_⟩
    have honline : g.count (fun x => !x.isLost) = (g.recs.filter (fun e => e.2.state ≠ .lost)).length := by
      simp only [Seg.count, Rec.isLost, ne_eq, decide_not]
    have hstray : g.count (fun x => x.binding.isNone) = (g.recs.filter (fun e => e.2.binding = none)).length := by
      refine congrArg List.length (List.filter_congr (fun e _ => ?_))
      rw [Bool.eq_iff_iff, Option.isNone_iff_eq_none, decide_eq_true_eq]
    have hbudget : s.budget ix = budget := by
      cases ix <;> rfl
    refine (exec_reads hfree hplan tag (.readSegment segment) rfl rfl (withSegment_named (n := segment) hix _)).trans ?_
    rw [honline, hstray, hbudget]
    simp only [queueItems, List.append_assoc]
    rfl

end Sys2Proof.Machine
end

section
/-! PROOFS. The requests that start and stop an enrolment, and that forget and refresh a panel (spec: R125–R127, R133, R134, R144). -/

namespace Sys2Proof.Machine

/-! ## Enrolment -/

/-- Nothing in flight, no DROP pending, a quiet bus (R134). -/
theorem drained_iff (g : Seg) : g.drained = true ↔ g.bus = none ∧ g.drops = []
    ∧ ∀ e, e ∈ g.recs → e.2.state ≠ .loading ∧ ∀ f, e.2.state ≠ .refreshing f := by
  simp only [Seg.drained, Bool.and_eq_true, Option.isNone_iff_eq_none, List.isEmpty_iff, List.all_eq_true, and_assoc]
  refine and_congr_right (fun _ => and_congr_right (fun _ => forall₂_congr (fun e _ => ?_)))
  cases e.2.state <;> simp

theorem judgeDrain_quiet {ix : SegIx} {s : State} (hm : (s.seg ix).mode = .draining) (hq : (s.seg ix).drained = true) :
    judgeDrain ix s = s.setSeg ix (s.seg ix).enterKeying := if_pos ⟨hm, hq⟩

theorem judgeDrain_stands {ix : SegIx} {s : State} (h : ¬ ((s.seg ix).mode = .draining ∧ (s.seg ix).drained = true)) :
    judgeDrain ix s = s := if_neg h

/-- Settles O39: ENROL drains, and keys at once on a quiet segment (R133, R134); STOP-ENROL by the segment's state (R144). -/
theorem enrolmentIsStartedAndStopped : Obligations.EnrolmentIsStartedAndStopped := by
  intro s tag segment hfree hplan start r stop q
  have hstart : commonRefusal r s = none := commonRefusal_other rfl hplan rfl
  have hstop : commonRefusal q s = none := commonRefusal_other rfl hplan rfl
  refine ⟨fun h => ⟨exec_refused hfree tag hstart (withSegment_high h _), exec_refused hfree tag hstop (withSegment_high h _)⟩,
    fun ix hix => ?_⟩
  intro g draining keying stopped waiting quiet
  have hquiet : ({ g with mode := .draining, enrolCount := 0 } : Seg).drained = true ↔ quiet := drained_iff _
  have henrol : owner r s = if g.mode ≠ .run then refuse .busy else taken (judgeDrain ix draining) [] :=
    withSegment_named (n := segment) hix _
  have hending : owner q s = if g.mode = .starting ∨ g.mode = .run then refuse .wrongState else taken (stopEnrolment ix s) [g.mode.code] :=
    withSegment_named (n := segment) hix _
  have hseg : draining.seg ix = { g with mode := .draining, enrolCount := 0 } := seg_setSeg_same s ix _
  have hstops (u : State) (hm : ¬ (g.mode = .starting ∨ g.mode = .run)) (hu : stopEnrolment ix s = u) :
      exec stop s = .next (u.inService tag (.request q) [0x00, g.mode.code]) :=
    exec_taken hfree tag hstop rfl (hending.trans ((if_neg hm).trans (by rw [hu]; rfl)))
  refine ⟨fun h => exec_refused hfree tag hstart (henrol.trans (if_pos h)), fun h hq => ?_, fun h hq => ?_,
    fun h => exec_refused hfree tag hstop (hending.trans (if_pos h)), fun h => ?_, fun h hb => ?_, fun h hb => ?_, fun h => ?_⟩
  · have hkeys : judgeDrain ix draining = keying := by
      rw [judgeDrain_quiet (by rw [hseg]) (by rw [hseg]; exact hquiet.2 hq), hseg]
      exact setSeg_setSeg s ix _ _
    exact exec_taken hfree tag hstart rfl (henrol.trans ((if_neg (not_not.2 h)).trans (by rw [hkeys]; rfl)))
  · have hdrains : judgeDrain ix draining = draining :=
      judgeDrain_stands (fun hn => hq (hquiet.1 (hseg ▸ hn.2)))
    exact exec_taken hfree tag hstart rfl (henrol.trans ((if_neg (not_not.2 h)).trans (by rw [hdrains]; rfl)))
  · refine (hstops stopped (h ▸ nofun) ?_).trans (by rw [h]; rfl)
    unfold stopEnrolment
    rw [h]
    rfl
  · refine (hstops stopped (h ▸ nofun) ?_).trans (by rw [h]; rfl)
    unfold stopEnrolment
    rw [h]
    exact if_pos (Option.isNone_iff_eq_none.2 hb)
  · refine (hstops waiting (h ▸ nofun) ?_).trans (by rw [h]; rfl)
    unfold stopEnrolment
    rw [h]
    exact if_neg (fun hn => hb (Option.isNone_iff_eq_none.1 hn))
  · refine (hstops waiting (h ▸ nofun) ?_).trans (by rw [h]; rfl)
    unfold stopEnrolment
    rw [h]
    rfl

/-! ## Forgetting and refreshing -/

theorem isRefreshing_iff (x : Rec) : x.isRefreshing = true ↔ ∃ f, x.state = .refreshing f := by
  unfold Rec.isRefreshing
  cases x.state <;> simp

theorem mem_insertNat (n m : Nat) (l : List Nat) : m ∈ insertNat n l ↔ m = n ∨ m ∈ l := by
  induction l with
  | nil => simp [insertNat]
  | cons k l ih =>
    unfold insertNat
    split
    case isTrue => simp
    case isFalse =>
      rw [List.mem_cons, ih, List.mem_cons]
      exact or_left_comm

theorem mem_markDrop (ix : SegIx) (a b : Nat) (s : State) :
    b ∈ ((markDrop ix a s).seg ix).drops ↔ b = a ∨ b ∈ (s.seg ix).drops := by
  have hseg : ((markDrop ix a s).seg ix).drops
      = if (s.seg ix).drops.contains a then (s.seg ix).drops else insertNat a (s.seg ix).drops := by
    rw [markDrop, seg_setSeg_same]
  rw [hseg]
  split
  case isTrue h =>
    have hin : a ∈ (s.seg ix).drops := List.contains_iff_mem.1 h
    exact ⟨.inr, fun hb => hb.elim (fun heq => heq ▸ hin) id⟩
  case isFalse => exact mem_insertNat a b _

/-- The page index of a slot set to 0 where one is held: FR's page table alone changes. -/
theorem resetPage_eq (slot : Nat) (s : State) :
    resetPage slot s = { s with fr := { s.fr with pages := (resetPage slot s).fr.pages } } := by
  unfold resetPage
  cases Table.get s.fr.pages slot <;> rfl

/-- FR takes the loss of a slot: the slot's face is gone, and FR alone changes. -/
theorem resolverLoses_eq (slot : Nat) (s : State) : resolverLoses slot s =
    { s with fr := { faces := Table.del s.fr.faces slot, pages := (resolverLoses slot s).fr.pages } } := by
  rw [resolverLoses, resetPage_eq]
  rfl

/-- A record deleted: its segment without it, and its slot without pin and face. -/
theorem deleteRecord_eq {ix : SegIx} {a : Nat} {x : Rec} {s : State} (hx : s.rec? ix a = some x) :
    ∃ fr nu, deleteRecord ix a s = { s.setSeg ix ((s.seg ix).delete a x) with fr, nu }
      ∧ ∀ n, x.binding = some n → Table.get nu.pins n = none ∧ Table.get fr.faces n = none := by
  simp only [deleteRecord, hx]
  cases hb : x.binding with
  | none => exact ⟨s.fr, s.nu, by cases ix <;> rfl, nofun⟩
  | some slot =>
    simp only
    rw [resolverLoses_eq]
    refine ⟨_, _, rfl, fun n hn => ?_⟩
    cases hn
    exact ⟨Table.get_del_same _ _, Table.get_del_same _ _⟩

/-- Work on one bus is deliveries, that segment aside. -/
theorem followsSeg_iff (ix : SegIx) (s t : State) :
    FollowsSeg ix s t ↔ Follows (s.setSeg ix Seg.atReset) (t.setSeg ix Seg.atReset) :=
  ⟨fun h => ⟨h.kept, h.grow, h.good⟩, fun h => ⟨h.kept, h.grow, h.good⟩⟩

theorem FollowsSeg.inService {ix : SegIx} {s t : State} (h : FollowsSeg ix s t) (tag : Byte) (asked : Asked) (reply : List Byte) :
    FollowsSeg ix (s.inService tag asked reply) (t.inService tag asked reply) :=
  (followsSeg_iff ix _ _).2 (((followsSeg_iff ix _ _).1 h).inService tag asked reply)

theorem OnlyRecord.inService {ix : SegIx} {a : Nat} {s t : State} (h : OnlyRecord ix a s t) (tag : Byte) (asked : Asked) (reply : List Byte) :
    OnlyRecord ix a (s.inService tag asked reply) (t.inService tag asked reply) :=
  ⟨h.follows.inService tag asked reply, h.beside, h.others, h.sessions, h.orders⟩

theorem forgetPanel_out {segment address : Byte} {s : State} (h : 4 ≤ segment.toNat ∨ address.toNat = 0 ∨ 96 < address.toNat) :
    forgetPanel segment address s = refuse .range := withAddress_out h _

theorem refreshPanel_out {segment address : Byte} {s : State} (h : 4 ≤ segment.toNat ∨ address.toNat = 0 ∨ 96 < address.toNat) :
    refreshPanel segment address s = refuse .range := withAddress_out h _

/-- FORGET-PANEL of an address of a segment. -/
theorem forgetPanel_named {segment address : Byte} {s : State} {ix : SegIx} (h : SegIx.named segment = some ix)
    (hlow : 1 ≤ address.toNat) (hhigh : address.toNat ≤ 96) :
    forgetPanel segment address s = if (s.seg ix).mode ≠ .run then refuse .busy else match s.rec? ix address.toNat with
      | none => refuse .notFound
      | some x => if x.state = .loading ∨ x.isRefreshing then refuse .busy
        else taken (markDrop ix address.toNat (deleteRecord ix address.toNat s)) [] :=
  withAddress_named h hlow hhigh _

/-- REFRESH-PANEL of an address of a segment. -/
theorem refreshPanel_named {segment address : Byte} {s : State} {ix : SegIx} (h : SegIx.named segment = some ix)
    (hlow : 1 ≤ address.toNat) (hhigh : address.toNat ≤ 96) :
    refreshPanel segment address s = match s.rec? ix address.toNat with
      | none => refuse .notFound
      | some x => if x.state = .loading ∨ x.isRefreshing then refuse .busy else if x.isLost then refuse .wrongState
        else taken (forceFull ix address.toNat x s) (recStateAfter (forceFull ix address.toNat x s) ix address.toNat) :=
  withAddress_named h hlow hhigh _

/-- The record at an address after its need is evaluated with a least class. -/
theorem rec_evaluateAt {ix : SegIx} {a : Nat} {x : Rec} {s : State} (least : QueueClass) (h : s.rec? ix a = some x)
    (hs : x.state = .online ∨ x.state = .queued) :
    (s.setSeg ix ((s.seg ix).evaluate a least)).rec? ix a = some { x with state := if x.needs then .queued else .online } := by
  show Table.get ((s.setSeg ix _).seg ix).recs a = _
  rw [seg_setSeg_same]
  exact Seg.evaluate_idle least h hs

/-- A need evaluated with a least class, REFRESH-PANEL's or the usual one (R149, R150). -/
theorem evaluateAt_judges {ix : SegIx} {a : Nat} {x : Rec} {s : State} (least : QueueClass) (h : s.rec? ix a = some x)
    (hs : x.state = .online ∨ x.state = .queued) : NeedJudged ix a least x s (s.setSeg ix ((s.seg ix).evaluate a least)) := by
  have hget : Table.get (s.seg ix).recs a = some x := h
  have hrec := rec_evaluateAt least h hs
  have hqueued (hn : x.needs = true) (hq : x.state = .queued) : { x with state := if x.needs then .queued else .online } = x := by
    rw [hn, if_pos rfl, ← hq]
  unfold NeedJudged
  rw [hrec, seg_setSeg_same]
  refine ⟨fun hn ho => ?_, fun hn hq => ?_, fun hn => ?_⟩
  · rw [Seg.evaluate_online least hget ho hn, hn]
    exact ⟨rfl, mem_enterQueue.2 (.inl rfl), rfl⟩
  · rw [Seg.evaluate_queued least hget hq hn, hqueued hn hq]
    exact ⟨rfl, rfl, fun e he => mem_raiseEntry he⟩
  · rcases hs with hs | hs
    · have hstands : (s.seg ix).evaluate a least = s.seg ix := by simp [Seg.evaluate, hget, hs, hn]
      rw [hn, hstands]
      exact ⟨rfl, rfl, fun hq => by cases hs.symm.trans hq⟩
    · have hleaves : (s.seg ix).evaluate a least = (s.seg ix).setOnline a x := by simp [Seg.evaluate, hget, hs, hn]
      rw [hn, hleaves]
      exact ⟨rfl, rfl, fun _ e he => (mem_leaveQueue.1 he).2⟩

/-- Settles O40: FORGET-PANEL deletes the record and marks a DROP (R125, R126); REFRESH-PANEL marks it and judges its need (R127). -/
theorem panelsAreForgottenAndRefreshed : Obligations.PanelsAreForgottenAndRefreshed := by
  intro s tag segment address hfree hplan a forget r refresh q
  have hforget : commonRefusal r s = none := commonRefusal_other rfl hplan rfl
  have hrefresh : commonRefusal q s = none := commonRefusal_other rfl hplan rfl
  refine ⟨fun h => ⟨exec_refused hfree tag hforget (forgetPanel_out h),
    exec_refused hfree tag hrefresh (refreshPanel_out h)⟩, fun ix hix hlow hhigh => ?_⟩
  intro mode
  have hforgets : owner r s = _ := forgetPanel_named hix hlow hhigh
  have hrefreshes : owner q s = _ := refreshPanel_named hix hlow hhigh
  refine ⟨fun hm => exec_refused hfree tag hforget (hforgets.trans (if_pos hm)), fun hno => ⟨fun hm => exec_refused hfree tag hforget ?_,
    exec_refused hfree tag hrefresh ?_⟩, fun x hx => ?_⟩
  · rw [hforgets, if_neg (not_not.2 hm), hno]
    rfl
  · rw [hrefreshes, hno]
    rfl
  · intro flying
    have hflying : (x.state = .loading ∨ x.isRefreshing = true) ↔ flying := or_congr_right (isRefreshing_iff x)
    refine ⟨fun hfly => ⟨fun hm => exec_refused hfree tag hforget ?_, exec_refused hfree tag hrefresh ?_⟩,
      fun hlost => exec_refused hfree tag hrefresh ?_, fun hm hfly => ?_, fun hidle => ?_⟩
    · rw [hforgets, if_neg (not_not.2 hm), hx]
      exact if_pos (hflying.2 hfly)
    · rw [hrefreshes, hx]
      exact if_pos (hflying.2 hfly)
    · rw [hrefreshes, hx]
      refine (if_neg ?_).trans (if_pos ?_)
      · rw [hflying, not_or]
        exact ⟨hlost ▸ nofun, fun hn => by obtain ⟨f, hf⟩ := hn; cases hlost.symm.trans hf⟩
      · exact decide_eq_true hlost
    · have howner : owner r s = .ok (markDrop ix a (deleteRecord ix a s), []) := by
        rw [hforgets, if_neg (not_not.2 hm), hx]
        exact if_neg (fun hn => hfly (hflying.1 hn))
      have hfollows := ((deleteRecord_seg ix a s).trans (markDrop_seg ix a _)).inService tag (.request r) [0x00]
      obtain ⟨fr, nu, hdelete, hslot⟩ := deleteRecord_eq hx
      have hseg : (deleteRecord ix a s).seg ix = (s.seg ix).delete a x := by
        rw [hdelete]
        exact seg_setSeg_same s ix _
      have hdrops := fun b => mem_markDrop ix a b (deleteRecord ix a s)
      rw [hseg] at hdrops
      have hafter : (markDrop ix a (deleteRecord ix a s)).seg ix
          = { (s.seg ix).delete a x with drops := ((markDrop ix a (deleteRecord ix a s)).seg ix).drops } := by
        rw [markDrop, seg_setSeg_same, hseg]
      refine ⟨_, exec_taken hfree tag hforget rfl howner, hfollows, ?_, hafter, fun j hj => ?_, hdrops, ?_, fun n hn => ?_⟩
      · show Table.get ((markDrop ix a (deleteRecord ix a s)).seg ix).recs a = none
        rw [hafter]
        exact Table.get_del_same _ _
      · show (markDrop ix a (deleteRecord ix a s)).seg j = s.seg j
        rw [markDrop, seg_setSeg_other _ _ hj, hdelete]
        exact seg_setSeg_other s _ hj
      · show (markDrop ix a (deleteRecord ix a s)).sessions = s.sessions
        rw [markDrop, setSeg_sessions, hdelete]
        exact setSeg_sessions s ix ((s.seg ix).delete a x)
      · show Table.get (markDrop ix a (deleteRecord ix a s)).nu.pins n = none
          ∧ Table.get (markDrop ix a (deleteRecord ix a s)).fr.faces n = none
        rw [markDrop, setSeg_nu, setSeg_fr, hdelete]
        exact hslot n hn
    · intro y base
      have hneeds : y.needs = !x.cold := by
        show (!x.cold && (y.differs || true)) = !x.cold
        rw [Bool.or_true, Bool.and_true]
      have hput : (s.putRec ix a y).rec? ix a = some y := rec_putRec_same s ix a y
      have hrec : (forceFull ix a x s).rec? ix a = some { y with state := if y.needs then .queued else .online } :=
        rec_evaluateAt .normal hput hidle
      have hreply : recStateAfter (forceFull ix a x s) ix a = [if x.cold then 0 else 1] := by
        unfold recStateAfter
        rw [hrec, hneeds]
        cases x.cold <;> rfl
      have howner : owner q s = .ok (forceFull ix a x s, [if x.cold then 0 else 1]) := by
        rw [hrefreshes, hx]
        refine (if_neg (fun hn => ?_)).trans ((if_neg (fun hn => ?_)).trans (by rw [hreply]; rfl))
        · obtain hload | ⟨f, hf⟩ := hflying.1 hn
          · exact hidle.elim (fun h => by cases h.symm.trans hload) (fun h => by cases h.symm.trans hload)
          · exact hidle.elim (fun h => by cases h.symm.trans hf) (fun h => by cases h.symm.trans hf)
        · have hlost : x.state = .lost := of_decide_eq_true hn
          exact hidle.elim (fun h => by cases h.symm.trans hlost) (fun h => by cases h.symm.trans hlost)
      have honly : OnlyRecord ix a s (forceFull ix a x s) :=
        (OnlyRecord.putRec ix a y s).trans (OnlyRecord.setSeg ix a _ _ (Seg.evaluate_beside _ a .normal))
      have hjudged := evaluateAt_judges .normal hput hidle
      refine ⟨_, exec_taken hfree tag hrefresh rfl howner, honly.inService tag _ _, ?_, ?_, ?_, hneeds⟩
      · show (forceFull ix a x s).fr = s.fr
        exact (setSeg_fr _ _ _).trans (setSeg_fr s ix _)
      · show FlightsKept ix s (forceFull ix a x s)
        unfold FlightsKept forceFull
        rw [seg_setSeg_same, Seg.evaluate_pointer, Seg.evaluate_transfer, Seg.evaluate_reserved, seg_putRec_same]
        exact ⟨rfl, rfl, rfl⟩
      · have hsame : NeedJudged ix a .normal y s (forceFull ix a x s) ↔ NeedJudged ix a .normal y (s.putRec ix a y) (forceFull ix a x s) := by
          unfold NeedJudged
          rw [seg_putRec_same]
        exact hsame.2 hjudged

end Sys2Proof.Machine
end

section
/-! PROOFS. Bindings worked: which record a slot is bound to, and what FR and NU lose with a binding (spec: R100, R112, R113, R115, R116). -/

namespace Sys2Proof.Machine

/-! ## Deliveries through service, commits and lost bindings -/

namespace FollowsThrough

variable {f : Rec → Rec} {s t : State}

theorem loseBinding (h : FollowsThrough f s t) (slot : Nat) : FollowsThrough f (loseBinding slot s) (loseBinding slot t) :=
  ⟨congrArg (Machine.loseBinding slot) h.kept, h.grow, h.good⟩

theorem commitEdit (h : FollowsThrough f s t) : FollowsThrough f (commitEdit s) (commitEdit t) :=
  ⟨congrArg Machine.commitEdit h.kept, h.grow, h.good⟩

theorem inService (h : FollowsThrough f s t) (tag : Byte) (asked : Asked) (reply : List Byte) :
    FollowsThrough f (s.inService tag asked reply) (t.inService tag asked reply) :=
  ⟨congrArg (State.inService · tag asked reply) h.kept, h.grow, h.good⟩

/-- A record replaced by one that looks the same. -/
theorem putRec {ix : SegIx} {a : Nat} {x y : Rec} (hx : s.rec? ix a = some x) (hf : f y = f x) :
    FollowsThrough f s (s.putRec ix a y) := by
  have hrecs : Table.mapVals f (Table.put (s.seg ix).recs a y) = Table.mapVals f (s.seg ix).recs := Table.mapVals_put f _ a y x hx hf
  have hafter : (s.putRec ix a y).keptThrough f
      = (s.keptThrough f).setSeg ix { (s.seg ix).kept with recs := Table.mapVals f (Table.put (s.seg ix).recs a y) } := by
    cases ix <;> rfl
  have hbefore : s.keptThrough f = (s.keptThrough f).setSeg ix { (s.seg ix).kept with recs := Table.mapVals f (s.seg ix).recs } := by
    cases ix <;> rfl
  exact ⟨by rw [hafter, hrecs, ← hbefore], BitVec.and_self, id⟩

end FollowsThrough

theorem seesKept_unbound : SeesKept Rec.unbound := by
  intro r
  unfold Rec.unbound Rec.kept
  cases hs : r.state <;> rfl

/-! ## The records of the part -/

theorem rec_putRec (s : State) (ix jx : SegIx) (a b : Nat) (r : Rec) :
    (s.putRec ix a r).rec? jx b = if jx = ix ∧ b = a then some r else s.rec? jx b := by
  by_cases hj : jx = ix
  · subst hj
    by_cases hb : b = a
    · subst hb
      rw [if_pos ⟨rfl, rfl⟩]
      exact rec_putRec_same s jx b r
    · rw [if_neg (fun h => hb h.2)]
      exact rec_putRec_other s jx r hb
  · rw [if_neg (fun h => hj h.1)]
    show Table.get ((s.setSeg ix _).seg jx).recs b = _
    rw [seg_setSeg_other s _ hj]
    rfl

/-- The binding of the record at an address, if a record stands there. -/
def State.bindingAt (s : State) (ix : SegIx) (a : Nat) : Option (Option Nat) := (s.rec? ix a).map (·.binding)

theorem Follows.bindingAt {s t : State} (h : Follows s t) (ix : SegIx) (a : Nat) : t.bindingAt ix a = s.bindingAt ix a := by
  have hrecs : Table.mapVals Rec.kept (t.seg ix).recs = Table.mapVals Rec.kept (s.seg ix).recs := congrArg Seg.recs (h.seg ix)
  have hget := congrArg (Option.map Rec.binding) (Table.get_of_mapVals_eq hrecs a)
  rw [Option.map_map, Option.map_map] at hget
  exact hget

theorem bindingAt_putRec (s : State) (ix jx : SegIx) (a b : Nat) (r : Rec) :
    (s.putRec ix a r).bindingAt jx b = if jx = ix ∧ b = a then some r.binding else s.bindingAt jx b := by
  unfold State.bindingAt
  rw [rec_putRec]
  split <;> rfl

/-- Where the records of the part stand, each with what `f` shows of it. -/
def State.places {α : Type} (s : State) (f : Rec → α) : List (SegIx × Nat × α) := s.allRecs.map (fun q => (q.seg, q.address, f q.rec_))

theorem places_eq {α : Type} (s : State) (f : Rec → α) :
    s.places f = allSegs.flatMap (fun ix => (Table.mapVals f (s.seg ix).recs).map (fun e => (ix, e.1, e.2))) := by
  simp [State.places, State.allRecs, List.map_flatMap, Table.mapVals, Function.comp_def]

theorem FollowsThrough.places {f : Rec → Rec} {s t : State} (h : FollowsThrough f s t) : t.places f = s.places f := by
  rw [places_eq, places_eq]
  simp only [h.recs]

/-- Where the carriers of a serial stand. -/
theorem carriers_places {s t : State} (h : FollowsThrough Rec.unbound s t) (serial : Serial) :
    (t.carriers serial).map (fun q => (q.seg, q.address)) = (s.carriers serial).map (fun q => (q.seg, q.address)) := by
  have hread (u : State) : (u.carriers serial).map (fun q => (q.seg, q.address))
      = ((u.places Rec.unbound).filter (fun e => e.2.2.serial = serial)).map (fun e => (e.1, e.2.1)) := by
    rw [State.places, List.filter_map, List.map_map]
    rfl
  rw [hread, hread, h.places]

theorem get_isSome_of_mem {α : Type} {t : Table α} {e : Nat × α} (h : e ∈ t) : (Table.get t e.1).isSome = true := by
  induction t with
  | nil => cases h
  | cons k t ih =>
    obtain ⟨n, v⟩ := k
    rw [Table.get_cons]
    split
    · rfl
    next hne => exact ih ((List.mem_cons.1 h).resolve_left (fun heq => hne (heq ▸ rfl)))

/-- A record listed for the part stands at its address. -/
theorem rec_isSome_of_mem {s : State} {q : Place} (h : q ∈ s.allRecs) : (s.rec? q.seg q.address).isSome = true := by
  obtain ⟨ix, -, hin⟩ := List.mem_flatMap.1 h
  obtain ⟨e, he, rfl⟩ := List.mem_map.1 hin
  exact get_isSome_of_mem he

/-- In rising tables it is the record that stands there. -/
theorem rec_of_mem {s : State} (hs : RecordsGood s) {q : Place} (h : q ∈ s.allRecs) : s.rec? q.seg q.address = some q.rec_ := by
  obtain ⟨ix, -, hin⟩ := List.mem_flatMap.1 h
  obtain ⟨e, he, rfl⟩ := List.mem_map.1 hin
  exact Table.get_of_mem (hs.1 ix) he

/-- The record bound to a slot. -/
theorem rec_of_holder {s : State} (hs : RecordsGood s) {slot : Nat} {h : Place} (hh : s.holder slot = some h) :
    s.rec? h.seg h.address = some h.rec_ ∧ h.rec_.binding = some slot := by
  refine ⟨rec_of_mem hs (List.mem_of_find?_eq_some hh), ?_⟩
  have := List.find?_some hh
  exact of_decide_eq_true this

/-! ## A binding lost -/

/-- A page index set to 0 where one is held (R71, R87). -/
theorem pages_resetPage (slot m : Nat) (s : State) : Table.get (resetPage slot s).fr.pages m
    = if m = slot then (Table.get s.fr.pages m).map (fun _ => 0) else Table.get s.fr.pages m := by
  unfold resetPage
  by_cases hm : m = slot
  · subst hm
    rw [if_pos rfl]
    cases hget : Table.get s.fr.pages m with
    | none => exact hget
    | some index => exact Table.get_put_same _ _ _
  · rw [if_neg hm]
    cases Table.get s.fr.pages slot with
    | none => rfl
    | some index => exact Table.get_put_other _ _ hm

theorem makeStray_eq {ix : SegIx} {a slot : Nat} {x : Rec} {s : State} (hx : s.rec? ix a = some x) (hb : x.binding = some slot) :
    makeStray ix a s = wantedFaceChange ix a blankDigest .blank
      (loseBinding slot (resolverLoses slot (raise .stray (s.putRec ix a { x with binding := none })))) := by
  simp only [makeStray, hx, hb]

theorem makeStray_through {ix : SegIx} {a slot : Nat} {x : Rec} {s : State} (hx : s.rec? ix a = some x) (hb : x.binding = some slot) :
    FollowsThrough Rec.unbound (loseBinding slot s) (makeStray ix a s) := by
  rw [makeStray_eq hx hb]
  refine FollowsThrough.trans ?_ ((wantedFaceChange_follows ix a blankDigest .blank _).through seesKept_unbound)
  have hput : FollowsThrough Rec.unbound s (s.putRec ix a { x with binding := none }) := FollowsThrough.putRec hx rfl
  exact (hput.trans (((raise_follows .stray _).trans (resolverLoses_follows slot _)).through seesKept_unbound)).loseBinding slot

theorem makeStray_bindingAt {ix : SegIx} {a slot : Nat} {x : Rec} {s : State} (hx : s.rec? ix a = some x) (hb : x.binding = some slot)
    (jx : SegIx) (b : Nat) : (makeStray ix a s).bindingAt jx b = if jx = ix ∧ b = a then some none else s.bindingAt jx b := by
  rw [makeStray_eq hx hb, (wantedFaceChange_follows ix a _ _ _).bindingAt]
  refine Eq.trans ?_ (bindingAt_putRec s ix jx a b { x with binding := none })
  exact ((raise_follows .stray _).trans (resolverLoses_follows slot _)).bindingAt jx b

theorem makeStray_stray {ix : SegIx} {a slot : Nat} {x : Rec} {s : State} (hx : s.rec? ix a = some x) (hb : x.binding = some slot) :
    flagSet (makeStray ix a s) .stray = true := by
  rw [makeStray_eq hx hb]
  refine flagSet_of_grow (wantedFaceChange_follows ix a _ _ _).grow ?_
  have hraised : flagSet (raise .stray (s.putRec ix a { x with binding := none })) .stray = true := flagSet_raise _ _
  exact flagSet_of_grow (resolverLoses_follows slot _).grow hraised

theorem makeStray_fr {ix : SegIx} {a slot : Nat} {x : Rec} {s : State} (hx : s.rec? ix a = some x) (hb : x.binding = some slot) :
    (makeStray ix a s).fr = (resolverLoses slot s).fr := by
  rw [makeStray_eq hx hb, wantedFaceChange_fr, loseBinding_fr]
  unfold resolverLoses resetPage State.dropFace
  rw [raise_fr, State.putRec, setSeg_fr]
  cases Table.get s.fr.pages slot <;> rfl

/-! ## A binding made -/

theorem bindRecord_eq {ix : SegIx} {a : Nat} {x : Rec} {s : State} (slot : Nat) (hx : s.rec? ix a = some x) :
    bindRecord ix a slot s = recomputeSlot slot (resolverLoses slot (s.putRec ix a { x with binding := some slot })) := by
  simp only [bindRecord, hx]
  rfl

theorem bindRecord_through (ix : SegIx) (a slot : Nat) (s : State) : FollowsThrough Rec.unbound s (bindRecord ix a slot s) := by
  cases hx : s.rec? ix a with
  | none =>
    simp only [bindRecord, hx]
    exact FollowsThrough.refl _ s
  | some x =>
    rw [bindRecord_eq slot hx]
    have hput : FollowsThrough Rec.unbound s (s.putRec ix a { x with binding := some slot }) := FollowsThrough.putRec hx rfl
    exact hput.trans (((resolverLoses_follows slot _).trans (recomputeSlot_follows slot _)).through seesKept_unbound)

theorem bindRecord_bindingAt {ix : SegIx} {a : Nat} {s : State} (slot : Nat) (hx : (s.rec? ix a).isSome = true) (jx : SegIx) (b : Nat) :
    (bindRecord ix a slot s).bindingAt jx b = if jx = ix ∧ b = a then some (some slot) else s.bindingAt jx b := by
  obtain ⟨x, hx⟩ := Option.isSome_iff_exists.1 hx
  rw [bindRecord_eq slot hx]
  refine Eq.trans ?_ (bindingAt_putRec s ix jx a b { x with binding := some slot })
  exact ((resolverLoses_follows slot _).trans (recomputeSlot_follows slot _)).bindingAt jx b

/-- The binding of a slot worked: at most bindings, and PANEL for a serial that two records carry (R115). -/
theorem bindSlot_through (slot : Nat) (serial : Serial) (s : State) : FollowsThrough Rec.unbound s (bindSlot slot serial s) := by
  unfold bindSlot
  split
  · exact FollowsThrough.refl _ s
  · exact ((raiseIf_follows _ .panel s).through seesKept_unbound).trans (bindRecord_through _ _ slot _)

theorem bindSlot_bindingAt (slot : Nat) (serial : Serial) (s : State) (ix : SegIx) (a : Nat) : (bindSlot slot serial s).bindingAt ix a
    = if (s.carriers serial).head?.any (fun q => q.seg = ix && q.address = a) = true then some (some slot) else s.bindingAt ix a := by
  unfold bindSlot
  cases hc : s.carriers serial with
  | nil => rfl
  | cons q others =>
    have hq : q ∈ s.allRecs := List.mem_of_mem_filter (hc ▸ List.mem_cons_self : q ∈ s.carriers serial)
    have hstands : ((raiseIf (!others.isEmpty) .panel s).rec? q.seg q.address).isSome = true := by
      rw [rec_raiseIf]
      exact rec_isSome_of_mem hq
    refine (bindRecord_bindingAt slot hstands ix a).trans ?_
    have hcond : (ix = q.seg ∧ a = q.address) ↔ ((q :: others).head?.any (fun q => q.seg = ix && q.address = a) = true) := by
      show _ ↔ (decide (q.seg = ix) && decide (q.address = a)) = true
      rw [Bool.and_eq_true, decide_eq_true_eq, decide_eq_true_eq]
      exact and_congr eq_comm eq_comm
    rw [(raiseIf_follows _ .panel s).bindingAt]
    exact if_congr hcond rfl rfl

theorem bindSlot_panel {slot : Nat} {serial : Serial} {s : State} (h : 2 ≤ (s.carriers serial).length) :
    flagSet (bindSlot slot serial s) .panel = true := by
  unfold bindSlot
  cases hc : s.carriers serial with
  | nil => simp [hc] at h
  | cons q others =>
    have hothers : (!others.isEmpty) = true := by
      cases others with
      | nil => simp [hc] at h
      | cons q' others => rfl
    refine flagSet_of_grow (bindRecord_through _ _ _ _).grow ?_
    rw [hothers]
    exact flagSet_raise _ _

/-! ## Page indices after a plan edit -/

/-- The page index that a slot of a role starts with: 0 for a DIRECTORY slot, none for a DOOR slot (R70, R71). -/
def firstPage : Role → Option Nat
  | .door _ => none
  | .directory _ _ _ => some 0

/-- A defined slot has its first page index. -/
def StartsAtPage (slot : Nat) (role : Role) (s : State) : Prop :=
  (∃ p, Table.get s.ps.panels slot = some p ∧ p.role = role) ∧ Table.get s.fr.pages slot = firstPage role

namespace StartsAtPage

variable {slot : Nat} {role : Role} {s t : State}

theorem congr (h : StartsAtPage slot role s) (hps : t.ps = s.ps) (hfr : t.fr = s.fr) : StartsAtPage slot role t := by
  unfold StartsAtPage
  rw [hps, hfr]
  exact h

theorem setPages (slot : Nat) (role : Role) (s : State) (hp : ∃ p, Table.get s.ps.panels slot = some p ∧ p.role = role) :
    StartsAtPage slot role (setPages slot role s) := by
  cases role with
  | door sec => exact ⟨hp, Table.get_del_same _ _⟩
  | directory first count heading => exact ⟨hp, Table.get_put_same _ _ _⟩

theorem resolverLoses (h : StartsAtPage slot role s) : StartsAtPage slot role (resolverLoses slot s) := by
  obtain ⟨hp, hpage⟩ := h
  refine ⟨(resolverLoses_follows slot s).ps ▸ hp, ?_⟩
  have hpages := pages_resetPage slot slot (s.dropFace slot)
  rw [if_pos rfl] at hpages
  refine hpages.trans ?_
  show (Table.get s.fr.pages slot).map (fun _ => 0) = firstPage role
  rw [hpage]
  cases role <;> rfl

theorem recomputeSlot (h : StartsAtPage slot role s) : StartsAtPage slot role (recomputeSlot slot s) := by
  obtain ⟨⟨p, hp, hrole⟩, hpage⟩ := h
  refine ⟨⟨p, (recomputeSlot_follows slot s).ps ▸ hp, hrole⟩, ?_⟩
  cases hc : s.holderClass slot with
  | none =>
    have hh : s.holder slot = none := Option.map_eq_none_iff.1 hc
    have hdrop : Machine.recomputeSlot slot s = s.dropFace slot := by
      simp only [Machine.recomputeSlot, hp, hh]
    rw [hdrop]
    exact hpage
  | some cls =>
    rw [recomputeSlot_fr_bound hp hc]
    have hindex : s.pageIndex slot = 0 := by
      rw [State.pageIndex, hpage]
      cases role <;> rfl
    rw [hindex, ← hrole]
    rw [← hrole] at hpage
    unfold State.storeFace roleFaceOf
    cases hr : p.role with
    | door sec =>
      rw [hr] at hpage
      exact hpage
    | directory first count heading =>
      have hkept : pageKept 0 (pageCount cls (lineList s first count).length) = 0 := by
        unfold pageKept
        split <;> rfl
      simp only [hkept]
      exact Table.get_put_same _ _ _

theorem makeStray (h : StartsAtPage slot role s) {ix : SegIx} {a : Nat} {x : Rec} (hx : s.rec? ix a = some x) (hb : x.binding = some slot) :
    StartsAtPage slot role (makeStray ix a s) :=
  h.resolverLoses.congr ((makeStray_ps ix a s).trans (resolverLoses_follows slot s).ps.symm) (makeStray_fr hx hb)

theorem bindRecord (h : StartsAtPage slot role s) (ix : SegIx) (a : Nat) : StartsAtPage slot role (bindRecord ix a slot s) := by
  cases hx : s.rec? ix a with
  | none =>
    simp only [Machine.bindRecord, hx]
    exact h
  | some x =>
    rw [bindRecord_eq slot hx]
    exact ((h.congr (setSeg_ps _ _ _) (setSeg_fr _ _ _)).resolverLoses).recomputeSlot

theorem bindSlot (h : StartsAtPage slot role s) (serial : Serial) : StartsAtPage slot role (bindSlot slot serial s) := by
  unfold Machine.bindSlot
  split
  · exact h
  · exact (h.congr (raiseIf_ps _ _ _) (raiseIf_fr _ _ _)).bindRecord _ _

end StartsAtPage

end Sys2Proof.Machine
end

section
/-! PROOFS. DEFINE-PANEL and REMOVE-PANEL (spec: R110–R113). -/

namespace Sys2Proof.Machine

/-! ## The checks -/

/-- The fields of a DEFINE-PANEL pass the RANGE check of R111, its slot aside. -/
def PanelRanged (p : PanelSpec) : Prop :=
  (p.role = 1 ∧ p.first.toNat < 96) ∨ (p.role = 2 ∧ p.first.toNat < 96 ∧ 1 ≤ p.count.toNat ∧ p.first.toNat + p.count.toNat ≤ 96
    ∧ p.heading.page.toNat < 48)

/-- The role that a DEFINE-PANEL in range names. -/
def namedRole (p : PanelSpec) : Role :=
  if p.role = 1 then Role.door p.first.toNat else .directory p.first.toNat p.count.toNat p.heading

theorem roleOf_ranged {p : PanelSpec} (h : PanelRanged p) : roleOf p = some (namedRole p) := by
  unfold roleOf namedRole
  rcases h with ⟨hrole, hfirst⟩ | ⟨hrole, hfirst, hcount, hlast, hpage⟩
  · rw [if_pos hrole, hrole]
    exact if_pos hfirst
  · rw [hrole]
    refine if_pos ⟨hfirst, hcount, hlast, fun hbad => ?_⟩
    exact Nat.not_le.2 hpage (of_decide_eq_true hbad)

theorem roleOf_unranged {p : PanelSpec} (h : ¬ PanelRanged p) : roleOf p = none := by
  unfold roleOf
  split
  case h_1 hrole => exact if_neg (fun hfirst => h (.inl ⟨BitVec.eq_of_toNat_eq hrole, hfirst⟩))
  case h_2 hrole =>
    refine if_neg (fun hn => ?_)
    obtain ⟨hfirst, hcount, hlast, hbad⟩ := hn
    have hpage : p.heading.page.toNat < 48 := Nat.not_le.1 (fun hle => hbad (decide_eq_true hle))
    exact h (.inr ⟨BitVec.eq_of_toNat_eq hrole, hfirst, hcount, hlast, hpage⟩)
  case h_3 => rfl

theorem roleBase_named (p : PanelSpec) : roleBase (namedRole p) = p.first.toNat := by
  unfold namedRole
  split <;> rfl

theorem firstPage_named (p : PanelSpec) : firstPage (namedRole p) = if p.role = 1 then none else some 0 := by
  unfold namedRole
  split <;> rfl

/-- DEFINE-PANEL with its fields in range. -/
theorem definePanel_ranged {p : PanelSpec} (h : PanelRanged p) (s : State) : definePanel p s =
    if 384 ≤ p.slot.toNat then refuse .range
    else if (Table.get s.lu.sections p.first.toNat).isNone then refuse .notFound
    else if s.ps.panels.any (fun e => e.1 ≠ p.slot.toNat && e.2.serial = p.serial) then refuse .clash
    else taken (workBinding p.slot.toNat ((Table.get s.ps.panels p.slot.toNat).map (·.serial)) p.serial
      (setPages p.slot.toNat (namedRole p) { s with ps := { s.ps with
        panels := Table.put s.ps.panels p.slot.toNat { serial := p.serial, role := namedRole p, zones := p.zones } } })) [] := by
  simp only [definePanel, roleOf_ranged h, roleBase_named]

theorem setPages_follows (slot : Nat) (role : Role) (s : State) : Follows s (setPages slot role s) := by
  cases role <;> exact Follows.of_li rfl rfl rfl

/-- The same with NU's part set on both sides. -/
theorem setPages_follows_with (slot : Nat) (role : Role) (nu : NoticeUnit) (s : State) :
    Follows { s with nu } { setPages slot role s with nu } := by
  cases role <;> exact Follows.of_li rfl rfl rfl

theorem setPages_sc (slot : Nat) (role : Role) (s : State) : (setPages slot role s).sc = s.sc := by
  cases role <;> rfl

/-! ## Bindings -/

theorem rec_of_sc {s v : State} (h : v.sc = s.sc) (ix : SegIx) (a : Nat) : v.rec? ix a = s.rec? ix a := by
  unfold State.rec? State.seg
  rw [h]

/-- A slot that nobody holds is bound to no record. -/
theorem binding_ne_of_unheld {s : State} {slot : Nat} (hh : s.holder slot = none) {ix : SegIx} {a : Nat} {x : Rec}
    (hx : s.rec? ix a = some x) : x.binding ≠ some slot := by
  have hin : (⟨ix, a, x⟩ : Place) ∈ s.allRecs :=
    List.mem_flatMap.2 ⟨ix, by cases ix <;> decide, List.mem_map.2 ⟨(a, x), mem_of_get hx, rfl⟩⟩
  intro hb
  exact List.find?_eq_none.1 hh _ hin (decide_eq_true hb)

/-- The holder of a slot made a stray: the one record bound to it is bound no more. -/
theorem bindingAt_strayed {s v : State} (hs : RecordsGood s) (hv : v.sc = s.sc) {slot : Nat} {h : Place} (hh : s.holder slot = some h)
    {ix : SegIx} {a : Nat} {x : Rec} (hx : s.rec? ix a = some x) :
    (makeStray h.seg h.address v).bindingAt ix a = some (if x.binding = some slot then none else x.binding) := by
  obtain ⟨hrec, hb⟩ := rec_of_holder hs hh
  have hget : v.bindingAt ix a = some x.binding := by rw [State.bindingAt, rec_of_sc hv, hx]; rfl
  rw [makeStray_bindingAt ((rec_of_sc hv _ _).trans hrec) hb, hget]
  by_cases hx' : x.binding = some slot
  · obtain ⟨hseg, haddress⟩ := hs.2 _ _ _ _ _ _ _ hx hrec hx' hb
    rw [if_pos hx', if_pos ⟨hseg, haddress⟩]
  · rw [if_neg hx', if_neg]
    rintro ⟨hseg, haddress⟩
    rw [hseg, haddress] at hx
    cases hx.symm.trans hrec
    exact hx' hb

theorem holder_of_sc {s v : State} (h : v.sc = s.sc) (slot : Nat) : v.holder slot = s.holder slot := by
  unfold State.holder State.allRecs State.seg
  rw [h]

/-- What a plan edit does to the holder of its slot: NU's pin and the binding fall, STRAY is raised (R100, R115). -/
theorem strayHolder_strays {s v : State} (hs : RecordsGood s) (hv : v.sc = s.sc) (slot : Nat) :
    FollowsThrough Rec.unbound { v with nu := { v.nu with
        pins := if (s.holder slot).isSome = true then Table.del v.nu.pins slot else v.nu.pins } } (strayHolder slot v)
      ∧ (∀ ix a x, s.rec? ix a = some x →
          (strayHolder slot v).bindingAt ix a = some (if x.binding = some slot then none else x.binding))
      ∧ ((s.holder slot).isSome = true → flagSet (strayHolder slot v) .stray = true) := by
  unfold strayHolder
  rw [holder_of_sc hv]
  cases hh : s.holder slot with
  | none =>
    refine ⟨FollowsThrough.refl _ v, fun ix a x hx => ?_, nofun⟩
    rw [if_neg (binding_ne_of_unheld hh hx), State.bindingAt, rec_of_sc hv, hx]
    rfl
  | some h =>
    obtain ⟨hrec, hb⟩ := rec_of_holder hs hh
    have hrec' : v.rec? h.seg h.address = some h.rec_ := (rec_of_sc hv _ _).trans hrec
    exact ⟨makeStray_through hrec' hb, fun ix a x hx => bindingAt_strayed hs hv hh hx, fun _ => makeStray_stray hrec' hb⟩

theorem strayHolder_starts {s v : State} (hs : RecordsGood s) (hv : v.sc = s.sc) {slot : Nat} {role : Role} (h : StartsAtPage slot role v) :
    StartsAtPage slot role (strayHolder slot v) := by
  unfold strayHolder
  rw [holder_of_sc hv]
  cases hh : s.holder slot with
  | none => exact h
  | some q =>
    obtain ⟨hrec, hb⟩ := rec_of_holder hs hh
    exact h.makeStray ((rec_of_sc hv _ _).trans hrec) hb

/-- The bindings after a slot is defined: a holder under the serial kept stays, another becomes a stray before R115 is worked. -/
theorem workBinding_eq (slot : Nat) (before : Option Serial) (serial : Serial) (s : State) : workBinding slot before serial s =
    if (s.holder slot).isSome = true ∧ before = some serial then recomputeSlot slot s else bindSlot slot serial (strayHolder slot s) := by
  unfold workBinding strayHolder
  cases s.holder slot with
  | none => rw [if_neg (fun h => Bool.false_ne_true h.1)]
  | some h =>
    by_cases hb : before = some serial
    · rw [if_pos ⟨rfl, hb⟩]
      exact if_pos hb
    · rw [if_neg (fun hn => hb hn.2)]
      exact if_neg hb

theorem head_any_of_places {l l' : List Place} (h : l.map (fun q => (q.seg, q.address)) = l'.map (fun q => (q.seg, q.address)))
    (ix : SegIx) (a : Nat) :
    l.head?.any (fun q => q.seg = ix && q.address = a) = l'.head?.any (fun q => q.seg = ix && q.address = a) := by
  have hread (l : List Place) : l.head?.any (fun q => q.seg = ix && q.address = a)
      = (l.map (fun q => (q.seg, q.address))).head?.any (fun e => e.1 = ix && e.2 = a) := by
    cases l <;> rfl
  rw [hread, hread, h]

/-- Settles O25: the checks in order, the slot stored or undefined, and the bindings worked (R110–R113, R115). -/
theorem panelSlotsAreDefinedAndRemoved : Obligations.PanelSlotsAreDefinedAndRemoved := by
  refine ⟨fun s tag rev p => ?_, fun s tag rev slot => ?_⟩
  · intro r c n first window ranged present held hs
    have hheld : s.ps.panels.any (fun e => e.1 ≠ n && e.2.serial = p.serial) = true ↔ held := by
      simp only [held, List.any_eq_true, Bool.and_eq_true, decide_eq_true_eq]
    refine ⟨fun h => refuses_of_serves tag hs ?_, fun h hp => refuses_of_serves tag hs ?_, fun h hp hh => refuses_of_serves tag hs ?_,
      fun h hp hh hgood => ?_⟩
    · by_cases hrole : PanelRanged p
      · have hslot : 384 ≤ n := Nat.not_lt.1 (fun hn => h ⟨hn, hrole⟩)
        exact (definePanel_ranged hrole s).trans (if_pos hslot)
      · simp only [owner, r, definePanel, roleOf_unranged hrole]
        rfl
    · refine (definePanel_ranged h.2 s).trans ((if_neg (Nat.not_le.2 h.1)).trans (if_pos ?_))
      simpa [present] using hp
    · refine (definePanel_ranged h.2 s).trans ((if_neg (Nat.not_le.2 h.1)).trans ((if_neg (not_isNone hp)).trans (if_pos ?_)))
      exact hheld.2 hh
    · intro same bound carriers role slot base
      let v : State := setPages n (namedRole p) { s with ps := { s.ps with panels := Table.put s.ps.panels n slot } }
      have hv : v.sc = s.sc := setPages_sc n (namedRole p) _
      have hpages : Follows { s with ps := { s.ps with panels := Table.put s.ps.panels n slot } } v := setPages_follows n (namedRole p) _
      have hstarts : StartsAtPage n (namedRole p) v :=
        StartsAtPage.setPages n (namedRole p) _ ⟨slot, Table.get_put_same _ _ _, rfl⟩
      have howner : owner r s = .ok (workBinding n ((Table.get s.ps.panels n).map (·.serial)) p.serial v, []) := (definePanel_ranged h.2 s).trans ((if_neg (Nat.not_le.2 h.1)).trans ((if_neg (not_isNone hp)).trans
        (if_neg (fun hn => hh (hheld.1 hn)))))
      have hps : (workBinding n ((Table.get s.ps.panels n).map (·.serial)) p.serial v).ps.revision = s.ps.revision := by
        rw [workBinding_ps, hpages.ps]
      have hexec := exec_edit hs.1 tag (commonRefusal_of_serves hs) (rev := rev) rfl howner hps
      refine ⟨_, hexec, ?_⟩
      rw [workBinding_eq, holder_of_sc hv]
      by_cases hkeeps : bound ∧ same
      · rw [if_pos hkeeps]
        have hwork : Follows v (recomputeSlot n v) := recomputeSlot_follows n v
        have hbase : base = commitEdit { s with ps := { s.ps with panels := Table.put s.ps.panels n slot } } := by
          simp only [base, if_neg (fun hn : bound ∧ ¬ same => hn.2 hkeeps.2)]
        have hpage : Table.get (recomputeSlot n v).fr.pages n = if p.role = 1 then none else some 0 :=
          hstarts.recomputeSlot.2.trans (firstPage_named p)
        refine ⟨?_, fun ix a x y hx hy => ?_, fun _ hsame => absurd hkeeps.2 hsame, fun hno => absurd hkeeps hno, hpage⟩
        · rw [hbase]
          exact (((hpages.trans hwork).through seesKept_unbound).commitEdit).inService tag _ _
        · rw [if_neg (fun hn => hn.1 hkeeps), if_neg (fun hn => hn.2.1 hkeeps.2)]
          have hget : (recomputeSlot n v).bindingAt ix a = some y.binding := congrArg (Option.map Rec.binding) hy
          rw [hwork.bindingAt, State.bindingAt, rec_of_sc hv, hx] at hget
          exact (Option.some.inj hget).symm
      · rw [if_neg hkeeps]
        obtain ⟨hthrough, hbinding, hstray⟩ := strayHolder_strays hgood hv n
        have hlost : (bound ∧ ¬ same) ↔ bound := ⟨And.left, fun hb => ⟨hb, fun hsame => hkeeps ⟨hb, hsame⟩⟩⟩
        have hbase : FollowsThrough Rec.unbound { s with
            ps := { s.ps with panels := Table.put s.ps.panels n slot }
            nu := { s.nu with pins := if bound ∧ ¬ same then Table.del s.nu.pins n else s.nu.pins } } (strayHolder n v) := by
          rw [hpages.nu] at hthrough
          rw [if_congr hlost rfl rfl]
          exact ((setPages_follows_with n (namedRole p) _ _).through seesKept_unbound).trans hthrough
        have hcarriers : ((strayHolder n v).carriers p.serial).map (fun q => (q.seg, q.address))
            = carriers.map (fun q => (q.seg, q.address)) := carriers_places hbase p.serial
        have hbind := bindSlot_through n p.serial (strayHolder n v)
        have hpage : Table.get (bindSlot n p.serial (strayHolder n v)).fr.pages n = if p.role = 1 then none else some 0 :=
          ((strayHolder_starts hgood hv hstarts).bindSlot p.serial).2.trans (firstPage_named p)
        have hflag (hb : bound) : flagSet (bindSlot n p.serial (strayHolder n v)) .stray = true :=
          flagSet_of_grow hbind.grow (hstray hb)
        have htwo (h2 : 2 ≤ carriers.length) : flagSet (bindSlot n p.serial (strayHolder n v)) .panel = true := by
          refine bindSlot_panel ?_
          have hlength := congrArg List.length hcarriers
          rw [List.length_map, List.length_map] at hlength
          exact hlength.symm ▸ h2
        have hbindings := bindSlot_bindingAt n p.serial (strayHolder n v)
        have hafter := hbase.trans hbind
        generalize bindSlot n p.serial (strayHolder n v) = w at hbind hpage hflag htwo hbindings hafter
        refine ⟨hafter.commitEdit.inService tag _ _, fun ix a x y hx hy => ?_, fun hb _ => hflag hb, fun _ => htwo, hpage⟩
        have hget : w.bindingAt ix a = some y.binding := congrArg (Option.map Rec.binding) hy
        have hheld : x.binding = some n → bound := fun hb => by
          by_contra hno
          exact binding_ne_of_unheld (Option.not_isSome_iff_eq_none.1 hno) hx hb
        have hfalls : (bound ∧ ¬ same ∧ x.binding = some n) ↔ x.binding = some n :=
          ⟨fun hb => hb.2.2, fun hb => ⟨hheld hb, (hlost.2 (hheld hb)).2, hb⟩⟩
        rw [hbindings, hbinding ix a x hx, head_any_of_places hcarriers] at hget
        refine Eq.trans ?_ (if_congr (and_iff_right hkeeps).symm rfl (if_congr hfalls.symm rfl rfl))
        split at hget
        case isTrue hcarrier => exact (Option.some.inj hget).symm.trans (if_pos hcarrier).symm
        case isFalse hcarrier => exact (Option.some.inj hget).symm.trans (if_neg hcarrier).symm
  · intro r c n hs
    refine ⟨fun h => refuses_of_serves tag hs (if_pos h), fun h hp => refuses_of_serves tag hs ?_, fun h hp hgood => ?_⟩
    · refine (if_neg (Nat.not_le.2 h)).trans (if_pos ?_)
      rw [hp]
      rfl
    · intro bound base
      let v : State := { s with ps := { s.ps with panels := Table.del s.ps.panels n } }
      have howner : owner r s = .ok (discardPages n (strayHolder n v), []) :=
        (if_neg (Nat.not_le.2 h)).trans (if_neg (not_isNone hp))
      have hexec := exec_edit hs.1 tag (commonRefusal_of_serves hs) (rev := rev) rfl howner (strayHolder_ps n v ▸ rfl)
      obtain ⟨hthrough, hbinding, hstray⟩ := strayHolder_strays hgood (v := v) rfl n
      have hdiscard : Follows (strayHolder n v) (discardPages n (strayHolder n v)) := Follows.of_li rfl rfl rfl
      refine ⟨_, hexec, ?_, fun ix a x y hx hy => ?_, hstray, Table.get_del_same _ _⟩
      · exact ((hthrough.trans (hdiscard.through seesKept_unbound)).commitEdit).inService tag _ _
      · refine Option.some.inj (Eq.trans ?_ (hbinding ix a x hx))
        exact (congrArg (Option.map Rec.binding) hy).symm

end Sys2Proof.Machine
end

section
/-! PROOFS. The precedence of NOTICE, pin and role face, and the delivery of a changed face (spec: R70–R74, R148, R161, R165). -/

namespace Sys2Proof.Machine

/-! ## The winning notice -/

/-- In a rising table the entry at or below every other stands first. -/
theorem head_of_least {l : List (Nat × Notice)} (hl : l.Pairwise (fun x y => x.1 < y.1)) {e : Nat × Notice} (he : e ∈ l)
    (hleast : ∀ x, x ∈ l → e.1 ≤ x.1) : ∃ rest, l = e :: rest := by
  cases l with
  | nil => cases he
  | cons x rest =>
    obtain rfl | hin := List.mem_cons.1 he
    · exact ⟨rest, rfl⟩
    · have habove := (List.pairwise_cons.1 hl).1 e hin
      exact absurd (hleast x List.mem_cons_self) (Nat.not_le.2 habove)

/-- A notice that takes over the panels of a mask: above ADVISORY, in a zone of the mask (R74). -/
def Reaches (s : State) (zones : Half) (e : Nat × Notice) : Prop :=
  e ∈ s.nu.notices ∧ zones.getLsbD e.1 = true ∧ e.2.level ≠ .advisory

theorem mem_noticesAt {s : State} {zones : Half} {level : Level} {e : Nat × Notice} :
    e ∈ noticesAt s zones level ↔ e ∈ s.nu.notices ∧ zones.getLsbD e.1 = true ∧ e.2.level = level := by
  rw [noticesAt, List.mem_filter, Bool.and_eq_true, decide_eq_true_eq]
  rfl

/-- No notice above ADVISORY reaches the mask: none wins. -/
theorem winningNotice_none {s : State} {zones : Half} (h : ∀ e, ¬ Reaches s zones e) : winningNotice s zones = none := by
  have hempty (level : Level) (hlevel : level ≠ .advisory) : noticesAt s zones level = [] :=
    List.eq_nil_iff_forall_not_mem.2 (fun e he => by
      obtain ⟨hin, hzone, heq⟩ := mem_noticesAt.1 he
      exact h e ⟨hin, hzone, heq ▸ hlevel⟩)
  unfold winningNotice
  rw [hempty .evacuate (by decide), hempty .urgent (by decide)]
  rfl

/-- The notice of the highest level that reaches the mask, in the lowest zone, wins (R74). -/
theorem winningNotice_least {s : State} {zones : Half} (hs : Table.rising s.nu.notices = true) {e : Nat × Notice} (he : Reaches s zones e)
    (hleast : ∀ x, Reaches s zones x → x.2.level.code.toNat < e.2.level.code.toNat ∨ (x.2.level = e.2.level ∧ e.1 ≤ x.1)) :
    winningNotice s zones = some e := by
  obtain ⟨hin, hzone, hlevel⟩ := he
  have hsorted (level : Level) : (noticesAt s zones level).Pairwise (fun x y => x.1 < y.1) :=
    ((Table.rising_iff _).1 hs).sublist List.filter_sublist
  have hfirst : ∃ rest, noticesAt s zones e.2.level = e :: rest := by
    refine head_of_least (hsorted _) (mem_noticesAt.2 ⟨hin, hzone, rfl⟩) (fun x hx => ?_)
    obtain ⟨hxin, hxzone, hxlevel⟩ := mem_noticesAt.1 hx
    obtain hlt | ⟨-, hle⟩ := hleast x ⟨hxin, hxzone, hxlevel ▸ hlevel⟩
    · exact absurd hlt (by rw [hxlevel]; exact Nat.lt_irrefl _)
    · exact hle
  obtain ⟨rest, hrest⟩ := hfirst
  unfold winningNotice
  cases hl : e.2.level with
  | advisory => exact absurd hl hlevel
  | evacuate =>
    rw [hl] at hrest
    rw [hrest]
  | urgent =>
    have hnone : noticesAt s zones .evacuate = [] := List.eq_nil_iff_forall_not_mem.2 (fun x hx => by
      obtain ⟨hxin, hxzone, hxlevel⟩ := mem_noticesAt.1 hx
      obtain hlt | ⟨heq, -⟩ := hleast x ⟨hxin, hxzone, by rw [hxlevel]; decide⟩
      · rw [hxlevel, hl] at hlt
        exact absurd hlt (by decide)
      · rw [hxlevel, hl] at heq
        cases heq)
    rw [hl] at hrest
    rw [hnone, hrest]
    rfl

/-! ## The face resolved -/

/-- What FR gives a bound slot, by the first of NOTICE, pin and role that applies (R73). -/
theorem resolveFace_notice {s : State} {slot : Nat} {p : PanelSlot} {role : RoleFace} {e : Nat × Notice}
    (h : winningNotice s p.zones = some e) : resolveFace s slot p role
      = ⟨(noticeFace s e).encode, fletcher16 (noticeFace s e).encode, .notice, .notice, role.face.encode, role.pages⟩ := by
  unfold resolveFace
  rw [h]

theorem resolveFace_pin {s : State} {slot : Nat} {p : PanelSlot} {role : RoleFace} {pin : Pin}
    (h : winningNotice s p.zones = none) (hp : Table.get s.nu.pins slot = some pin) :
    resolveFace s slot p role
      = ⟨pin.copy, pin.digest, Template.ofCode (pin.copy.headD 0), .pin, role.face.encode, role.pages⟩ := by
  unfold resolveFace
  rw [h, hp]

theorem resolveFace_role {s : State} {slot : Nat} {p : PanelSlot} {role : RoleFace}
    (h : winningNotice s p.zones = none) (hp : Table.get s.nu.pins slot = none) :
    resolveFace s slot p role
      = ⟨role.face.encode, fletcher16 role.face.encode, role.face.template, .role, role.face.encode, role.pages⟩ := by
  unfold resolveFace
  rw [h, hp]

theorem resolveFace_role_kept (s : State) (slot : Nat) (p : PanelSlot) (role : RoleFace) :
    (resolveFace s slot p role).role = role.face.encode := by
  unfold resolveFace
  split <;> rfl

/-! ## The delivery -/

/-- A new wanted face put in its record (R148). -/
def givenFace (digest : Half) (template : Template) (x : Rec) : Rec := { x with wantedDigest := digest, wantedTemplate := template }

section Delivery

variable {ix : SegIx} {a : Nat} {x : Rec} {s : State} (digest : Half) (template : Template)

/-- A wanted-face change of a record without a transfer: its need is evaluated (R148, R150). -/
theorem wantedFaceChange_evaluates (hx : s.rec? ix a = some x) (h : x.state ≠ .loading ∨ (s.seg ix).transfer = none) :
    wantedFaceChange ix a digest template s = evaluate ix a (s.putRec ix a (givenFace digest template x)) := by
  simp only [wantedFaceChange, hx, seg_putRec_same]
  split
  next v hstate hv => exact h.elim (fun hn => absurd hstate hn) (fun hn => by cases hn.symm.trans hv)
  next => rfl

/-- A wanted-face change of the record whose transfer is in flight (R161). -/
theorem wantedFaceChange_loading {v : Transfer} (hx : s.rec? ix a = some x) (h : x.state = .loading) (hv : (s.seg ix).transfer = some v) :
    wantedFaceChange ix a digest template s =
      if showing (s.seg ix) a then s.putRec ix a (givenFace digest template x)
      else if loadRuns (s.seg ix) a then
        (s.putRec ix a (givenFace digest template x)).setSeg ix (((s.putRec ix a (givenFace digest template x)).seg ix).abandon v)
      else leaveLoading ix a v (givenFace digest template x) (s.putRec ix a (givenFace digest template x)) := by
  simp only [wantedFaceChange, hx, h, seg_putRec_same, hv]
  simp only [givenFace, h]
  rfl

end Delivery

theorem leaveLoading_with_fr (ix : SegIx) (a : Nat) (v : Transfer) (x : Rec) (fr : Resolver) (s : State) :
    (leaveLoading ix a v x { s with fr }).sc = (leaveLoading ix a v x s).sc := by
  unfold leaveLoading
  simp only [State.missLimit, setSeg_ps]
  split
  · rfl
  · split <;> rfl

/-- FR's part plays no role in what a segment controller does with a face. -/
theorem wantedFaceChange_with_fr (ix : SegIx) (a : Nat) (digest : Half) (template : Template) (fr : Resolver) (s : State) :
    (wantedFaceChange ix a digest template { s with fr }).sc = (wantedFaceChange ix a digest template s).sc := by
  have hrec : ({ s with fr } : State).rec? ix a = s.rec? ix a := rec_of_sc rfl ix a
  cases hx : s.rec? ix a with
  | none => simp only [wantedFaceChange, hrec, hx]
  | some x =>
    by_cases h : x.state ≠ .loading ∨ (s.seg ix).transfer = none
    · rw [wantedFaceChange_evaluates digest template (hrec.trans hx) h, wantedFaceChange_evaluates digest template hx h]
      rfl
    · obtain ⟨hloading, hsome⟩ := not_or.1 h
      obtain ⟨v, hv⟩ := Option.ne_none_iff_exists'.1 hsome
      have hload : x.state = .loading := not_not.1 hloading
      rw [wantedFaceChange_loading digest template (s := { s with fr }) (hrec.trans hx) hload hv,
        wantedFaceChange_loading digest template hx hload hv]
      show (if showing (s.seg ix) a then _ else if loadRuns (s.seg ix) a then _ else _ : State).sc = _
      split
      · rfl
      · split
        · rfl
        · exact leaveLoading_with_fr ix a v _ fr (s.putRec ix a (givenFace digest template x))

/-- A bound slot recomputed delivers its face when the encoding differs from the one held (R72). -/
theorem recomputeSlot_sc {s : State} {slot : Nat} {p : PanelSlot} {h : Place} (hp : Table.get s.ps.panels slot = some p)
    (hh : s.holder slot = some h) :
    let f := resolveFace s slot p (roleFaceOf s p h.rec_.cls (s.pageIndex slot))
    (recomputeSlot slot s).sc = if (Table.get s.fr.faces slot).any (fun o => o.wanted = f.wanted) = true then s.sc
      else (wantedFaceChange h.seg h.address f.digest f.template s).sc := by
  simp only [recomputeSlot, hp, hh]
  split
  · rfl
  · exact wantedFaceChange_with_fr _ _ _ _ _ s

theorem showing_iff (g : Seg) (a : Nat) : showing g a = true ↔ ∃ kind d n, g.bus = some (.showFace a kind d n) := by
  unfold showing
  split
  next b kind digest duration hb =>
    simp only [hb, decide_eq_true_eq, Option.some.injEq, Exchange.showFace.injEq]
    exact ⟨fun h => ⟨kind, digest, duration, h.symm, rfl, rfl, rfl⟩, fun ⟨_, _, _, h, _⟩ => h.symm⟩
  next hno => exact iff_of_false Bool.false_ne_true (fun ⟨kind, d, n, hb⟩ => hno _ _ _ _ hb)

theorem loadRuns_iff (g : Seg) (a : Nat) : loadRuns g a = true ↔ ∃ i n data, g.bus = some (.load a i n data) := by
  unfold loadRuns
  split
  next b i n data hb =>
    simp only [hb, decide_eq_true_eq, Option.some.injEq, Exchange.load.injEq]
    exact ⟨fun h => ⟨i, n, data, h.symm, rfl, rfl, rfl⟩, fun ⟨_, _, _, h, _⟩ => h.symm⟩
  next hno => exact iff_of_false Bool.false_ne_true (fun ⟨i, n, data, hb⟩ => hno _ _ _ _ hb)

/-- A record leaves LOADING alike beside the state before its last change. -/
theorem LeavesLoading.of_putRec {ix : SegIx} {a : Nat} {v : Transfer} {x y : Rec} {s t : State} (h : LeavesLoading ix a v x (s.putRec ix a y) t) :
    LeavesLoading ix a v x s t := by
  obtain ⟨honly, hfr, htransfer, hpointer, hreserved, hsequence, hends⟩ := h
  rw [seg_putRec_same] at hpointer hreserved hsequence
  exact ⟨(OnlyRecord.putRec ix a y s).trans honly, hfr, htransfer, hpointer, hreserved, hsequence, hends⟩

/-- Settles O54: the face by the precedence of R73, its delivery (R72) and what that does at the record (R150, R161, R165). -/
theorem facesFollowPrecedence : Obligations.FacesFollowPrecedence := by
  refine ⟨fun s slot p h hs hp hh => ?_, fun s ix a x digest template hx => ?_, fun bytes => rfl, fun code c => rfl⟩
  · intro t reaches role
    have hc : s.holderClass slot = some h.rec_.cls := by rw [State.holderClass, hh]; rfl
    let f := resolveFace s slot p (roleFaceOf s p h.rec_.cls (s.pageIndex slot))
    have hstore : t.fr = (s.storeFace slot (roleFaceOf s p h.rec_.cls (s.pageIndex slot)) f).fr := recomputeSlot_fr_bound hp hc
    have hface : Table.get t.fr.faces slot = some f := by
      rw [hstore]
      exact Table.get_put_same _ _ _
    have hsc : t.sc = if (Table.get s.fr.faces slot).any (fun o => o.wanted = f.wanted) = true then s.sc
        else (wantedFaceChange h.seg h.address f.digest f.template s).sc := recomputeSlot_sc hp hh
    refine ⟨recomputeSlot_follows slot s, fun m hm => (recomputeSlot_fr_other s hm).1, fun old g hold hg => ?_, fun g hold hg => ?_,
      f, hface, resolveFace_role_kept _ _ _ _, fun e he hleast => ?_, fun pin hno hpin => ?_, fun hno hpin => ?_⟩
    · cases hface.symm.trans hg
      rw [hsc, hold]
      exact ⟨fun hsame => if_pos (decide_eq_true hsame), fun hdiffers => if_neg (fun hn => hdiffers (of_decide_eq_true hn))⟩
    · cases hface.symm.trans hg
      rw [hsc, hold]
      exact if_neg Bool.false_ne_true
    · have hf : f = _ := resolveFace_notice (winningNotice_least hs.2.2.2.2.1 he hleast)
      rw [hf]
      refine ⟨rfl, rfl, rfl, ?_⟩
      simp only [noticeFace, Face.encode, List.flatMap_cons, List.flatMap_nil, List.append_nil]
      rfl
    · have hf : f = _ := resolveFace_pin (winningNotice_none hno) hpin
      rw [hf]
      exact ⟨rfl, rfl, rfl⟩
    · have hf : f = _ := resolveFace_role (winningNotice_none hno) hpin
      rw [hf]
      exact ⟨rfl, rfl, rfl, rfl⟩
  · intro y u put
    have hput : put.rec? ix a = some y := rec_putRec_same s ix a y
    refine ⟨wantedFaceChange_only ix a digest template s, wantedFaceChange_fr ix a digest template s, fun hidle => ?_, fun hstill => ?_,
      fun v hload hv => ?_⟩
    · have hu : u = evaluate ix a put := wantedFaceChange_evaluates digest template hx (.inl (hidle.elim (· ▸ nofun) (· ▸ nofun)))
      rw [hu]
      have hjudged := evaluate_judges ix a hput hidle
      have hflights := evaluate_flights ix a put
      unfold NeedJudged at hjudged ⊢
      unfold FlightsKept at hflights ⊢
      rw [seg_putRec_same] at hjudged hflights
      exact ⟨hjudged, hflights⟩
    · have hu : u = evaluate ix a put := wantedFaceChange_evaluates digest template hx
        (.inl (hstill.elim (· ▸ nofun) (fun ⟨f, hf⟩ => hf ▸ nofun)))
      rw [hu, evaluate, Seg.evaluate_flying _ hput, setSeg_seg]
      · exact hstill.elim (· ▸ nofun) (fun ⟨f, hf⟩ => hf ▸ nofun)
      · exact hstill.elim (· ▸ nofun) (fun ⟨f, hf⟩ => hf ▸ nofun)
    · intro bus
      have hu : u = _ := wantedFaceChange_loading digest template hx hload hv
      rw [hu]
      refine ⟨fun hshow => if_pos ((showing_iff _ _).2 hshow), fun hruns => ?_, fun hshow hruns => ?_⟩
      · obtain ⟨i, n, data, hb⟩ := hruns
        have hnot : ¬ showing (s.seg ix) a = true := fun hn => by
          obtain ⟨kind, d, m, hb'⟩ := (showing_iff _ _).1 hn
          cases hb.symm.trans hb'
        exact (if_neg hnot).trans (if_pos ((loadRuns_iff _ _).2 ⟨i, n, data, hb⟩))
      · rw [if_neg (fun hn => by obtain ⟨kind, d, n, hb⟩ := (showing_iff _ _).1 hn; exact hshow kind d n hb),
          if_neg (fun hn => by obtain ⟨i, n, data, hb⟩ := (loadRuns_iff _ _).1 hn; exact hruns i n data hb)]
        exact (leaveLoading_leaves ix a v y put).of_putRec

end Sys2Proof.Machine
end

section
/-! PROOFS. A plan written as an image is read back as that plan (spec: R192–R194, spec 12). -/

namespace Sys2Proof.Machine

/-! ## Entries -/

theorem toNat_byte {n : Nat} (h : n < 256) : (byte n).toNat = n := by
  rw [byte, BitVec.toNat_ofNat]
  exact Nat.mod_eq_of_lt h

theorem readEntries_written {α : Type} {one : List Byte → Option (α × List Byte)} {write : α → List Byte} {l : List α}
    (h : ∀ x, x ∈ l → ∀ rest, one (write x ++ rest) = some (x, rest)) : readEntries one l.length (l.flatMap write) = some l := by
  induction l with
  | nil => rfl
  | cons x l ih =>
    rw [List.flatMap_cons, List.length_cons, readEntries, h x List.mem_cons_self]
    simp only
    rw [ih (fun y hy => h y (List.mem_cons_of_mem x hy))]
    rfl

theorem readCounted_written {α : Type} {one : List Byte → Option (α × List Byte)} {write : α → List Byte} {l : List α}
    (hlength : l.length < 256) (h : ∀ x, x ∈ l → ∀ rest, one (write x ++ rest) = some (x, rest)) :
    readCounted one (byte l.length :: l.flatMap write) = some l := by
  rw [readCounted, toNat_byte hlength]
  exact readEntries_written h

/-- An entry of the section block. -/
def sectionBytes (e : Nat × ImageSection) : List Byte := byte e.1 :: (e.2.name.bytes ++ codeBytes e.2.code)

theorem sectionEntry_written {e : Nat × ImageSection} (h : e.1 < 256) (rest : List Byte) :
    sectionEntry (sectionBytes e ++ rest) = some (e, rest) := by
  show some (((byte e.1).toNat, ImageSection.mk ⟨e.2.name.page, e.2.name.offset, e.2.name.length⟩ (code4 _ _ _ _)), rest) = _
  rw [toNat_byte h, code4_codeBytes]

/-- An entry of the wall block. -/
def wallBytes (e : Nat × (Nat × Nat)) : List Byte := [byte e.1, byte e.2.1, byte e.2.2]

theorem wallEntry_written {e : Nat × (Nat × Nat)} (h : e.1 < 256) (ha : e.2.1 < 256) (hb : e.2.2 < 256) (rest : List Byte) :
    wallEntry (wallBytes e ++ rest) = some (e, rest) := by
  show some (((byte e.1).toNat, ((byte e.2.1).toNat, (byte e.2.2).toNat)), rest) = _
  rw [toNat_byte h, toNat_byte ha, toNat_byte hb]

/-- An entry of the combination block. -/
def comboBytes (e : Nat × Combo) : List Byte := byte e.1 :: (e.2.name.bytes ++ (byte e.2.set.length :: e.2.set.map byte))

theorem map_toNat_byte {l : List Nat} (h : ∀ i, i ∈ l → i < 256) : (l.map byte).map (·.toNat) = l := by
  rw [List.map_map]
  exact (List.map_congr_left (fun i hi => toNat_byte (h i hi))).trans (List.map_id l)

theorem comboEntry_written {e : Nat × Combo} (h : e.1 < 256) (hlength : e.2.set.length < 256) (hset : ∀ i, i ∈ e.2.set → i < 256)
    (rest : List Byte) : comboEntry (comboBytes e ++ rest) = some (e, rest) := by
  have hmap : (e.2.set.map byte).length = e.2.set.length := List.length_map _
  show (if (byte e.2.set.length).toNat ≤ (e.2.set.map byte ++ rest).length then _ else _) = _
  rw [toNat_byte hlength, if_pos (by rw [List.length_append, hmap]; omega)]
  simp only [toNat_byte h, List.append_eq]
  rw [← hmap, List.take_left, List.drop_left, map_toNat_byte hset]

/-- An entry of the panel block. -/
def panelBytes (e : Nat × PanelSlot) : List Byte := two e.1 ++ serialBytes e.2.serial ++ roleBytes e.2.role ++ halfBytes e.2.zones

/-- A role whose numbers are bytes. -/
def RoleFits : Role → Prop
  | .door sec => sec < 256
  | .directory first count _ => first < 256 ∧ count < 256

theorem panelEntry_written {e : Nat × PanelSlot} (h : e.1 < 65536) (hrole : RoleFits e.2.role) (rest : List Byte) :
    panelEntry (panelBytes e ++ rest) = some (e, rest) := by
  obtain ⟨n, serial, role, zones⟩ := e
  have hn : num2 (BitVec.ofNat 8 (n / 256)) (BitVec.ofNat 8 n) = n := half_two n h
  cases role with
  | door sec =>
    have hsec : sec < 256 := hrole
    show some ((num2 _ _, PanelSlot.mk (serial6 _ _ _ _ _ _) (.door (byte sec).toNat) (half _ _)), rest) = _
    rw [hn, serial6_serialBytes, half_halfBytes, toNat_byte hsec]
  | directory first count heading =>
    obtain ⟨hfirst, hcount⟩ : first < 256 ∧ count < 256 := hrole
    show some ((num2 _ _, PanelSlot.mk (serial6 _ _ _ _ _ _) (.directory (byte first).toNat (byte count).toNat
      ⟨heading.page, heading.offset, heading.length⟩) (half _ _)), rest) = _
    rw [hn, serial6_serialBytes, half_halfBytes, toNat_byte hfirst, toNat_byte hcount]

/-! ## Options -/

theorem value_bounds {o : Options} (h : OptionsGood o) {n : Nat} (hn : n < 15) : -32768 ≤ o.value n ∧ o.value n ≤ 32767 := by
  have hrange : appliedValue n (o.value n) = o.value n := of_decide_eq_true (h n hn)
  generalize o.value n = v at hrange
  have hclamp : (n = 6 ∧ v = -1) ∨ clampTo (optionRange n) v = v := by
    by_cases hoff : n = 6 ∧ v = -1
    · exact .inl hoff
    · exact .inr ((if_neg hoff).symm.trans hrange)
  have hends : -32768 ≤ (optionRange n).1 ∧ (optionRange n).2 ≤ 32767 ∧ (optionRange n).1 ≤ (optionRange n).2 := by
    interval_cases n <;> decide
  rcases hclamp with ⟨-, rfl⟩ | hclamp
  · decide
  · rw [clampTo_eq hends.2.2] at hclamp
    omega

theorem half_signedTwo {v : Int} (h : -32768 ≤ v ∧ v ≤ 32767) : ∀ a b, signedTwo v = [a, b] → (half a b).toInt = v := by
  intro a b hab
  cases hab
  rw [half_halfBytes, BitVec.toInt_ofInt]
  exact Int.bmod_eq_of_le (by omega) (by omega)

/-- Options put one after another from a number on. -/
def putFrom (o : Options) : Nat → Nat → Options → Options
  | 0, _, acc => acc
  | k + 1, n, acc => putFrom o k (n + 1) (acc.put n (o.value n))

theorem readOptionValues_written {o : Options} (h : OptionsGood o) (rest : List Byte) (k n : Nat) (hn : n + k ≤ 15) (acc : Options) :
    readOptionValues k n ((List.range' n k).flatMap (fun i => signedTwo (o.value i)) ++ rest) acc = some (putFrom o k n acc, rest) := by
  induction k generalizing n acc with
  | zero => rfl
  | succ k ih =>
    have hv := half_signedTwo (value_bounds h (n := n) (by omega)) _ _ rfl
    rw [List.range'_succ, List.flatMap_cons, List.append_assoc]
    show (if optionInRange n (half _ _).toInt = true then readOptionValues k (n + 1) _ (acc.put n (half _ _).toInt) else none) = _
    rw [hv, if_pos (h n (by omega)), List.append_eq, List.nil_append, ih (n + 1) (by omega)]
    rfl

theorem putFrom_all (o : Options) : putFrom o 15 0 Options.default = { o with privateText := Options.default.privateText } := by
  obtain ⟨settle, travel, doorLead, nextWindow, horizon, carousel, quiet, budget0, budget1, budget2, budget3, refreshFloor, missLimit,
    holdTimeout, passLimit, privateText⟩ := o
  cases quiet <;> rfl

theorem readOptions_written {o : Options} (h : OptionsGood o) (hpage : o.privateText.page.toNat < 48) :
    readOptions (optionBytes o) = some o := by
  have hvalues : readOptionValues 15 0 (optionBytes o) Options.default
      = some ({ o with privateText := Options.default.privateText }, o.privateText.bytes) := by
    rw [optionBytes, List.range_eq_range', readOptionValues_written h _ 15 0 (Nat.le_refl _), putFrom_all]
  unfold readOptions
  rw [hvalues]
  exact if_neg (fun hbad => Nat.not_le.2 hpage (of_decide_eq_true hbad))

/-! ## Tables -/

theorem put_last {α : Type} {t : Table α} {n : Nat} (h : ∀ e, e ∈ t → e.1 < n) (x : α) : Table.put t n x = t ++ [(n, x)] := by
  induction t with
  | nil => rfl
  | cons e t ih =>
    obtain ⟨k, v⟩ := e
    have hk : k < n := h (k, v) List.mem_cons_self
    rw [Table.put, if_neg (Nat.ne_of_gt hk), if_neg (fun hn => Nat.lt_asymm hk hn.1),
      ih (fun e he => h e (List.mem_cons_of_mem _ he))]
    rfl

theorem foldl_put_rising {α : Type} (l t : Table α) (h : (t ++ l).Pairwise (fun x y => x.1 < y.1)) :
    l.foldl (fun t e => Table.put t e.1 e.2) t = t ++ l := by
  induction l generalizing t with
  | nil => exact (List.append_nil t).symm
  | cons e l ih =>
    have hlast : Table.put t e.1 e.2 = t ++ [e] :=
      put_last (fun x hx => (List.pairwise_append.1 h).2.2 x hx e List.mem_cons_self) e.2
    rw [List.foldl_cons, hlast, ih, List.append_assoc]
    · rfl
    · rwa [List.append_assoc]

/-- A rising list of entries is the table it makes. -/
theorem toTable_rising {α : Type} {t : Table α} (h : Table.rising t = true) : toTable t = t :=
  foldl_put_rising t [] ((Table.rising_iff t).1 h)

theorem sortNat_of_rising {l : List Nat} (h : l.Pairwise (· < ·)) : sortNat l = l := by
  rw [sortNat_eq]
  exact (h.imp Nat.le_of_lt).insertionSort_eq

theorem keys_nodup {α : Type} {t : Table α} (h : Table.rising t = true) : (t.map Prod.fst).Nodup :=
  List.pairwise_map.2 (((Table.rising_iff t).1 h).imp Nat.ne_of_lt)

theorem length_le_of_keys {α : Type} {t : Table α} (h : Table.rising t = true) {n : Nat} (hn : ∀ e, e ∈ t → e.1 < n) : t.length ≤ n := by
  have hsub : t.map Prod.fst ⊆ List.range n := fun k hk => by
    obtain ⟨e, he, rfl⟩ := List.mem_map.1 hk
    exact List.mem_range.2 (hn e he)
  have hle := ((keys_nodup h).subperm hsub).length_le
  rwa [List.length_map, List.length_range] at hle

theorem numbersGood_of_rising {α : Type} {t : Table α} (h : Table.rising t = true) {n : Nat} (hn : ∀ e, e ∈ t → e.1 < n) :
    numbersGood n (t.map Prod.fst) = true := by
  rw [numbersGood, (hasRepeat_iff _).2 (keys_nodup h), Bool.not_false, Bool.and_true, List.all_map, List.all_eq_true]
  exact fun e he => decide_eq_true (hn e he)

/-- Two entries of a rising table with one number are one entry. -/
theorem pairwise_of_rising {α : Type} {t : Table α} (h : Table.rising t = true) {R : Nat × α → Nat × α → Prop}
    (hR : ∀ e f, e ∈ t → f ∈ t → e.1 ≠ f.1 → R e f) : t.Pairwise R :=
  ((Table.rising_iff t).1 h).imp_of_mem (fun he hf hlt => hR _ _ he hf (Nat.ne_of_lt hlt))

/-! ## The content check -/

theorem setsDistinct_of_nodup {l : List (List Nat)} (h : l.Nodup) : setsDistinct l = true := by
  induction l with
  | nil => rfl
  | cons x l ih =>
    obtain ⟨hx, hl⟩ := List.nodup_cons.1 h
    rw [setsDistinct, ih hl, Bool.and_true, Bool.not_eq_true']
    simpa using hx

theorem serialsDistinct_of_nodup {l : List Serial} (h : l.Nodup) : serialsDistinct l = true := by
  induction l with
  | nil => rfl
  | cons x l ih =>
    obtain ⟨hx, hl⟩ := List.nodup_cons.1 h
    rw [serialsDistinct, ih hl, Bool.and_true, Bool.not_eq_true']
    simpa using hx

/-- Rising pairs, none twice, join different sections. -/
theorem pairsDistinct_of_nodup {l : List (Nat × Nat)} (h : l.Nodup) (hl : ∀ p, p ∈ l → p.1 < p.2) : pairsDistinct l = true := by
  induction l with
  | nil => rfl
  | cons p l ih =>
    obtain ⟨hp, hrest⟩ := List.nodup_cons.1 h
    have hpairs := ih hrest (fun q hq => hl q (List.mem_cons_of_mem p hq))
    rw [pairsDistinct, hpairs, Bool.and_true, List.all_eq_true]
    intro q hq
    have hpq : q ≠ p := fun heq => hp (heq ▸ hq)
    have hflip : q ≠ (p.2, p.1) := fun heq => by
      have hq' := hl q (List.mem_cons_of_mem p hq)
      have hp' := hl p List.mem_cons_self
      rw [heq] at hq'
      exact Nat.lt_asymm hq' hp'
    rw [decide_eq_true hpq, decide_eq_true hflip]
    rfl

theorem rising_mapVals {α β : Type} (f : α → β) (t : Table α) : Table.rising (Table.mapVals f t) = Table.rising t := by
  rw [Bool.eq_iff_iff, Table.rising_iff, Table.rising_iff]
  exact List.pairwise_map

theorem contains_key {α : Type} {t : Table α} {n : Nat} (h : (Table.get t n).isSome = true) : (t.map Prod.fst).contains n = true := by
  obtain ⟨x, hx⟩ := Option.isSome_iff_exists.1 h
  exact List.contains_iff_mem.2 (mem_keys_of_get hx)

theorem not_bad {r : TextRef} (h : r.page.toNat < 48) : r.bad = false := decide_eq_false (Nat.not_le.2 h)

/-- The numbers of the sections of a saveable plan. -/
def presentIn (s : State) : List Nat := s.lu.sections.map Prod.fst

theorem present_eq (s : State) : (imageOf s).sections.map Prod.fst = presentIn s :=
  Table.keys_mapVals (fun x : Section => ImageSection.mk x.name x.code) s.lu.sections

namespace PlanSaveable

variable {s : State}

theorem section_lt (h : PlanSaveable s) {n : Nat} (hn : (Table.get s.lu.sections n).isSome = true) : n < 96 := by
  obtain ⟨x, hx⟩ := Option.isSome_iff_exists.1 hn
  exact (h.sections _ (mem_of_get hx)).1

theorem rising_sections (h : PlanSaveable s) : Table.rising (imageOf s).sections = true :=
  (rising_mapVals (fun x : Section => ImageSection.mk x.name x.code) s.lu.sections).trans h.rising.1

theorem rising_walls (h : PlanSaveable s) : Table.rising (imageOf s).walls = true :=
  (rising_mapVals (fun w : Wall => (w.a, w.b)) s.lu.walls).trans h.rising.2.1

theorem section_entry (h : PlanSaveable s) {e : Nat × ImageSection} (he : e ∈ (imageOf s).sections) :
    e.1 < 96 ∧ e.2.name.page.toNat < 48 := by
  obtain ⟨x, hx, rfl⟩ := List.mem_map.1 he
  exact h.sections x hx

theorem wall_entry (h : PlanSaveable s) {e : Nat × (Nat × Nat)} (he : e ∈ (imageOf s).walls) : e.1 < 48 ∧ e.2.1 < e.2.2
    ∧ (Table.get s.lu.sections e.2.1).isSome = true ∧ (Table.get s.lu.sections e.2.2).isSome = true := by
  obtain ⟨x, hx, rfl⟩ := List.mem_map.1 he
  exact h.walls.1 x hx

theorem sectionsGood (h : PlanSaveable s) : sectionsGood (imageOf s).sections = true := by
  rw [Machine.sectionsGood, Bool.and_eq_true, List.all_eq_true]
  exact ⟨numbersGood_of_rising h.rising_sections (fun e he => (h.section_entry he).1), fun e he => by
    rw [not_bad (h.section_entry he).2]
    rfl⟩

theorem wallsGood (h : PlanSaveable s) : wallsGood (presentIn s) (imageOf s).walls = true := by
  have hdistinct : ((imageOf s).walls.map Prod.snd).Nodup := by
    have hpairs : (imageOf s).walls.map Prod.snd = s.lu.walls.map (fun e => (e.2.a, e.2.b)) := List.map_map
    rw [hpairs]
    refine List.pairwise_map.2 (pairwise_of_rising h.rising.2.1 (fun e f he hf hne heq => hne ?_))
    obtain ⟨ha, hb⟩ := Prod.mk.inj heq
    exact h.walls.2 e f he hf ha hb
  rw [Machine.wallsGood, Bool.and_eq_true, Bool.and_eq_true, List.all_eq_true]
  refine ⟨⟨numbersGood_of_rising h.rising_walls (fun e he => (h.wall_entry he).1), fun e he => ?_⟩, pairsDistinct_of_nodup hdistinct (fun p hp => ?_)⟩
  · obtain ⟨-, hlt, ha, hb⟩ := h.wall_entry he
    rw [presentIn, contains_key ha, contains_key hb, decide_eq_true (Nat.ne_of_lt hlt)]
    rfl
  · obtain ⟨e, he, rfl⟩ := List.mem_map.1 hp
    exact (h.wall_entry he).2.1

theorem combosGood (h : PlanSaveable s) : combosGood (presentIn s) (imageOf s).combos = true := by
  have hsets : (imageOf s).combos.map (fun e => sortNat e.2.set) = s.lu.combos.map (fun e => e.2.set) :=
    List.map_congr_left (fun e he => sortNat_of_rising (h.combos.1 e he).2.2.2.2.1)
  have hdistinct : (s.lu.combos.map (fun e => e.2.set)).Nodup :=
    List.pairwise_map.2 (pairwise_of_rising h.rising.2.2.1 (fun e f he hf hne heq => hne (h.combos.2 e f he hf heq)))
  rw [Machine.combosGood, hsets, Bool.and_eq_true, Bool.and_eq_true, List.all_eq_true]
  refine ⟨⟨numbersGood_of_rising h.rising.2.2.1 (fun e he => (h.combos.1 e he).1), fun e he => ?_⟩, setsDistinct_of_nodup hdistinct⟩
  obtain ⟨-, hpage, htwo, htwelve, hsorted, hpresent⟩ := h.combos.1 e he
  have hnodup : hasRepeat e.2.set = false := (hasRepeat_iff _).2 (hsorted.imp Nat.ne_of_lt)
  have hall : e.2.set.all (presentIn s).contains = true := List.all_eq_true.2 (fun i hi => contains_key (hpresent i hi))
  rw [decide_eq_true htwo, decide_eq_true htwelve, hnodup, hall, not_bad hpage]
  rfl

theorem panelsGood (h : PlanSaveable s) : panelsGood (presentIn s) (imageOf s).panels = true := by
  have hdistinct : (s.ps.panels.map (fun e => e.2.serial)).Nodup :=
    List.pairwise_map.2 (pairwise_of_rising h.rising.2.2.2 (fun e f he hf hne heq => hne (h.panels.2 e f he hf heq)))
  rw [Machine.panelsGood, Bool.and_eq_true, Bool.and_eq_true, List.all_eq_true]
  refine ⟨⟨numbersGood_of_rising h.rising.2.2.2 (fun e he => (h.panels.1 e he).1), fun e he => ?_⟩, serialsDistinct_of_nodup hdistinct⟩
  have hrole := (h.panels.1 e he).2
  unfold roleGood
  split
  next sec hr =>
    rw [hr] at hrole
    exact contains_key hrole
  next first count heading hr =>
    rw [hr] at hrole
    obtain ⟨hfirst, hcount, hlast, hpage⟩ := hrole
    rw [presentIn, contains_key hfirst, decide_eq_true hcount, decide_eq_true hlast, not_bad hpage]
    rfl

end PlanSaveable

/-! ## The six blocks -/

theorem length_flatMap_le {α : Type} {l : List α} {f : α → List Byte} {k : Nat} (h : ∀ x, x ∈ l → (f x).length ≤ k) :
    (l.flatMap f).length ≤ l.length * k := by
  induction l with
  | nil => exact Nat.zero_le _
  | cons x l ih =>
    rw [List.flatMap_cons, List.length_append, List.length_cons, Nat.succ_mul, Nat.add_comm]
    exact Nat.add_le_add (ih (fun y hy => h y (List.mem_cons_of_mem x hy))) (h x List.mem_cons_self)

def sectionBlock (i : Image) : List Byte := byte i.sections.length :: i.sections.flatMap sectionBytes
def wallBlock (i : Image) : List Byte := byte i.walls.length :: i.walls.flatMap wallBytes
def comboBlock (i : Image) : List Byte := byte i.combos.length :: i.combos.flatMap comboBytes
def panelBlock (i : Image) : List Byte := two i.panels.length ++ i.panels.flatMap panelBytes

theorem imageBody_eq (i : Image) : imageBody i = block (sectionBlock i) ++ block (wallBlock i) ++ block (comboBlock i)
    ++ block (panelBlock i) ++ block (optionBytes i.options) ++ block i.text := rfl

theorem length_block (bs : List Byte) : (block bs).length = 2 + bs.length := List.length_append

theorem length_optionBytes (o : Options) : (optionBytes o).length = 33 := rfl

theorem length_planText (m : TextMem) : (planText m).length = 4096 := by
  rw [planText, TextMem.readMany, List.length_map, List.length_range]
  decide

theorem length_text (s : State) : (imageOf s).text.length = 4096 := by
  simp only [imageOf, length_planText]

namespace PlanSaveable

variable {s : State}

theorem combo_section_lt (h : PlanSaveable s) {e : Nat × Combo} (he : e ∈ s.lu.combos) {i : Nat} (hi : i ∈ e.2.set) : i < 96 :=
  h.section_lt ((h.combos.1 e he).2.2.2.2.2 i hi)

theorem roleFits (h : PlanSaveable s) {e : Nat × PanelSlot} (he : e ∈ s.ps.panels) : RoleFits e.2.role := by
  have hrole := (h.panels.1 e he).2
  unfold RoleFits
  split
  next sec hr =>
    rw [hr] at hrole
    exact Nat.lt_of_lt_of_le (h.section_lt hrole) (by decide)
  next first count heading hr =>
    rw [hr] at hrole
    obtain ⟨hfirst, hcount, hlast, hpage⟩ := hrole
    omega

theorem length_sections (h : PlanSaveable s) : (imageOf s).sections.length ≤ 96 :=
  length_le_of_keys h.rising_sections (fun _ he => (h.section_entry he).1)

theorem length_walls (h : PlanSaveable s) : (imageOf s).walls.length ≤ 48 :=
  length_le_of_keys h.rising_walls (fun _ he => (h.wall_entry he).1)

theorem length_combos (h : PlanSaveable s) : (imageOf s).combos.length ≤ 32 :=
  length_le_of_keys h.rising.2.2.1 (fun e he => (h.combos.1 e he).1)

theorem length_panels (h : PlanSaveable s) : (imageOf s).panels.length ≤ 384 :=
  length_le_of_keys h.rising.2.2.2 (fun e he => (h.panels.1 e he).1)

theorem length_sectionBlock (h : PlanSaveable s) : (sectionBlock (imageOf s)).length ≤ 769 := by
  have hcount := h.length_sections
  have hentries := length_flatMap_le (l := (imageOf s).sections) (f := sectionBytes) (k := 8) (fun _ _ => Nat.le_refl 8)
  rw [sectionBlock, List.length_cons]
  omega

theorem length_wallBlock (h : PlanSaveable s) : (wallBlock (imageOf s)).length ≤ 145 := by
  have hcount := h.length_walls
  have hentries := length_flatMap_le (l := (imageOf s).walls) (f := wallBytes) (k := 3) (fun _ _ => Nat.le_refl 3)
  rw [wallBlock, List.length_cons]
  omega

theorem length_comboBlock (h : PlanSaveable s) : (comboBlock (imageOf s)).length ≤ 545 := by
  have hcount := h.length_combos
  have hentries := length_flatMap_le (l := (imageOf s).combos) (f := comboBytes) (k := 17) (fun e he => by
    have hset := (h.combos.1 e he).2.2.2.1
    have hlength : (comboBytes e).length = 5 + e.2.set.length := by
      simp only [comboBytes, TextRef.bytes, List.length_cons, List.length_append, List.length_nil, List.length_map]
      omega
    omega)
  rw [comboBlock, List.length_cons]
  omega

theorem length_panelBlock (h : PlanSaveable s) : (panelBlock (imageOf s)).length ≤ 6146 := by
  have hcount := h.length_panels
  have hentries := length_flatMap_le (l := (imageOf s).panels) (f := panelBytes) (k := 16) (fun e _ => by
    unfold panelBytes roleBytes
    split <;> exact Nat.le_refl 16)
  have htwo : (two (imageOf s).panels.length).length = 2 := rfl
  rw [panelBlock, List.length_append]
  omega

theorem readBlocks_written (h : PlanSaveable s) :
    readBlocks (sectionBlock (imageOf s)) (wallBlock (imageOf s)) (comboBlock (imageOf s)) (panelBlock (imageOf s))
      (optionBytes (imageOf s).options) (imageOf s).text = some (imageOf s) := by
  have hsections : readCounted sectionEntry (sectionBlock (imageOf s)) = some (imageOf s).sections :=
    readCounted_written (by have := h.length_sections; omega) (fun e he => sectionEntry_written (by have := h.section_entry he; omega))
  have hwalls : readCounted wallEntry (wallBlock (imageOf s)) = some (imageOf s).walls :=
    readCounted_written (by have := h.length_walls; omega) (fun e he => by
      obtain ⟨hn, -, ha, hb⟩ := h.wall_entry he
      exact wallEntry_written (by omega) (by have := h.section_lt ha; omega) (by have := h.section_lt hb; omega))
  have hcombos : readCounted comboEntry (comboBlock (imageOf s)) = some (imageOf s).combos :=
    readCounted_written (by have := h.length_combos; omega) (fun e he => by
      obtain ⟨hn, -, -, hset, -⟩ := h.combos.1 e he
      exact comboEntry_written (by omega) (by omega) (fun i hi => by have := h.combo_section_lt he hi; omega))
  have hpanels : readPanels (panelBlock (imageOf s)) = some (imageOf s).panels := by
    have hcount : num2 (BitVec.ofNat 8 ((imageOf s).panels.length / 256)) (BitVec.ofNat 8 (imageOf s).panels.length)
        = (imageOf s).panels.length := half_two _ (by have := h.length_panels; omega)
    show readEntries panelEntry (num2 _ _) ((imageOf s).panels.flatMap panelBytes) = _
    rw [hcount]
    exact readEntries_written (fun e he => panelEntry_written (by have := (h.panels.1 e he).1; omega) (h.roleFits he))
  have hoptions : readOptions (optionBytes (imageOf s).options) = some (imageOf s).options :=
    readOptions_written h.options.1 h.options.2
  have hpairs : (imageOf s).walls.map (fun e => (e.1, (min e.2.1 e.2.2, max e.2.1 e.2.2))) = (imageOf s).walls :=
    (List.map_congr_left (fun e he => by
      have hlt := (h.wall_entry he).2.1
      rw [min_eq_left hlt.le, max_eq_right hlt.le]
      rfl)).trans (List.map_id _)
  have hsets : (imageOf s).combos.map (fun e => (e.1, { e.2 with set := sortNat e.2.set })) = (imageOf s).combos :=
    (List.map_congr_left (fun e he => by
      rw [sortNat_of_rising (h.combos.1 e he).2.2.2.2.1]
      rfl)).trans (List.map_id _)
  have htext : decide ((imageOf s).text.length = Config.planPages * Config.pageBytes) = true :=
    decide_eq_true ((length_text s).trans (by decide))
  unfold readBlocks
  rw [hsections, hwalls, hcombos, hpanels, hoptions]
  simp only [present_eq, h.sectionsGood, h.wallsGood, h.combosGood, h.panelsGood, htext, Bool.and_self, if_true, hpairs, hsets]
  rw [toTable_rising h.rising_sections, toTable_rising h.rising_walls, toTable_rising (t := (imageOf s).combos) h.rising.2.2.1,
    toTable_rising (t := (imageOf s).panels) h.rising.2.2.2]

/-- A body written is read as the plan it was written of. -/
theorem readBody_written (h : PlanSaveable s) : readBody (imageBody (imageOf s)) = some (imageOf s) := by
  have hsix := sixBlocks_blocks (b1 := sectionBlock (imageOf s)) (b2 := wallBlock (imageOf s)) (b3 := comboBlock (imageOf s))
    (b4 := panelBlock (imageOf s)) (b5 := optionBytes (imageOf s).options) (b6 := (imageOf s).text)
    (by have := h.length_sectionBlock; omega) (by have := h.length_wallBlock; omega) (by have := h.length_comboBlock; omega)
    (by have := h.length_panelBlock; omega) (by rw [length_optionBytes]; decide) (by rw [length_text]; decide)
  unfold readBody
  rw [imageBody_eq, hsix]
  exact h.readBlocks_written

theorem length_imageBody (h : PlanSaveable s) : 1 ≤ (imageBody (imageOf s)).length ∧ (imageBody (imageOf s)).length ≤ 65520 := by
  have hsections := h.length_sectionBlock
  have hwalls := h.length_wallBlock
  have hcombos := h.length_comboBlock
  have hpanels := h.length_panelBlock
  simp only [imageBody_eq, List.length_append, length_block, length_optionBytes, length_text]
  omega

end PlanSaveable

end Sys2Proof.Machine
end

section
/-! PROOFS. The end of the load, taken by LU, TP, the segments and the option owners in any order (spec: R193–R195, R129). -/

namespace Sys2Proof.Machine

/-! ## What the receivers leave -/

/-- The part without what the receivers of a load's end may change: attention, sessions, spaces, faces, segments, orders. -/
def loadView (s : State) : State :=
  { s with li := s.li.kept, lu := { s.lu with spaces := [] }, sessions := [], fr := { faces := [], pages := [] }, sc := State.reset.sc, orders := [] }

theorem FollowsThrough.loadView {f : Rec → Rec} {s t : State} (h : FollowsThrough f s t) : loadView t = loadView s := by
  have := congrArg Machine.loadView h.kept
  exact this

theorem Follows.loadView {s t : State} (h : Follows s t) : loadView t = loadView s := by
  have := congrArg Machine.loadView h.kept
  exact this

/-- A segment without records stands as it was. -/
def EmptyStands (s t : State) : Prop := ∀ ix, (s.seg ix).recs = [] → t.seg ix = s.seg ix

namespace EmptyStands

variable {s t u : State}

theorem of_sc (h : t.sc = s.sc) : EmptyStands s t := fun ix _ => by
  unfold State.seg
  rw [h]

theorem trans (h : EmptyStands s t) (h' : EmptyStands t u) : EmptyStands s u := fun ix hrecs => by
  have hseg := h ix hrecs
  exact (h' ix (hseg ▸ hrecs)).trans hseg

theorem forEach {α : Type} (l : List α) (g : α → State → State) (hg : ∀ x ∈ l, ∀ s, EmptyStands s (g x s)) (s : State) :
    EmptyStands s (forEach l g s) :=
  forEach_keeps (EmptyStands s) l g (fun _ h => h.trans (of_sc rfl)) (fun x hx u h => h.trans (hg x hx u)) s (of_sc rfl)

/-- Work on a record that stands leaves the segments without records. -/
theorem of_only {ix : SegIx} {a : Nat} {x : Rec} (hx : s.rec? ix a = some x) (h : OnlyRecord ix a s t) : EmptyStands s t := fun jx hrecs => by
  refine h.others jx (fun hj => ?_)
  subst hj
  have hget : Table.get (s.seg jx).recs a = some x := hx
  rw [hrecs] at hget
  cases hget

end EmptyStands

theorem wantedFaceChange_empty (ix : SegIx) (a : Nat) (digest : Half) (template : Template) (s : State) :
    EmptyStands s (wantedFaceChange ix a digest template s) := by
  cases hx : s.rec? ix a with
  | none => exact EmptyStands.of_sc (by simp only [wantedFaceChange, hx])
  | some x => exact EmptyStands.of_only hx (wantedFaceChange_only ix a digest template s)

theorem recomputeSlot_empty (slot : Nat) (s : State) : EmptyStands s (recomputeSlot slot s) := by
  unfold recomputeSlot
  split
  · simp only
    split
    · exact EmptyStands.of_sc rfl
    · exact (EmptyStands.of_sc (t := s.storeFace _ _ _) rfl).trans (wantedFaceChange_empty _ _ _ _ _)
  · exact EmptyStands.of_sc rfl

theorem recomputeAll_empty (s : State) : EmptyStands s (recomputeAll s) :=
  EmptyStands.forEach _ _ (fun slot _ v => recomputeSlot_empty slot v) s

theorem reevaluateAll_empty (changed : Bool) (s : State) : EmptyStands s (reevaluateAll changed s) := by
  have hupdate : EmptyStands s (updateSessions s) := EmptyStands.of_sc (updateSessions_sc s)
  unfold reevaluateAll
  split
  · exact hupdate.trans (recomputeAll_empty _)
  · exact hupdate

theorem rederive_empty (s : State) : EmptyStands s (rederive s) := by
  unfold rederive
  simp only
  split
  · exact EmptyStands.of_sc rfl
  · refine (EmptyStands.of_sc (t := { s with lu := { s.lu with spaces := deriveSpaces s.lu } }) rfl).trans ?_
    refine EmptyStands.forEach _ _ (fun f hf v => ?_) _
    rcases mem_spaceReceivers.1 hf with rfl | rfl
    · exact reevaluateAll_empty false v
    · exact recomputeAll_empty v

/-! ## The refresh floor -/

/-- A panel record without its cold flag. -/
def Rec.unjudged (r : Rec) : Rec := { r.kept with cold := false }

theorem seesKept_unjudged : SeesKept Rec.unjudged := fun r => by
  unfold Rec.unjudged
  rw [seesKept_kept]

theorem judgeColdAt_records (ix : SegIx) (a : Nat) (s : State) : RecordWork Rec.unjudged s (judgeColdAt ix a s) := by
  cases hx : s.rec? ix a with
  | none =>
    rw [judgeColdAt_none hx]
    exact RecordWork.refl _ s
  | some x =>
    by_cases hsame : decide (x.temp < s.ps.options.refreshFloor) = x.cold
    · rw [judgeColdAt_same hx hsame]
      exact RecordWork.refl _ s
    · rw [judgeColdAt_changed hx hsame]
      have hput : RecordWork Rec.unjudged s (s.putRec ix a (x.floored s.ps.options.refreshFloor)) := RecordWork.putRec hx rfl rfl rfl
      have hraise := RecordWork.of_follows seesKept_unjudged (raiseIf_follows (newlyCold x (x.floored s.ps.options.refreshFloor)) .cold
        (s.putRec ix a (x.floored s.ps.options.refreshFloor))) (raiseIf_sessions _ _ _) (raiseIf_fr _ _ _)
      exact (hput.trans hraise).trans (evaluate_work seesKept_unjudged ix a _)

theorem judgeColdAt_empty (ix : SegIx) (a : Nat) (s : State) : EmptyStands s (judgeColdAt ix a s) := by
  cases hx : s.rec? ix a with
  | none => exact EmptyStands.of_sc (by rw [judgeColdAt_none hx])
  | some x => exact EmptyStands.of_only hx (judgeColdAt_only ix a s)

theorem judgeColdAll_records (s : State) : RecordWork Rec.unjudged s (judgeColdAll s) :=
  RecordWork.forEach seesKept_unjudged _ _ (fun ix _ v => RecordWork.forEach seesKept_unjudged _ _ (fun a _ u => judgeColdAt_records ix a u) v) s

theorem judgeColdAll_empty (s : State) : EmptyStands s (judgeColdAll s) :=
  EmptyStands.forEach _ _ (fun ix _ v => EmptyStands.forEach _ _ (fun a _ u => judgeColdAt_empty ix a u) v) s

/-! ## Option changes -/

/-- What the three deliveries of an option change keep, an option change keeps. -/
theorem optionChanged_keeps {P : State → Prop} (hsessions : ∀ v, P v → P (reevaluateSessions v)) (hfaces : ∀ v, P v → P (recomputeAll v))
    (hcold : ∀ v, P v → P (judgeColdAll v)) (n : Nat) (v : State) (h : P v) : P (optionChanged n v) := by
  unfold optionChanged
  split
  · exact hsessions v h
  · exact hfaces v h
  · exact hfaces v h
  · exact hcold v h
  · exact hfaces v h
  · exact h

theorem foldl_keeps {α : Type} {P : State → Prop} {f : State → α → State} {l : List α} (hf : ∀ x ∈ l, ∀ v, P v → P (f v x)) {v : State}
    (h : P v) : P (l.foldl f v) := by
  induction l generalizing v with
  | nil => exact h
  | cons x l ih =>
    exact ih (fun y hy => hf y (List.mem_cons_of_mem x hy)) (hf x List.mem_cons_self v h)

theorem foldl_establishes {α : Type} {P : State → Prop} {f : State → α → State} {l : List α} {x0 : α} (hmem : x0 ∈ l)
    (h0 : ∀ v, P (f v x0)) (hf : ∀ x ∈ l, ∀ v, P v → P (f v x)) (v : State) : P (l.foldl f v) := by
  obtain ⟨before, after, rfl⟩ := List.append_of_mem hmem
  rw [List.foldl_append, List.foldl_cons]
  exact foldl_keeps (fun x hx => hf x (List.mem_append_right _ (List.mem_cons_of_mem _ hx))) (h0 _)

/-- The numbers of the options that a load changed. -/
def changedOptions (before now : Options) : List Nat :=
  let changed := (List.range 15).filter (fun n => now.value n ≠ before.value n)
  if now.privateText = before.privateText then changed else changed ++ [15]

theorem optionChanges_eq (before : Options) (s : State) :
    optionChanges before s = (changedOptions before s.ps.options).foldl (fun s n => optionChanged n s) s := rfl

theorem optionChanges_keeps {P : State → Prop} (hsessions : ∀ v, P v → P (reevaluateSessions v)) (hfaces : ∀ v, P v → P (recomputeAll v))
    (hcold : ∀ v, P v → P (judgeColdAll v)) (before : Options) (v : State) (h : P v) : P (optionChanges before v) :=
  foldl_keeps (fun n _ u hu => optionChanged_keeps hsessions hfaces hcold n u hu) h

/-- A change of the door lead is among the changes. -/
theorem mem_changedOptions_lead {before now : Options} (h : now.doorLead ≠ before.doorLead) : 2 ∈ changedOptions before now := by
  have hin : 2 ∈ (List.range 15).filter (fun n => now.value n ≠ before.value n) :=
    List.mem_filter.2 ⟨by decide, decide_eq_true (fun heq => h (Int.ofNat_inj.1 heq))⟩
  unfold changedOptions
  simp only
  split
  · exact hin
  · exact List.mem_append_left _ hin

theorem judgeColdAll_current {v : State} (h : AllCurrent v) : AllCurrent (judgeColdAll v) := (judgeColdAll_records v).current h

/-- The option changes of a load leave every session current, if only the door lead has put them out. -/
theorem optionChanges_current {before : Options} {v : State} (h : v.ps.options.doorLead = before.doorLead → AllCurrent v) :
    AllCurrent (optionChanges before v) := by
  by_cases hlead : v.ps.options.doorLead = before.doorLead
  · exact optionChanges_keeps (fun u _ => reevaluateAll_current false u) (fun u hu => recomputeAll_current hu)
      (fun u hu => judgeColdAll_current hu) before v (h hlead)
  · rw [optionChanges_eq]
    exact foldl_establishes (mem_changedOptions_lead hlead) (fun u => reevaluateAll_current false u)
      (fun n _ u hu => optionChanged_keeps (fun u _ => reevaluateAll_current false u) (fun u hu => recomputeAll_current hu)
        (fun u hu => judgeColdAll_current hu) n u hu) v

/-! ## Roll call -/

/-- A segment after the end of the load: in STARTING, roll call's first IDENT runs (R129). -/
def Seg.rolled (g : Seg) : Seg := { g with bus := if g.mode = .starting then some (.rollIdent g.rollAddr) else g.bus }

theorem rolled_rolled (g : Seg) : g.rolled.rolled = g.rolled := by
  unfold Seg.rolled
  by_cases h : g.mode = .starting <;> simp [h]

theorem beginRollCall_eq (ix : SegIx) (s : State) : beginRollCall ix s = s.setSeg ix (s.seg ix).rolled := by
  have hstays (h : (s.seg ix).mode ≠ .starting) : s.setSeg ix (s.seg ix).rolled = s := by
    rw [Seg.rolled, if_neg h]
    exact setSeg_seg s ix
  unfold beginRollCall
  cases hm : (s.seg ix).mode with
  | starting =>
    rw [Seg.rolled, if_pos hm]
  | run => exact (hstays (hm ▸ nofun)).symm
  | draining => exact (hstays (hm ▸ nofun)).symm
  | keying => exact (hstays (hm ▸ nofun)).symm
  | searching => exact (hstays (hm ▸ nofun)).symm

/-- Roll call begun on every segment. -/
def beginRollCalls (s : State) : State := allSegs.foldl (fun s ix => beginRollCall ix s) s

theorem beginRollCalls_eq (s : State) :
    beginRollCalls s = { s with sc := ⟨s.sc.sc0.rolled, s.sc.sc1.rolled, s.sc.sc2.rolled, s.sc.sc3.rolled⟩ } := by
  simp only [beginRollCalls, allSegs, List.foldl_cons, List.foldl_nil, beginRollCall_eq]
  rfl

theorem seg_beginRollCalls (s : State) (ix : SegIx) : (beginRollCalls s).seg ix = (s.seg ix).rolled := by
  rw [beginRollCalls_eq]
  cases ix <;> rfl

theorem beginRollCalls_faces {s : State} (h : FacesNow s) : FacesNow (beginRollCalls s) := by
  have hbound : (beginRollCalls s).bound = s.bound := State.bound_congr (fun ix => by rw [seg_beginRollCalls]; rfl)
  refine h.congr ?_ ?_ ?_ hbound ?_ <;> rw [beginRollCalls_eq]
  rfl

theorem beginRollCalls_current {s : State} (h : AllCurrent s) : AllCurrent (beginRollCalls s) := by
  refine h.congr ?_ ?_ ?_ ?_ <;> rw [beginRollCalls_eq]

/-! ## The load's end -/

/-- The receivers of the end of the load (R195). -/
def loadReceivers (before : Options) : List (State → State) := [rederive, recomputeAll, beginRollCalls, optionChanges before]

theorem deliverLoadEnd_eq (before : Options) (s : State) : deliverLoadEnd before s = deliver (loadReceivers before) s := rfl

theorem mem_loadReceivers {before : Options} {f : State → State} : f ∈ loadReceivers before
    ↔ f = rederive ∨ f = recomputeAll ∨ f = beginRollCalls ∨ f = optionChanges before := by
  simp [loadReceivers]

/-- What every receiver of a load's end leaves: the view, and of a segment without records all but roll call's exchange. -/
structure LoadWork (s v : State) : Prop where
  view : loadView v = loadView s
  empty : ∀ ix, (s.seg ix).recs = [] → v.seg ix = s.seg ix ∨ v.seg ix = (s.seg ix).rolled

namespace LoadWork

variable {s v w : State}

theorem of_stands (h : LoadWork s v) (hview : loadView w = loadView v) (hempty : EmptyStands v w) : LoadWork s w := by
  refine ⟨hview.trans h.view, fun ix hrecs => ?_⟩
  have hnone : (v.seg ix).recs = [] := (h.empty ix hrecs).elim (fun heq => heq ▸ hrecs) (fun heq => heq ▸ hrecs)
  rw [hempty ix hnone]
  exact h.empty ix hrecs

theorem rollCalls (h : LoadWork s v) : LoadWork s (beginRollCalls v) := by
  refine ⟨Eq.trans ?_ h.view, fun ix hrecs => .inr ?_⟩
  · rw [beginRollCalls_eq]
    rfl
  · rw [seg_beginRollCalls]
    rcases h.empty ix hrecs with heq | heq
    · rw [heq]
    · rw [heq, rolled_rolled]

theorem reevaluateSessions (h : LoadWork s v) : LoadWork s (reevaluateSessions v) :=
  h.of_stands (reevaluateAll_follows false v).loadView (reevaluateAll_empty false v)

theorem recomputeAll (h : LoadWork s v) : LoadWork s (recomputeAll v) :=
  h.of_stands (recomputeAll_follows v).loadView (recomputeAll_empty v)

theorem judgeColdAll (h : LoadWork s v) : LoadWork s (judgeColdAll v) :=
  h.of_stands (judgeColdAll_records v).through.loadView (judgeColdAll_empty v)

/-- Every receiver of the load's end does its work within these bounds. -/
theorem receiver {before : Options} {f : State → State} (hf : f ∈ loadReceivers before) (h : LoadWork s v) : LoadWork s (f v) := by
  rcases mem_loadReceivers.1 hf with rfl | rfl | rfl | rfl
  · exact h.of_stands (rederive_follows v).loadView (rederive_empty v)
  · exact h.recomputeAll
  · exact h.rollCalls
  · exact optionChanges_keeps (fun _ hu => hu.reevaluateSessions) (fun _ hu => hu.recomputeAll) (fun _ hu => hu.judgeColdAll) before v h

theorem ps (h : LoadWork s v) : v.ps = s.ps := by
  have := congrArg State.ps h.view
  exact this

end LoadWork

/-- After the load's end every segment without records has begun roll call, whatever the order of the receivers. -/
theorem deliverLoadEnd_rolls (before : Options) (s : State) {ix : SegIx} (hrecs : (s.seg ix).recs = []) :
    (deliverLoadEnd before s).seg ix = (s.seg ix).rolled := by
  rw [deliverLoadEnd_eq]
  refine deliver_establishes (I := LoadWork s) (P := fun v => v.seg ix = (s.seg ix).rolled) (mem_loadReceivers.2 (.inr (.inr (.inl rfl))))
    (fun v h => h.of_stands rfl (EmptyStands.of_sc rfl)) (fun f hf v h => h.receiver hf) (fun v h => ?_) (fun f hf v h hv => ?_)
    ⟨rfl, fun _ _ => .inl rfl⟩
  · rw [seg_beginRollCalls]
    rcases h.empty ix hrecs with heq | heq
    · rw [heq]
    · rw [heq, rolled_rolled]
  · have hself : LoadWork v (f v) := LoadWork.receiver hf ⟨rfl, fun _ _ => .inl rfl⟩
    rcases hself.empty ix (hv ▸ hrecs) with heq | heq
    · rw [heq, hv]
    · rw [heq, hv, rolled_rolled]

theorem deliverLoadEnd_work (before : Options) (s : State) : LoadWork s (deliverLoadEnd before s) :=
  forEach_keeps (LoadWork s) _ _ (fun _ h => h.of_stands rfl (EmptyStands.of_sc rfl)) (fun _ hf _ h => h.receiver hf) s
    ⟨rfl, fun _ _ => .inl rfl⟩

/-- The space list is the derived one. -/
theorem deliverLoadEnd_spaces (before : Options) (s : State) :
    (deliverLoadEnd before s).lu.spaces = deriveSpaces (deliverLoadEnd before s).lu := by
  have hkeep {v w : State} (hlu : w.lu = v.lu) (h : v.lu.spaces = deriveSpaces v.lu) : w.lu.spaces = deriveSpaces w.lu := by
    rw [hlu]
    exact h
  have hderives (v : State) : (rederive v).lu.spaces = deriveSpaces (rederive v).lu := by
    rw [(rederive_follows v).lu]
    rfl
  rw [deliverLoadEnd_eq]
  refine deliver_establishes (I := fun _ => True) (P := fun v => v.lu.spaces = deriveSpaces v.lu) (mem_loadReceivers.2 (.inl rfl))
    (fun _ _ => trivial) (fun _ _ _ _ => trivial) (fun v _ => hderives v) (fun f hf v _ h => ?_) trivial
  rcases mem_loadReceivers.1 hf with rfl | rfl | rfl | rfl
  · exact hderives v
  · exact hkeep (recomputeAll_follows v).lu h
  · rw [beginRollCalls_eq]
    exact h
  · exact optionChanges_keeps (fun u hu => hkeep (reevaluateAll_follows false u).lu hu) (fun u hu => hkeep (recomputeAll_follows u).lu hu)
      (fun u hu => hkeep (judgeColdAll_records u).through.lu hu) before v h

/-- Every bound slot has its face. -/
theorem deliverLoadEnd_faces (before : Options) (s : State) : FacesNow (deliverLoadEnd before s) := by
  rw [deliverLoadEnd_eq]
  refine deliver_establishes (I := fun _ => True) (P := FacesNow) (mem_loadReceivers.2 (.inr (.inl rfl))) (fun _ _ => trivial)
    (fun _ _ _ _ => trivial) (fun v _ => recomputeAll_faces v) (fun f hf v _ h => ?_) trivial
  rcases mem_loadReceivers.1 hf with rfl | rfl | rfl | rfl
  · exact (rederive_taken v).faces (.inr h)
  · exact recomputeAll_faces v
  · exact beginRollCalls_faces h
  · exact optionChanges_keeps (fun _ hu => hu.reevaluateAll) (fun u _ => recomputeAll_faces u)
      (fun u hu => (judgeColdAll_records u).faces hu) before v h

/-- Every session is current, if it was so but for the door lead the load changed. -/
theorem deliverLoadEnd_current {before : Options} {s : State} (hs : s.ps.options.doorLead = before.doorLead → AllCurrent s) :
    AllCurrent (deliverLoadEnd before s) := by
  have hkeeps (f : State → State) (hf : f ∈ loadReceivers before) (v : State) (h : AllCurrent v) : AllCurrent (f v) := by
    rcases mem_loadReceivers.1 hf with rfl | rfl | rfl | rfl
    · exact (rederive_taken v).sessions (.inr h)
    · exact recomputeAll_current h
    · exact beginRollCalls_current h
    · exact optionChanges_current (fun _ => h)
  rw [deliverLoadEnd_eq]
  by_cases hlead : s.ps.options.doorLead = before.doorLead
  · exact forEach_keeps AllCurrent _ _ (fun v h => h.congr rfl rfl rfl rfl) hkeeps s (hs hlead)
  · refine deliver_establishes (I := LoadWork s) (P := AllCurrent) (mem_loadReceivers.2 (.inr (.inr (.inr rfl))))
      (fun v h => h.of_stands rfl (EmptyStands.of_sc rfl)) (fun f hf v h => h.receiver hf)
      (fun v h => optionChanges_current (fun heq => absurd (h.ps ▸ heq) hlead)) (fun f hf v _ h => hkeeps f hf v h) ⟨rfl, fun _ _ => .inl rfl⟩

/-- The plan that a load's end finds put in place. -/
def placed (answers : Bool) (s : State) : State :=
  match s.loadedImage answers with
  | some (revision, i) => placeImage revision i s
  | none => placeNothing s

/-- Putting a plan in place touches LU's tables, the text, FR and PS alone, and leaves the space list. -/
theorem placed_rest (answers : Bool) (s : State) :
    (placed answers s).li = s.li ∧ (placed answers s).nu = s.nu ∧ (placed answers s).time = s.time
      ∧ (placed answers s).resetPin = s.resetPin ∧ (placed answers s).pending = s.pending ∧ (placed answers s).clock = s.clock
      ∧ (placed answers s).sessions = s.sessions ∧ (placed answers s).sc = s.sc ∧ (placed answers s).lu.spaces = s.lu.spaces := by
  unfold placed
  split <;> exact ⟨rfl, rfl, rfl, rfl, rfl, rfl, rfl, rfl, rfl⟩

theorem placed_nothing {answers : Bool} {s : State} (h : answers = false ∨ s.ps.flash.torn = true ∨ readImage s.ps.flash = none) :
    placed answers s = placeNothing s := by
  have hnone : s.loadedImage answers = none := by
    unfold State.loadedImage
    rcases h with h | h | h
    · rw [h]
      rfl
    · rw [h, Bool.not_true, Bool.and_false]
      rfl
    · rw [h, ite_self]
  unfold placed
  rw [hnone]

theorem placed_image {answers : Bool} {s : State} {revision : Nat} {i : Image} (ha : answers = true) (ht : s.ps.flash.torn = false)
    (hi : readImage s.ps.flash = some (revision, i)) : placed answers s = placeImage revision i s := by
  have hsome : s.loadedImage answers = some (revision, i) := by
    unfold State.loadedImage
    rw [ha, ht]
    exact hi
  unfold placed
  rw [hsome]

/-- LOAD_END of a loading plan. -/
theorem exec_loadEnd {answers : Bool} {s : State} (hup : s.resetPin = false) (h : s.ps.plan = .loading) :
    exec (.loadEnd answers) s = .next (deliverLoadEnd s.ps.options (placed answers s)) :=
  (whenUp_up hup _).trans (congrArg _ (if_pos h))

theorem LoadWork.tables {s v : State} (h : LoadWork s v) :
    v.text = s.text ∧ v.lu.sections = s.lu.sections ∧ v.lu.walls = s.lu.walls ∧ v.lu.combos = s.lu.combos := by
  have htext := congrArg State.text h.view
  have hsections := congrArg (fun u : State => u.lu.sections) h.view
  have hwalls := congrArg (fun u : State => u.lu.walls) h.view
  have hcombos := congrArg (fun u : State => u.lu.combos) h.view
  exact ⟨htext, hsections, hwalls, hcombos⟩

theorem LoadWork.blocks {s v : State} (h : LoadWork s v) : v.li.kept = s.li.kept ∧ v.clock = s.clock ∧ v.nu = s.nu ∧ v.time = s.time
    ∧ v.resetPin = s.resetPin ∧ v.pending = s.pending := by
  have hview := h.view
  simp only [loadView, State.mk.injEq] at hview
  obtain ⟨hpending, hli, hpin, -, hclock, -, -, -, hnu, -, -, htime, -⟩ := hview
  exact ⟨hli, hclock, hnu, htime, hpin, hpending⟩

/-- Settles O57: the load's end (R129, R193–R195), and the image that a save writes and a load reads (R192, R207). -/
theorem loadEndsReadyOrEmpty : Obligations.LoadEndsReadyOrEmpty := by
  refine ⟨fun s answers hup => ⟨fun h => ?_, fun h => ?_⟩, fun s hs => ?_, fun revision body => ?_, fun i => ?_, ?_, fun bytes b => ?_⟩
  · exact (whenUp_up hup _).trans (congrArg _ (if_neg h))
  · have hwork := deliverLoadEnd_work s.ps.options (placed answers s)
    have hspaces := deliverLoadEnd_spaces s.ps.options (placed answers s)
    have hfaces := deliverLoadEnd_faces s.ps.options (placed answers s)
    have hcurrent := deliverLoadEnd_current (before := s.ps.options) (s := placed answers s)
    have hrolls (ix : SegIx) := deliverLoadEnd_rolls s.ps.options (placed answers s) (ix := ix)
    have hexec := exec_loadEnd (answers := answers) hup h
    obtain ⟨hli', hnu', htime', hpin', hpending', hclock, hsessions, hsc, hlist⟩ := placed_rest answers s
    have hseg (ix : SegIx) : (placed answers s).seg ix = s.seg ix := by unfold State.seg; rw [hsc]
    generalize deliverLoadEnd s.ps.options (placed answers s) = t at hwork hspaces hfaces hcurrent hrolls hexec
    obtain ⟨hli, hclock', hnu, htime, hpin, hpending⟩ := hwork.blocks
    obtain ⟨htext, hsections, hwalls, hcombos⟩ := hwork.tables
    have hps := hwork.ps
    refine ⟨t, hexec, hli.trans (by rw [hli']), hclock'.trans hclock, hnu.trans hnu', htime.trans htime', hpin.trans hpin',
      hpending.trans hpending', hspaces, hfaces, fun hs => hcurrent (fun hlead => hs.congr hsessions hclock hlead hlist),
      fun ix hrecs => ?_, fun hbad => ?_, fun rev i ha ht hi => ?_⟩
    · rw [hrolls ix (hseg ix ▸ hrecs), hseg ix]
      rfl
    · rw [placed_nothing hbad] at htext hsections hwalls hcombos hps
      exact ⟨hps, htext, hsections, hwalls, hcombos⟩
    · rw [placed_image ha ht hi] at htext hsections hwalls hcombos hps
      refine ⟨hps, fun b => ?_, hsections, hwalls, hcombos⟩
      rw [htext]
      refine (TextMem.read_writeAll s.text 0 b i.text).trans ?_
      rw [Nat.zero_add, Nat.sub_zero]
      exact if_congr (and_iff_right (Nat.zero_le b)) rfl rfl
  · intro body saved
    have hbody := hs.length_imageBody
    have hread : readImage saved = some (s.ps.revision, imageOf s) := by
      refine (readImage_header _ _ hs.revision.1 hs.revision.2 (List.ne_nil_of_length_pos hbody.1) hbody.2).trans ?_
      rw [hs.readBody_written]
      rfl
    refine ⟨hread, rfl, rfl, rfl, rfl, rfl, ?_⟩
    simp only [imageOf, planText, TextMem.readMany, Nat.zero_add]
    rfl
  · rfl
  · intro block ref role
    rfl
  · rfl
  · simp only [crc32, List.foldl_append, BitVec.not_not]
    rfl

end Sys2Proof.Machine
end

section
/-! PROOFS. The spaces derived from sections, walls and combinations (spec: R12, R15, R16). -/

namespace Sys2Proof.Machine

/-! ## Chains of walls -/

section Chains

variable {lu : Layout} {x y z : Nat}

theorem Joined.symm (h : Joined lu x y) : Joined lu y x := by
  obtain ⟨hx, hy, w, hw, hstowed, hends⟩ := h
  exact ⟨hy, hx, w, hw, hstowed, hends.symm⟩

theorem Chained.trans (h : Chained lu x y) (h' : Chained lu y z) : Chained lu x z := by
  induction h' with
  | here => exact h
  | next _ hj ih => exact ih.next hj

theorem Chained.of_joined (h : Joined lu x y) : Chained lu x y := Chained.here.next h

theorem Chained.symm (h : Chained lu x y) : Chained lu y x := by
  induction h with
  | here => exact .here
  | next _ hj ih => exact (Chained.of_joined hj.symm).trans ih

end Chains

/-! ## Labels -/

/-- Two labels made one. -/
def merge (x y v : Nat) : Nat := if v = x ∨ v = y then min x y else v

theorem joinLabels_eq {labels : Table Nat} {a b x y : Nat} (ha : Table.get labels a = some x) (hb : Table.get labels b = some y) :
    joinLabels a b labels = Table.mapVals (merge x y) labels := by
  unfold joinLabels
  rw [ha, hb]
  rfl

theorem joinLabels_cases (a b : Nat) (labels : Table Nat) : joinLabels a b labels = labels
    ∨ ∃ x y, Table.get labels a = some x ∧ Table.get labels b = some y ∧ joinLabels a b labels = Table.mapVals (merge x y) labels := by
  cases ha : Table.get labels a with
  | none => exact .inl (by unfold joinLabels; rw [ha])
  | some x =>
    cases hb : Table.get labels b with
    | none => exact .inl (by unfold joinLabels; rw [ha, hb])
    | some y => exact .inr ⟨x, y, rfl, rfl, joinLabels_eq ha hb⟩

/-- What holds of the labels while walls are worked: a label is its own section's, at most the section it labels, and joined to
it by a chain. -/
structure LabelsGood (lu : Layout) (labels : Table Nat) : Prop where
  keys : Table.keys labels = Table.keys lu.sections
  lowest : ∀ i x, Table.get labels i = some x → Table.get labels x = some x ∧ x ≤ i
  chained : ∀ i x, Table.get labels i = some x → Chained lu i x

theorem get_isSome_of_keys {α β : Type} {t : Table α} {u : Table β} (h : Table.keys t = Table.keys u) (n : Nat) :
    (Table.get t n).isSome = (Table.get u n).isSome := by
  have hkey {γ : Type} (v : Table γ) : (Table.get v n).isSome = true ↔ n ∈ Table.keys v := by
    refine ⟨fun hn => ?_, fun hn => ?_⟩
    · obtain ⟨x, hx⟩ := Option.isSome_iff_exists.1 hn
      exact mem_keys_of_get hx
    · obtain ⟨e, he, rfl⟩ := List.mem_map.1 hn
      exact get_isSome_of_mem he
  rw [Bool.eq_iff_iff, hkey, hkey, h]

/-- One wall worked keeps the labels good. -/
theorem LabelsGood.join {lu : Layout} {labels : Table Nat} (h : LabelsGood lu labels) {w : Nat × Wall} (hw : w ∈ lu.walls)
    (hstowed : w.2.effective = .stowed) : LabelsGood lu (joinLabels w.2.a w.2.b labels) := by
  rcases joinLabels_cases w.2.a w.2.b labels with heq | ⟨x, y, ha, hb, heq⟩
  · rwa [heq]
  · have hpresent {i : Nat} {v : Nat} (hi : Table.get labels i = some v) : (Table.get lu.sections i).isSome = true := by
      rw [← get_isSome_of_keys h.keys, hi]
      rfl
    have hxy : Chained lu x y := by
      have hjoined : Joined lu w.2.a w.2.b := ⟨hpresent ha, hpresent hb, w, hw, hstowed, .inl ⟨rfl, rfl⟩⟩
      exact ((h.chained _ _ ha).symm.trans (.of_joined hjoined)).trans (h.chained _ _ hb)
    have hx := h.lowest _ _ ha
    have hy := h.lowest _ _ hb
    rw [heq]
    refine ⟨by rw [Table.keys_mapVals, h.keys], fun i v hi => ?_, fun i v hi => ?_⟩
    · rw [Table.get_mapVals] at hi ⊢
      obtain ⟨u, hu, rfl⟩ := Option.map_eq_some_iff.1 hi
      obtain ⟨hself, hle⟩ := h.lowest i u hu
      by_cases hu' : u = x ∨ u = y
      · rw [merge, if_pos hu']
        have hmin : Table.get labels (min x y) = some (min x y) := by
          rcases min_choice x y with hm | hm <;> rw [hm]
          · exact hx.1
          · exact hy.1
        have hmerge : merge x y (min x y) = min x y := if_pos (min_choice x y)
        refine ⟨by rw [hmin, Option.map_some, hmerge], le_trans ?_ hle⟩
        rcases hu' with rfl | rfl
        · exact min_le_left _ _
        · exact min_le_right _ _
      · have hmerge : merge x y u = u := if_neg hu'
        rw [hmerge, hself, Option.map_some, hmerge]
        exact ⟨rfl, hle⟩
    · rw [Table.get_mapVals] at hi
      obtain ⟨u, hu, rfl⟩ := Option.map_eq_some_iff.1 hi
      have hchain := h.chained i u hu
      by_cases hu' : u = x ∨ u = y
      · rw [merge, if_pos hu']
        have hboth : Chained lu u x ∧ Chained lu u y := by
          rcases hu' with rfl | rfl
          · exact ⟨.here, hxy⟩
          · exact ⟨hxy.symm, .here⟩
        rcases min_choice x y with hm | hm <;> rw [hm]
        · exact hchain.trans hboth.1
        · exact hchain.trans hboth.2
      · rw [merge, if_neg hu']
        exact hchain

/-- A wall worked: its ends have one label from then on. -/
theorem joinLabels_joins (a b : Nat) (labels : Table Nat) (ha : (Table.get labels a).isSome = true) (hb : (Table.get labels b).isSome = true) :
    Table.get (joinLabels a b labels) a = Table.get (joinLabels a b labels) b := by
  obtain ⟨x, hx⟩ := Option.isSome_iff_exists.1 ha
  obtain ⟨y, hy⟩ := Option.isSome_iff_exists.1 hb
  rw [joinLabels_eq hx hy, Table.get_mapVals, Table.get_mapVals, hx, hy]
  simp [merge]

/-- Sections with one label keep one label. -/
theorem joinLabels_keeps (a b i j : Nat) (labels : Table Nat) (h : Table.get labels i = Table.get labels j) :
    Table.get (joinLabels a b labels) i = Table.get (joinLabels a b labels) j := by
  rcases joinLabels_cases a b labels with heq | ⟨x, y, -, -, heq⟩
  · rwa [heq]
  · rw [heq, Table.get_mapVals, Table.get_mapVals, h]

/-- One wall of the derivation. -/
def workWall (labels : Table Nat) (w : Nat × Wall) : Table Nat :=
  if w.2.effective = .stowed then joinLabels w.2.a w.2.b labels else labels

theorem anchors_eq (lu : Layout) : anchors lu.sections lu.walls = lu.walls.foldl workWall (lu.sections.map (fun e => (e.1, e.1))) := rfl

theorem get_own_labels (t : Table Section) (n : Nat) :
    Table.get (t.map (fun e => (e.1, e.1))) n = if (Table.get t n).isSome = true then some n else none := by
  induction t with
  | nil => rfl
  | cons e t ih =>
    obtain ⟨k, x⟩ := e
    rw [List.map_cons, Table.get_cons, Table.get_cons, ih]
    by_cases hk : k = n
    · simp [hk]
    · simp [hk]

theorem labelsGood_own (lu : Layout) : LabelsGood lu (lu.sections.map (fun e => (e.1, e.1))) := by
  have hown (i x : Nat) (h : Table.get (lu.sections.map (fun e => (e.1, e.1))) i = some x) :
      x = i ∧ Table.get (lu.sections.map (fun e => (e.1, e.1))) i = some i := by
    rw [get_own_labels] at h ⊢
    split at h
    next hp => exact ⟨(Option.some.inj h).symm, if_pos hp⟩
    next => cases h
  refine ⟨?_, fun i x h => ?_, fun i x h => ?_⟩
  · rw [Table.keys, Table.keys, List.map_map]
    rfl
  · obtain ⟨rfl, hself⟩ := hown i x h
    exact ⟨hself, le_refl _⟩
  · obtain ⟨rfl, -⟩ := hown i x h
    exact .here

theorem LabelsGood.foldl {lu : Layout} {labels : Table Nat} {walls : Table Wall} (h : LabelsGood lu labels) (hw : walls ⊆ lu.walls) :
    LabelsGood lu (walls.foldl workWall labels) := by
  induction walls generalizing labels with
  | nil => exact h
  | cons w walls ih =>
    refine ih ?_ (fun e he => hw (List.mem_cons_of_mem w he))
    unfold workWall
    split
    next hstowed => exact h.join (hw List.mem_cons_self) hstowed
    next => exact h

theorem anchors_good (lu : Layout) : LabelsGood lu (anchors lu.sections lu.walls) :=
  (labelsGood_own lu).foldl (fun _ h => h)

theorem foldl_workWall_keeps {i j : Nat} {walls : Table Wall} {labels : Table Nat} (h : Table.get labels i = Table.get labels j) :
    Table.get (walls.foldl workWall labels) i = Table.get (walls.foldl workWall labels) j := by
  induction walls generalizing labels with
  | nil => exact h
  | cons w walls ih =>
    refine ih ?_
    unfold workWall
    split
    · exact joinLabels_keeps _ _ _ _ _ h
    · exact h

/-- The ends of a stowed wall have one anchor. -/
theorem anchors_joined {lu : Layout} {x y : Nat} (h : Joined lu x y) :
    Table.get (anchors lu.sections lu.walls) x = Table.get (anchors lu.sections lu.walls) y := by
  obtain ⟨hx, hy, w, hw, hstowed, hends⟩ := h
  obtain ⟨before, after, hsplit⟩ := List.append_of_mem hw
  have hgood : LabelsGood lu (before.foldl workWall (lu.sections.map (fun e => (e.1, e.1)))) :=
    (labelsGood_own lu).foldl (fun e he => hsplit ▸ List.mem_append_left _ he)
  have hpresent {i : Nat} (hi : (Table.get lu.sections i).isSome = true) :
      (Table.get (before.foldl workWall (lu.sections.map (fun e => (e.1, e.1)))) i).isSome = true := by
    rw [get_isSome_of_keys hgood.keys, hi]
  rw [anchors_eq, hsplit, List.foldl_append, List.foldl_cons]
  refine foldl_workWall_keeps ?_
  rw [workWall, if_pos hstowed]
  rcases hends with ⟨rfl, rfl⟩ | ⟨rfl, rfl⟩
  · exact joinLabels_joins _ _ _ (hpresent hx) (hpresent hy)
  · exact (joinLabels_joins _ _ _ (hpresent hy) (hpresent hx)).symm

theorem anchors_chained {lu : Layout} {x y : Nat} (h : Chained lu x y) :
    Table.get (anchors lu.sections lu.walls) x = Table.get (anchors lu.sections lu.walls) y := by
  induction h with
  | here => rfl
  | next _ hj ih => exact ih.trans (anchors_joined hj)

/-- Two sections are chained exactly when they have one anchor (R15). -/
theorem chained_iff {lu : Layout} {i j x : Nat} (hi : Table.get (anchors lu.sections lu.walls) i = some x) :
    Chained lu i j ↔ Table.get (anchors lu.sections lu.walls) j = some x := by
  refine ⟨fun h => (anchors_chained h).symm.trans hi, fun hj => ?_⟩
  exact ((anchors_good lu).chained i x hi).trans ((anchors_good lu).chained j x hj).symm

/-! ## The space list -/

theorem rising_iff_keys {α : Type} (t : Table α) : Table.rising t = true ↔ (Table.keys t).Pairwise (· < ·) := by
  rw [Table.rising_iff]
  exact List.pairwise_map.symm

section Spaces

variable {lu : Layout} (hlu : Table.rising lu.sections = true)

include hlu

theorem anchors_rising : Table.rising (anchors lu.sections lu.walls) = true := by
  rw [rising_iff_keys, (anchors_good lu).keys, ← rising_iff_keys]
  exact hlu

theorem mem_anchors {i x : Nat} : (i, x) ∈ anchors lu.sections lu.walls ↔ Table.get (anchors lu.sections lu.walls) i = some x :=
  ⟨Table.get_of_mem (anchors_rising hlu), mem_of_get⟩

theorem mem_groupOf {i x : Nat} : i ∈ groupOf (anchors lu.sections lu.walls) x ↔ Table.get (anchors lu.sections lu.walls) i = some x := by
  rw [← mem_anchors hlu, groupOf, List.mem_map]
  constructor
  · rintro ⟨e, he, rfl⟩
    obtain ⟨hin, hx⟩ := List.mem_filter.1 he
    rw [← of_decide_eq_true hx]
    exact hin
  · intro h
    exact ⟨(i, x), List.mem_filter.2 ⟨h, decide_eq_true rfl⟩, rfl⟩

theorem groupOf_rising (x : Nat) : (groupOf (anchors lu.sections lu.walls) x).Pairwise (· < ·) :=
  List.pairwise_map.2 (((Table.rising_iff _).1 (anchors_rising hlu)).sublist List.filter_sublist)

/-- A group stands with its anchor first. -/
theorem groupOf_head {x : Nat} (h : Table.get (anchors lu.sections lu.walls) x = some x) :
    (groupOf (anchors lu.sections lu.walls) x).head? = some x := by
  have hrising := groupOf_rising hlu x
  have hin : x ∈ groupOf (anchors lu.sections lu.walls) x := (mem_groupOf hlu).2 h
  have hleast : ∀ i, i ∈ groupOf (anchors lu.sections lu.walls) x → x ≤ i :=
    fun i hi => ((anchors_good lu).lowest i x ((mem_groupOf hlu).1 hi)).2
  generalize groupOf (anchors lu.sections lu.walls) x = group at hrising hin hleast
  cases group with
  | nil => cases hin
  | cons k rest =>
    rcases List.mem_cons.1 hin with rfl | hrest
    · rfl
    · exact absurd (hleast k List.mem_cons_self) (Nat.not_le.2 ((List.pairwise_cons.1 hrising).1 x hrest))

end Spaces

theorem spaceOfSet_sections (lu : Layout) (anchor : Nat) (set : List Nat) : (spaceOfSet lu anchor set).sections = set := by
  unfold spaceOfSet
  simp only
  split <;> rfl

theorem spaceOfSet_closed (lu : Layout) (anchor : Nat) (set : List Nat) :
    (spaceOfSet lu anchor set).closed = set.all (fun i => (Table.get lu.sections i).any (·.closed)) := by
  unfold spaceOfSet
  simp only
  split <;> rfl

/-- A space named by a combination of just its sections (R16). -/
theorem spaceOfSet_combo {lu : Layout} {anchor : Nat} {set : List Nat} (h : ∃ c, c ∈ lu.combos ∧ c.2.set = set) :
    ∃ c, c ∈ lu.combos ∧ c.2.set = set ∧ (spaceOfSet lu anchor set).name = c.2.name ∧ (spaceOfSet lu anchor set).source = .combo c.1
      ∧ (spaceOfSet lu anchor set).more = 0 := by
  unfold spaceOfSet
  cases hf : lu.combos.find? (fun c => c.2.set = set) with
  | none =>
    obtain ⟨c, hc, hset⟩ := h
    exact absurd (decide_eq_true hset) (List.find?_eq_none.1 hf c hc)
  | some c =>
    have hset : c.2.set = set := by simpa using List.find?_some hf
    exact ⟨c, List.mem_of_find?_eq_some hf, hset, rfl, rfl, rfl⟩

/-- A space named by its anchor (R16). -/
theorem spaceOfSet_anchor {lu : Layout} {anchor : Nat} {set : List Nat} (h : ∀ c, c ∈ lu.combos → c.2.set ≠ set) :
    (spaceOfSet lu anchor set).name = ((Table.get lu.sections anchor).map (·.name)).getD ⟨0, 0, 0⟩
      ∧ (spaceOfSet lu anchor set).source = .anchor anchor ∧ (spaceOfSet lu anchor set).more = set.length - 1 := by
  have hnone : lu.combos.find? (fun c => c.2.set = set) = none :=
    List.find?_eq_none.2 (fun c hc hset => h c hc (of_decide_eq_true hset))
  unfold spaceOfSet
  rw [hnone]
  exact ⟨rfl, rfl, rfl⟩

/-- The space of an anchor. -/
def spaceOf (lu : Layout) (x : Nat) : Space := spaceOfSet lu x (groupOf (anchors lu.sections lu.walls) x)

theorem deriveSpaces_eq (lu : Layout) : deriveSpaces lu
    = ((anchors lu.sections lu.walls).filter (fun e => e.2 = e.1)).map (fun e => spaceOf lu e.1) := rfl

theorem anchors_isSome {lu : Layout} (i : Nat) : (Table.get (anchors lu.sections lu.walls) i).isSome = (Table.get lu.sections i).isSome :=
  get_isSome_of_keys (anchors_good lu).keys i

section Derived

variable {lu : Layout} (hlu : Table.rising lu.sections = true)

include hlu

theorem mem_deriveSpaces {p : Space} :
    p ∈ deriveSpaces lu ↔ ∃ x, Table.get (anchors lu.sections lu.walls) x = some x ∧ p = spaceOf lu x := by
  rw [deriveSpaces_eq, List.mem_map]
  constructor
  · rintro ⟨e, he, rfl⟩
    obtain ⟨hin, hself⟩ := List.mem_filter.1 he
    have hself : e.2 = e.1 := of_decide_eq_true hself
    refine ⟨e.1, ?_, rfl⟩
    have hget := (mem_anchors hlu).1 (show (e.1, e.2) ∈ anchors lu.sections lu.walls from hin)
    rwa [hself] at hget
  · rintro ⟨x, hx, rfl⟩
    exact ⟨(x, x), List.mem_filter.2 ⟨(mem_anchors hlu).2 hx, decide_eq_true rfl⟩, rfl⟩

theorem mem_spaceOf {i x : Nat} : i ∈ (spaceOf lu x).sections ↔ Table.get (anchors lu.sections lu.walls) i = some x := by
  rw [spaceOf, spaceOfSet_sections]
  exact mem_groupOf hlu

theorem spaceOf_head {x : Nat} (hx : Table.get (anchors lu.sections lu.walls) x = some x) :
    (spaceOf lu x).sections.head? = some x ∧ (spaceOf lu x).anchor = x := by
  have hhead : (spaceOf lu x).sections.head? = some x := by
    rw [spaceOf, spaceOfSet_sections]
    exact groupOf_head hlu hx
  refine ⟨hhead, ?_⟩
  rw [Space.anchor, List.headD_eq_head?_getD, hhead]
  rfl

/-- The derived spaces stand in the order of their anchors. -/
theorem deriveSpaces_sorted : (deriveSpaces lu).Pairwise (fun p q => p.anchor < q.anchor) := by
  have hself {e : Nat × Nat} (he : e ∈ (anchors lu.sections lu.walls).filter (fun e => e.2 = e.1)) : (spaceOf lu e.1).anchor = e.1 := by
    obtain ⟨hin, heq⟩ := List.mem_filter.1 he
    have heq : e.2 = e.1 := of_decide_eq_true heq
    have hget := (mem_anchors hlu).1 (show (e.1, e.2) ∈ anchors lu.sections lu.walls from hin)
    rw [heq] at hget
    exact (spaceOf_head hlu hget).2
  have hrising := ((Table.rising_iff _).1 (anchors_rising hlu)).sublist (List.filter_sublist (p := fun e => e.2 = e.1))
  rw [deriveSpaces_eq, List.pairwise_map]
  refine hrising.imp_of_mem (fun he hf hlt => ?_)
  rw [hself he, hself hf]
  exact hlt

/-- The derived list: its spaces part the present sections by chains of stowed walls (R15), each with its name, source, more-count
and closed state (R16). -/
theorem deriveSpaces_parts :
    let list := deriveSpaces lu
    (∀ i, (Table.get lu.sections i).isSome = true ↔ ∃ p, p ∈ list ∧ i ∈ p.sections)
    ∧ (∀ p q i, p ∈ list → q ∈ list → i ∈ p.sections → i ∈ q.sections → p = q)
    ∧ (∀ i j p, p ∈ list → i ∈ p.sections → (j ∈ p.sections ↔ Chained lu i j)) := by
  refine ⟨fun i => ?_, fun p q i hp hq hip hiq => ?_, fun i j p hp hi => ?_⟩
  · rw [← anchors_isSome]
    constructor
    · intro h
      obtain ⟨x, hx⟩ := Option.isSome_iff_exists.1 h
      exact ⟨spaceOf lu x, (mem_deriveSpaces hlu).2 ⟨x, ((anchors_good lu).lowest i x hx).1, rfl⟩, (mem_spaceOf hlu).2 hx⟩
    · rintro ⟨p, hp, hi⟩
      obtain ⟨x, -, rfl⟩ := (mem_deriveSpaces hlu).1 hp
      rw [(mem_spaceOf hlu).1 hi]
      rfl
  · obtain ⟨x, -, rfl⟩ := (mem_deriveSpaces hlu).1 hp
    obtain ⟨y, -, rfl⟩ := (mem_deriveSpaces hlu).1 hq
    have hxy := ((mem_spaceOf hlu).1 hip).symm.trans ((mem_spaceOf hlu).1 hiq)
    rw [Option.some.inj hxy]
  · obtain ⟨x, -, rfl⟩ := (mem_deriveSpaces hlu).1 hp
    rw [chained_iff ((mem_spaceOf hlu).1 hi)]
    exact mem_spaceOf hlu

/-- Each derived space by itself. -/
theorem deriveSpaces_each {p : Space} (hp : p ∈ deriveSpaces lu) :
    p.sections.Pairwise (· < ·) ∧ p.sections.head? = some p.anchor
      ∧ (p.closed = true ↔ ∀ i x, i ∈ p.sections → Table.get lu.sections i = some x → x.closed = true)
      ∧ ((∃ c, c ∈ lu.combos ∧ c.2.set = p.sections) →
          ∃ c, c ∈ lu.combos ∧ c.2.set = p.sections ∧ p.name = c.2.name ∧ p.source = .combo c.1 ∧ p.more = 0)
      ∧ ((∀ c, c ∈ lu.combos → c.2.set ≠ p.sections) → p.source = .anchor p.anchor ∧ p.more = p.sections.length - 1
          ∧ ∀ x, Table.get lu.sections p.anchor = some x → p.name = x.name) := by
  obtain ⟨x, hx, rfl⟩ := (mem_deriveSpaces hlu).1 hp
  obtain ⟨hhead, hanchor⟩ := spaceOf_head hlu hx
  have hsections : (spaceOf lu x).sections = groupOf (anchors lu.sections lu.walls) x := spaceOfSet_sections _ _ _
  refine ⟨hsections ▸ groupOf_rising hlu x, hanchor.symm ▸ hhead, ?_, fun hcombo => ?_, fun hno => ?_⟩
  · have hclosed : (spaceOf lu x).closed = (spaceOf lu x).sections.all (fun i => (Table.get lu.sections i).any (·.closed)) := by
      rw [hsections]
      exact spaceOfSet_closed _ _ _
    rw [hclosed, List.all_eq_true]
    constructor
    · intro h i sec hi hsec
      have hany := h i hi
      rw [hsec] at hany
      exact hany
    · intro h i hi
      have hpresent : (Table.get lu.sections i).isSome = true := by
        rw [← anchors_isSome, (mem_spaceOf hlu).1 hi]
        rfl
      obtain ⟨sec, hsec⟩ := Option.isSome_iff_exists.1 hpresent
      rw [hsec]
      exact h i sec hi hsec
  · rw [hsections] at hcombo ⊢
    exact spaceOfSet_combo hcombo
  · rw [hsections] at hno ⊢
    obtain ⟨hname, hsource, hmore⟩ := spaceOfSet_anchor (anchor := x) hno
    rw [hanchor]
    refine ⟨hsource, hmore, fun sec hsec => hname.trans ?_⟩
    rw [hsec]
    rfl

end Derived

end Sys2Proof.Machine
end

section
/-! PROOFS. The wall scan: one sample of every wall, and the spaces that follow (spec: R8–R12, R17). -/

namespace Sys2Proof.Machine

/-! ## One wall sampled -/

theorem effective_eq (w : Wall) : w.effective = if w.forced = .stowed then .stowed else if w.forced = .deployed then .deployed
    else if w.filtered = .stowed then .stowed else .deployed := by
  unfold Wall.effective
  cases w.forced with
  | stowed => rfl
  | deployed => rfl
  | free => cases w.filtered <;> rfl

theorem readingOf_eq (x y : Bool) : readingOf x y
    = if x then (if y then .conflict else .stowed) else if y then .deployed else .travel := by
  cases x <;> cases y <;> rfl

theorem readingOf_ne_nothing (x y : Bool) : readingOf x y ≠ .nothing := by
  cases x <;> cases y <;> nofun

/-- A wall after one sample and its judgement (R9, R10). -/
def sampled (settle travel : Nat) (r : Reading) (w : Wall) : Wall :=
  { w.sample r with filtered := (w.sample r).judged settle travel }

theorem sampled_eq {settle travel : Nat} {r : Reading} (hr : r ≠ .nothing) (w : Wall) : sampled settle travel r w =
    let run := if r = w.candidate then min (w.run + 1) 65535 else 1
    let filtered : Filtered :=
      if r = .stowed ∧ settle ≤ run then .stowed
      else if r = .deployed ∧ settle ≤ run then .deployed
      else if (r = .travel ∧ travel ≤ run) ∨ (r = .conflict ∧ settle ≤ run) then .fault
      else w.filtered
    { w with last := r, candidate := r, run, filtered } := by
  have hsample : w.sample r = { w with last := r, candidate := r, run := if r = w.candidate then min (w.run + 1) 65535 else 1 } := by
    unfold Wall.sample
    by_cases h : r = w.candidate
    · rw [if_pos h, if_pos h]
      simp [h]
    · rw [if_neg h, if_neg h]
  unfold sampled
  rw [hsample]
  cases r with
  | nothing => exact absurd rfl hr
  | stowed => simp [Wall.judged]
  | deployed => simp [Wall.judged]
  | travel => simp [Wall.judged]
  | conflict => simp [Wall.judged]

theorem sampleWall_eq {contacts : BitVec 96} {i : Nat} {w : Wall} {s : State} (h : Table.get s.lu.walls i = some w) :
    let after := sampled s.ps.options.settle s.ps.options.travel (readingOf (contacts.getLsbD (2 * i)) (contacts.getLsbD (2 * i + 1))) w
    sampleWall contacts i s = putWall i w after (raiseIf (after.filtered ≠ w.filtered) .wall s) := by
  unfold sampleWall
  rw [h]
  rfl

theorem sampled_joins (settle travel : Nat) (r : Reading) (w : Wall) :
    (sampled settle travel r w).a = w.a ∧ (sampled settle travel r w).b = w.b ∧ (sampled settle travel r w).forced = w.forced := by
  unfold sampled Wall.sample
  split <;> exact ⟨rfl, rfl, rfl⟩

theorem effective_sampled {settle travel : Nat} {r : Reading} {w : Wall} (h : (sampled settle travel r w).filtered = w.filtered) :
    (sampled settle travel r w).effective = w.effective := by
  rw [effective_eq, effective_eq, h, (sampled_joins settle travel r w).2.2]

/-! ## The spaces read walls by their ends and positions -/

theorem anchors_congr (sections : Table Section) {walls walls' : Table Wall}
    (h : Table.mapVals (fun w => (w.a, w.b, w.effective)) walls = Table.mapVals (fun w => (w.a, w.b, w.effective)) walls') :
    anchors sections walls = anchors sections walls' := by
  have hread (walls : Table Wall) : anchors sections walls = (Table.mapVals (fun w => (w.a, w.b, w.effective)) walls).foldl
      (fun l e => if e.2.2.2 = Position.stowed then joinLabels e.2.1 e.2.2.1 l else l) (sections.map (fun e => (e.1, e.1))) := by
    rw [Table.mapVals, List.foldl_map]
    rfl
  rw [hread, hread, h]

theorem deriveSpaces_putWall {lu : Layout} {i : Nat} {w w' : Wall} (h : Table.get lu.walls i = some w) (ha : w'.a = w.a) (hb : w'.b = w.b)
    (he : w'.effective = w.effective) : deriveSpaces { lu with walls := Table.put lu.walls i w' } = deriveSpaces lu := by
  have hanchors : anchors lu.sections (Table.put lu.walls i w') = anchors lu.sections lu.walls :=
    anchors_congr lu.sections (Table.mapVals_put _ _ i w' w h (by rw [ha, hb, he]))
  unfold deriveSpaces
  simp only [hanchors]
  rfl

/-! ## The walls of a scan, one by one -/

theorem Follows.withLu {s t : State} (h : Follows s t) (lu : Layout) : Follows { s with lu } { t with lu } :=
  ⟨congrArg (fun u : State => { u with lu }) h.kept, h.grow, h.good⟩

/-- A wall put in place of another leaves a derived list derived. -/
theorem putWall_derived {i : Nat} {w w' : Wall} {s : State} (hget : Table.get s.lu.walls i = some w) (ha : w'.a = w.a) (hb : w'.b = w.b)
    (h : s.lu.spaces = deriveSpaces s.lu) : (putWall i w w' s).lu.spaces = deriveSpaces (putWall i w w' s).lu := by
  rw [(putWall_follows i w w' s).lu]
  by_cases he : w'.effective = w.effective
  · simp only [if_pos he]
    rw [deriveSpaces_putWall hget ha hb he]
    exact h
  · simp only [if_neg he]
    rfl

/-- Where a scan stands once some walls are sampled. -/
structure Scanned (judged : Nat → Wall → Wall) (s : State) (done : List Nat) (v : State) : Prop where
  ps : v.ps = s.ps
  walls : ∀ i, Table.get v.lu.walls i = if i ∈ done then (Table.get s.lu.walls i).map (judged i) else Table.get s.lu.walls i
  raised : ∀ i w, i ∈ done → Table.get s.lu.walls i = some w → (judged i w).filtered ≠ w.filtered → flagSet v .wall = true
  stands : (∀ i w, i ∈ done → Table.get s.lu.walls i = some w → (judged i w).filtered = w.filtered) →
    v = { s with lu := { s.lu with walls := v.lu.walls } }
  tables : v.lu.sections = s.lu.sections ∧ v.lu.combos = s.lu.combos
  derived : s.lu.spaces = deriveSpaces s.lu → v.lu.spaces = deriveSpaces v.lu
  follows : Follows { s with lu := v.lu } v
  taken : SpacesTaken s v

theorem Scanned.start (judged : Nat → Wall → Wall) (s : State) : Scanned judged s [] s where
  ps := rfl
  walls := fun _ => rfl
  raised := nofun
  stands := fun _ => rfl
  tables := ⟨rfl, rfl⟩
  derived := id
  follows := Follows.refl s
  taken := SpacesTaken.refl s

/-- Tables and sections after a wall is put in place of another. -/
theorem putWall_lu (i : Nat) (w w' : Wall) (s : State) : (putWall i w w' s).lu.walls = Table.put s.lu.walls i w'
    ∧ (putWall i w w' s).lu.sections = s.lu.sections ∧ (putWall i w w' s).lu.combos = s.lu.combos := by
  rw [(putWall_follows i w w' s).lu]
  simp only
  split <;> exact ⟨rfl, rfl, rfl⟩

/-- One more wall sampled. -/
theorem Scanned.step {judged : Nat → Wall → Wall} {s v : State} {done : List Nat} {i : Nat} {w : Wall} (h : Scanned judged s done v)
    (hi : i ∉ done) (hw : Table.get s.lu.walls i = some w) (hends : (judged i w).a = w.a ∧ (judged i w).b = w.b)
    (hposition : (judged i w).filtered = w.filtered → (judged i w).effective = w.effective) :
    Scanned judged s (done ++ [i]) (putWall i w (judged i w) (raiseIf ((judged i w).filtered ≠ w.filtered) .wall v)) := by
  have hwv : Table.get v.lu.walls i = some w := by rw [h.walls, if_neg hi, hw]
  have hraise := raiseIf_follows ((judged i w).filtered ≠ w.filtered) .wall v
  have hlu : (raiseIf ((judged i w).filtered ≠ w.filtered) .wall v).lu = v.lu := hraise.lu
  have hflag (hne : (judged i w).filtered ≠ w.filtered) : flagSet (raiseIf ((judged i w).filtered ≠ w.filtered) .wall v) .wall = true := by
    rw [decide_eq_true hne]
    exact flagSet_raise _ _
  have hquiet (heq : (judged i w).filtered = w.filtered) : raiseIf ((judged i w).filtered ≠ w.filtered) .wall v = v := by
    rw [decide_eq_false (fun hne => hne heq)]
    rfl
  have hraisedTaken : SpacesTaken s (raiseIf ((judged i w).filtered ≠ w.filtered) .wall v) := by
    have hsessions := raiseIf_sessions v ((judged i w).filtered ≠ w.filtered) .wall
    exact h.taken.congr ⟨rfl, rfl, id, id⟩ ⟨hsessions, by rw [hlu], fun hc => hc.congr hsessions hraise.clock (by rw [hraise.ps]) (by rw [hlu]),
      fun hf => hf.of_follows hraise (by rw [hsessions]) (raiseIf_fr _ _ _), flagSet_of_grow hraise.grow⟩
  generalize raiseIf ((judged i w).filtered ≠ w.filtered) .wall v = u at hraise hlu hflag hquiet hraisedTaken ⊢
  have hput := putWall_follows i w (judged i w) u
  obtain ⟨hwalls, hsections, hcombos⟩ := putWall_lu i w (judged i w) u
  have hputLu := hput.lu
  have hderived := putWall_derived (s := u) (w' := judged i w) (hlu ▸ hwv) hends.1 hends.2
  refine ⟨?_, fun k => ?_, fun k x hk hx hne => ?_, fun hall => ?_, ?_, fun hs => ?_, ?_, ?_⟩
  · exact hput.ps.trans (hraise.ps.trans h.ps)
  · rw [hwalls, hlu]
    by_cases hk : k = i
    · subst hk
      rw [Table.get_put_same, if_pos (List.mem_append_right done List.mem_cons_self), hw]
      rfl
    · rw [Table.get_put_other _ _ hk, h.walls]
      refine if_congr ?_ rfl rfl
      rw [List.mem_append, List.mem_singleton]
      exact (or_iff_left hk).symm
  · have hgrow : u.li.attention &&& (putWall i w (judged i w) u).li.attention = u.li.attention := hput.grow
    rcases List.mem_append.1 hk with hk | hk
    · exact flagSet_of_grow hgrow (flagSet_of_grow hraise.grow (h.raised k x hk hx hne))
    · obtain rfl := List.mem_singleton.1 hk
      obtain rfl := Option.some.inj (hw.symm.trans hx)
      exact flagSet_of_grow hgrow (hflag hne)
  · have hsame := hall i w (List.mem_append_right done List.mem_cons_self) hw
    have hv := h.stands (fun k x hk hx => hall k x (List.mem_append_left [i] hk) hx)
    have hu := hquiet hsame
    subst hu
    have hstands : putWall i w (judged i w) u = { u with lu := { u.lu with walls := Table.put u.lu.walls i (judged i w) } } :=
      if_pos (hposition hsame).symm
    rw [hstands, hv]
  · rw [hsections, hcombos, hlu]
    exact h.tables
  · exact hderived (hlu ▸ h.derived hs)
  · rw [hputLu]
    exact ((h.follows.trans hraise).withLu _).trans hput
  · have hkeys (n : Nat) : (Table.get u.sessions n).isSome = (Table.get s.sessions n).isSome :=
      (h.follows.trans hraise).session_isSome n
    exact hraisedTaken.trans (putWall_taken i w (judged i w) u) hkeys hput.grow

/-- Every wall of a list sampled. -/
theorem foldl_sampleWall {contacts : BitVec 96} {s : State} {keys : List Nat} (hnodup : keys.Nodup)
    (hkeys : ∀ i, i ∈ keys → (Table.get s.lu.walls i).isSome = true) :
    Scanned (fun i => sampled s.ps.options.settle s.ps.options.travel (readingOf (contacts.getLsbD (2 * i)) (contacts.getLsbD (2 * i + 1))))
      s keys (keys.foldl (fun s i => sampleWall contacts i s) s) := by
  induction keys using List.reverseRecOn with
  | nil => exact Scanned.start _ s
  | append_singleton keys i ih =>
    rw [List.nodup_append] at hnodup
    obtain ⟨hrest, -, hapart⟩ := hnodup
    have hi : i ∉ keys := fun hin => hapart i hin i List.mem_cons_self rfl
    have hscanned := ih hrest (fun k hk => hkeys k (List.mem_append_left _ hk))
    obtain ⟨w, hw⟩ := Option.isSome_iff_exists.1 (hkeys i (List.mem_append_right _ List.mem_cons_self))
    rw [List.foldl_append, List.foldl_cons, List.foldl_nil]
    generalize keys.foldl (fun s i => sampleWall contacts i s) s = v at hscanned
    have hwv : Table.get v.lu.walls i = some w := by rw [hscanned.walls, if_neg hi, hw]
    have hjoins := sampled_joins s.ps.options.settle s.ps.options.travel
      (readingOf (contacts.getLsbD (2 * i)) (contacts.getLsbD (2 * i + 1))) w
    rw [sampleWall_eq hwv, hscanned.ps]
    exact hscanned.step hi hw ⟨hjoins.1, hjoins.2.1⟩ effective_sampled

/-- Settles O21: the spaces derived (R15, R16), the effective position (R12), and the scan of every wall (R8–R10, R17). -/
theorem wallScanSamplesEveryWall : Obligations.WallScanSamplesEveryWall := by
  refine ⟨fun lu hlu => ?_, effective_eq, fun s contacts hup hplan hrising => ?_⟩
  · intro list
    obtain ⟨hpresent, hone, hchained⟩ := deriveSpaces_parts hlu
    exact ⟨hpresent, hone, hchained, deriveSpaces_sorted hlu, fun p hp => deriveSpaces_each hlu hp⟩
  · intro settle travel reading judged
    have hexec : exec (.wallScan contacts) s = .next ((Table.keys s.lu.walls).foldl (fun s i => sampleWall contacts i s) s) :=
      (whenUp_up hup _).trans (congrArg _ (if_neg hplan))
    have hscanned := foldl_sampleWall (contacts := contacts) (s := s) (keys := Table.keys s.lu.walls) (keys_nodup hrising) (fun i hi => by
      obtain ⟨e, he, rfl⟩ := List.mem_map.1 hi
      exact get_isSome_of_mem he)
    have hjudged (i : Nat) (w : Wall) :
        sampled settle travel (readingOf (contacts.getLsbD (2 * i)) (contacts.getLsbD (2 * i + 1))) w = judged i w := by
      rw [sampled_eq (readingOf_ne_nothing _ _), readingOf_eq]
    generalize (Table.keys s.lu.walls).foldl (fun s i => sampleWall contacts i s) s = t at hexec hscanned
    have hin {i : Nat} {w : Wall} (h : Table.get s.lu.walls i = some w) : i ∈ Table.keys s.lu.walls := mem_keys_of_get h
    refine ⟨t, hexec, fun i => ?_, fun i w hw hne => ?_, fun hall => ?_, hscanned.tables.1, hscanned.tables.2, hscanned.derived,
      hscanned.follows, hscanned.taken⟩
    · rw [hscanned.walls]
      cases hw : Table.get s.lu.walls i with
      | none => exact ite_self _
      | some w =>
        rw [if_pos (hin hw), Option.map_some, Option.map_some, hjudged i w]
    · exact hscanned.raised i w (hin hw) hw (by rw [hjudged i w]; exact hne)
    · exact hscanned.stands (fun i w _ hw => by rw [hjudged i w]; exact hall i w hw)

end Sys2Proof.Machine
end

section
/-! PROOFS. Transfers and refreshes on a sign bus: LOAD, SHOW, completion polls and the final deadline (spec: R158–R170). -/

namespace Sys2Proof.Machine

/-! ## Chunks -/

theorem exec_loadExchange {s : State} {ix : SegIx} {a index total : Nat} {data : List Byte} (heard : Heard) (hup : s.resetPin = false)
    (hbus : (s.seg ix).bus = some (.load a index total data)) :
    exec (.loadExchange ix heard) s = .next (endExchange ix (loadOutcome ix a index heard s)) := by
  have hexec : exec (.loadExchange ix heard) s = whenUp (endLoad ix heard) s := rfl
  rw [hexec, whenUp_up hup, endLoad, hbus]

section Chunks

variable {s : State} {ix : SegIx} {a index : Nat} {heard : Heard} {t : Transfer}

/-- Any outcome but an ACK of the index sent is a failed chunk (R159). -/
theorem loadOutcome_failed (ht : (s.seg ix).transfer = some t) (hstands : t.abandoned = false)
    (hack : readAck s.lateBytes a heard ≠ .valid index) : loadOutcome ix a index heard s = chunkFailed ix t s := by
  simp only [loadOutcome, ht, hstands, Bool.false_eq_true, if_false]
  cases hr : readAck s.lateBytes a heard with
  | silent => rfl
  | garbled => rfl
  | valid i => exact if_neg (fun hi => hack (by rw [hr, hi]))

theorem loadOutcome_acked (ht : (s.seg ix).transfer = some t) (hstands : t.abandoned = false)
    (hack : readAck s.lateBytes a heard = .valid index) : loadOutcome ix a index heard s = chunkAcked ix t s := by
  simp only [loadOutcome, ht, hstands, Bool.false_eq_true, if_false, hack, if_true]

end Chunks

/-- Settles O47: the outcome of a LOAD by the transfer it belongs to and the ACK heard (R159–R161). -/
theorem chunksAreAcknowledgedOrRepeated : Obligations.ChunksAreAcknowledgedOrRepeated := by
  intro s ix a index total data heard hup hbus c g
  have hexec : exec c s = _ := exec_loadExchange heard hup hbus
  rw [hexec]
  refine ⟨fun hnone => ?_, fun t ht hstands => ⟨fun hack => ?_, fun hack hsends => ?_, fun x hack hsends hx => ?_⟩,
    fun t x ht habandoned hx => ⟨_, rfl, ?_⟩⟩
  · have hgone : (s.seg ix).transfer = none := hnone
    rw [loadOutcome, hgone]
  · rw [loadOutcome_acked ht hstands hack]
    rfl
  · rw [loadOutcome_failed ht hstands hack, chunkFailed, if_pos hsends]
  · refine ⟨_, rfl, ?_⟩
    rw [loadOutcome_failed ht hstands hack, chunkFailed, if_neg (Nat.not_lt.2 hsends), hx]
    exact leaveLoading_leaves ix t.address t _ s
  · have hin : (s.seg ix).transfer = some t := ht
    rw [loadOutcome, hin]
    simp only [habandoned, if_true, endAbandoned, hx]
    exact leaveLoading_leaves ix t.address t x s

/-! ## SHOW -/

/-- Settles O48: SHOWN and no good reply start the refresh (R162, R164), REFUSED ends the transfer (R163). -/
theorem showStartsTheRefresh : Obligations.ShowStartsTheRefresh := by
  intro s ix a kind digest duration heard t x hup hbus ht hx c g refresh begun
  have hexec : exec c s = _ := exec_showExchange heard hup hbus
  rw [hexec]
  refine ⟨fun hshown => ?_, fun hmissed => ?_, fun hrefused => ⟨_, rfl, ?_⟩⟩
  · simp only [showOutcome, ht, hx, hshown]
    rfl
  · rcases hmissed with hr | hr <;> simp only [showOutcome, ht, hx, hr] <;> rfl
  · simp only [showOutcome, ht, hx, hrefused]
    exact leaveLoading_leaves ix a t _ s

/-! ## The times of a refresh -/

theorem exec_completionPollDue {s : State} (ix : SegIx) (a : Nat) (hup : s.resetPin = false) :
    exec (.completionPollDue ix a) s = .next (pollDue ix a s) := by
  have hexec : exec (.completionPollDue ix a) s = whenUp (pollDue ix a) s := rfl
  rw [hexec, whenUp_up hup]

theorem exec_finalDeadline {s : State} (ix : SegIx) (a : Nat) (hup : s.resetPin = false) :
    exec (.finalDeadline ix a) s = .next (finalComes ix a s) := by
  have hexec : exec (.finalDeadline ix a) s = whenUp (finalComes ix a) s := rfl
  rw [hexec, whenUp_up hup]

section Refreshing

variable {s : State} {ix : SegIx} {a : Nat} {x : Rec} {f : Refresh} (hx : s.rec? ix a = some x) (hf : x.state = .refreshing f)
include hx hf

theorem pollDue_refreshing : pollDue ix a s =
    if f.nextPoll < f.final then
      { s with time := max s.time f.nextPoll }.putRec ix a
        { x with state := .refreshing { f with due := some (f.due.getD f.nextPoll), nextPoll := f.nextPoll + 10 } }
    else s := by
  simp only [pollDue, hx, hf]
  rfl

theorem finalComes_refreshing : finalComes ix a s =
    if (s.seg ix).bus = some (.completion a) then
      { s with time := max s.time f.final }.putRec ix a { x with state := .refreshing { f with finalWaits := true } }
    else judgeDrain ix (giveUp ix a x f { s with time := max s.time f.final }) := by
  simp only [finalComes, hx, hf]
  rfl

/-- With a final deadline waiting, the end of a completion poll gives the refresh up (R168). -/
theorem finalAfterPoll_of_waiting (hw : f.finalWaits = true) : finalAfterPoll ix a s = giveUp ix a x f s := by
  simp only [finalAfterPoll, hx, hf, hw, if_true]

end Refreshing

theorem releaseDraw_only (ix : SegIx) (a draw : Nat) (s : State) : OnlyRecord ix a s (releaseDraw ix draw s) :=
  OnlyRecord.setSeg ix a s _ rfl

/-- The final deadline gives up: shown digest and last template unknown, a miss (R169). -/
theorem giveUp_leaves (ix : SegIx) (a : Nat) (x : Rec) (f : Refresh) (s : State) :
    LeavesRefreshing ix a f.draw { x with shown := none, lastTemplate := none, miss := min (x.miss + 1) 255 } s (giveUp ix a x f s) := by
  refine leaveRefreshing_leaves ix a f.draw _ s _ (releaseDraw_only ix a f.draw s) rfl ?_ ?_ ?_ ?_ <;> rw [releaseDraw, seg_setSeg_same]

/-- Settles O49: a poll time on the grid of 10 cs (R166); the final deadline taken, or left to wait for a poll (R168, R169). -/
theorem refreshTimesAreTaken : Obligations.RefreshTimesAreTaken := by
  intro s ix a x f hup hx hf due final now unknown
  have hdue : exec due s = _ := exec_completionPollDue ix a hup
  have hfinal : exec final s = _ := exec_finalDeadline ix a hup
  rw [hdue, hfinal, pollDue_refreshing hx hf, finalComes_refreshing hx hf]
  refine ⟨fun h => by rw [if_pos h], fun h => by rw [if_neg (Nat.not_lt.2 h)], fun h => by rw [if_pos h], fun h => ?_⟩
  rw [if_neg h]
  refine ⟨giveUp ix a x f now, giveUp_leaves ix a x f now, fun hstays => ?_, fun hm hd => ?_⟩
  · exact congrArg _ (judgeDrain_stands (fun ⟨hm, hd⟩ => hstays.elim (fun h => h hm) (fun h => by rw [h] at hd; cases hd)))
  · exact congrArg _ (judgeDrain_quiet hm hd)

/-! ## Completion -/

/-- A record that leaves REFRESHING alike beside the state before its last change. -/
theorem LeavesRefreshing.of_only {ix : SegIx} {a draw : Nat} {x : Rec} {s u t : State} (h : LeavesRefreshing ix a draw x u t)
    (honly : OnlyRecord ix a s u) (hfr : u.fr = s.fr) (hflights : FlightsKept ix s u) (hseq : (u.seg ix).sequence = (s.seg ix).sequence) :
    LeavesRefreshing ix a draw x s t := by
  obtain ⟨hthen, hthenFr, hreserved, hpointer, htransfer, hlost, hjudged⟩ := h
  obtain ⟨hp, ht, hr⟩ := hflights
  have hps : u.ps = s.ps := honly.follows.ps
  refine ⟨honly.trans hthen, hthenFr.trans hfr, by rw [hreserved, hr], hpointer.trans hp, htransfer.trans ht, fun hm => ?_, fun hm => ?_⟩
  · obtain ⟨hl, hs⟩ := hlost (by rw [hps]; exact hm)
    exact ⟨hl, hs.trans hseq⟩
  · exact (hjudged (by rw [hps]; exact hm)).of_online rfl hseq

/-- A record with its changes put in place and a flag raised where it asks: work on that record alone. -/
theorem raiseIf_putRec_only (ix : SegIx) (a : Nat) (c : Bool) (f : Flag) (x : Rec) (s : State) :
    OnlyRecord ix a s (raiseIf c f (s.putRec ix a x)) := (OnlyRecord.putRec ix a x s).trans (OnlyRecord.raiseIf ix a c f _)

theorem raiseIf_putRec_seg (ix : SegIx) (a : Nat) (c : Bool) (f : Flag) (x : Rec) (s : State) :
    (raiseIf c f (s.putRec ix a x)).seg ix = { s.seg ix with recs := Table.put (s.seg ix).recs a x } := by
  rw [seg_raiseIf, seg_putRec_same]

/-- A flag that a condition raises is set when the condition holds. -/
theorem flagSet_raiseIf {c : Bool} (f : Flag) (s : State) (h : c = true) : flagSet (raiseIf c f s) f = true := by
  rw [h]
  exact flagSet_raise f s

/-- Steps 1, 3, 4 and 5 of R167, field by field. -/
theorem completed_eq (x : Rec) (refreshFloor : Int) (f : Refresh) (rep : StateReport) : x.completed refreshFloor f rep =
    let y := x.heardState refreshFloor rep
    if f.confirmed = true ∨ rep.shown = some f.digest then
      { y with shown := rep.shown, lastTemplate := some f.template, forcedFull := false
               ghost := if f.kind = .full then 0 else x.ghost + 1 }
    else { y with shown := rep.shown, lastTemplate := none } := by
  simp only [Rec.completed, Bool.or_eq_true, decide_eq_true_eq]
  cases f.kind <;> rfl

theorem completed_cold (x : Rec) (refreshFloor : Int) (f : Refresh) (rep : StateReport) :
    (x.completed refreshFloor f rep).cold = (x.heardState refreshFloor rep).cold := by
  rw [completed_eq]
  simp only
  split <;> rfl

/-- A completed refresh leaves its record as R167 says, then REFRESHING. -/
theorem completeRefresh_leaves (ix : SegIx) (a : Nat) (x : Rec) (f : Refresh) (rep : StateReport) (s : State) :
    LeavesRefreshing ix a f.draw (x.completed s.ps.options.refreshFloor f rep) s (completeRefresh ix a x f rep s) := by
  refine leaveRefreshing_leaves ix a f.draw _ s _ ((OnlyRecord.raiseIf ix a _ _ s).trans (releaseDraw_only ix a f.draw _)) ?_ ?_ ?_ ?_ ?_
  · rw [releaseDraw, setSeg_fr, raiseIf_fr]
  all_goals rw [releaseDraw, seg_setSeg_same, seg_raiseIf]

/-- COLD stands raised once a completed refresh has set the cold flag (R121). -/
theorem completeRefresh_cold {ix : SegIx} {a : Nat} {x : Rec} {f : Refresh} {rep : StateReport} {s : State} (hx : x.cold = false)
    (hcold : (x.completed s.ps.options.refreshFloor f rep).cold = true) : flagSet (completeRefresh ix a x f rep s) .cold = true := by
  have hnew : newlyCold x (x.completed s.ps.options.refreshFloor f rep) = true := by rw [newlyCold, hx, hcold]; rfl
  have hraised : flagSet (releaseDraw ix f.draw (raiseIf (newlyCold x (x.completed s.ps.options.refreshFloor f rep)) .cold s)) .cold = true :=
    flagSet_raiseIf .cold s hnew
  exact flagSet_of_grow (leaveRefreshing_seg ix a _ _).grow hraised

/-- A record that has left REFRESHING is in no refresh. -/
theorem LeavesRefreshing.landed {ix : SegIx} {a draw : Nat} {x : Rec} {s t : State} (h : LeavesRefreshing ix a draw x s t) :
    ∃ y, t.rec? ix a = some y ∧ ∀ f, y.state ≠ .refreshing f := by
  obtain ⟨-, -, -, -, -, hlost, hjudged⟩ := h
  by_cases hm : s.ps.options.missLimit ≤ x.miss
  · obtain ⟨⟨hrec, -, -⟩, -⟩ := hlost hm
    exact ⟨_, hrec, nofun⟩
  · obtain ⟨hneeds, -, hidle⟩ := hjudged (Nat.lt_of_not_le hm)
    cases hn : x.needs with
    | true => exact ⟨_, (hneeds hn rfl).1, nofun⟩
    | false => exact ⟨_, (hidle hn).1, nofun⟩

theorem finalAfterPoll_of_landed {ix : SegIx} {a : Nat} {s : State} {y : Rec} (hy : s.rec? ix a = some y)
    (hl : ∀ f, y.state ≠ .refreshing f) : finalAfterPoll ix a s = s := by
  simp only [finalAfterPoll, hy]
  cases hs : y.state with
  | refreshing f => exact absurd hs (hl f)
  | online => rfl
  | queued => rfl
  | loading => rfl
  | lost => rfl

section Outcome

variable {s : State} {ix : SegIx} {a : Nat} {x : Rec} {f : Refresh} {heard : Heard} (hx : s.rec? ix a = some x)
  (hf : x.state = .refreshing f)
include hx hf

theorem completionOutcome_unheard (h : readState s.lateBytes a heard = .silent ∨ readState s.lateBytes a heard = .garbled) :
    completionOutcome ix a heard s = s := by
  rcases h with h | h <;> simp only [completionOutcome, hx, hf, h]

theorem completionOutcome_of_busy {rep : StateReport} (hrep : readState s.lateBytes a heard = .valid rep) (hb : rep.busy = true) :
    completionOutcome ix a heard s = raiseIf (newlyCold x (x.heardState s.ps.options.refreshFloor rep)) .cold
      (s.putRec ix a (x.heardState s.ps.options.refreshFloor rep)) := by
  simp only [completionOutcome, hx, hf, hrep, hb, if_true]

theorem completionOutcome_of_done {rep : StateReport} (hrep : readState s.lateBytes a heard = .valid rep) (hb : rep.busy = false) :
    completionOutcome ix a heard s = completeRefresh ix a x f rep s := by
  simp only [completionOutcome, hx, hf, hrep, hb, Bool.false_eq_true, if_false]

end Outcome

/-- Settles O50: a completion poll by what was heard and by the final deadline that waits for it (R166–R168). -/
theorem completionPollsEndRefreshes : Obligations.CompletionPollsEndRefreshes := by
  intro s ix a heard x f hup hbus hx hf c gaveUp
  have hexec : exec c s = _ := exec_completionPoll heard hup hbus
  rw [hexec]
  refine ⟨fun hunheard => ?_, fun rep hrep => ?_⟩
  · rw [completionOutcome_unheard hx hf hunheard]
    refine ⟨fun hw => by rw [finalAfterPoll_of_not_waiting hx hf hw], fun hw => ⟨_, rfl, ?_⟩⟩
    rw [finalAfterPoll_of_waiting hx hf hw]
    exact giveUp_leaves ix a x f s
  · intro temp cold y
    let heardAs := raiseIf (newlyCold x y) .cold (s.putRec ix a y)
    have hheard : heardAs.rec? ix a = some y := (rec_raiseIf _ _ _ ix a).trans (rec_putRec_same s ix a y)
    have hbusyEq (hb : rep.busy = true) : completionOutcome ix a heard s = heardAs := completionOutcome_of_busy hx hf hrep hb
    refine ⟨fun hbusy hw => ⟨heardAs, ?_, raiseIf_putRec_only ix a _ _ y s, ?_, raiseIf_putRec_seg ix a _ _ y s, fun hwarm hc => ?_⟩,
      fun hbusy hw => ⟨giveUp ix a y f heardAs, ?_, ?_⟩, fun hdone => ?_⟩
    · rw [hbusyEq hbusy, finalAfterPoll_of_not_waiting hheard hf hw]
    · exact raiseIf_fr _ _ _
    · exact flagSet_raiseIf .cold _ (by rw [newlyCold, hwarm]; exact hc)
    · rw [hbusyEq hbusy, finalAfterPoll_of_waiting hheard hf hw]
    · have hseg := raiseIf_putRec_seg ix a (newlyCold x y) .cold y s
      refine (giveUp_leaves ix a y f heardAs).of_only (raiseIf_putRec_only ix a _ _ y s) (raiseIf_fr _ _ _) ⟨?_, ?_, ?_⟩ ?_ <;> rw [hseg]
    · intro z
      have hz : x.completed s.ps.options.refreshFloor f rep = z := completed_eq x _ f rep
      have hleaves := completeRefresh_leaves ix a x f rep s
      obtain ⟨r, hr, hlanded⟩ := hleaves.landed
      refine ⟨completeRefresh ix a x f rep s, ?_, hz ▸ hleaves, fun hwarm hc => completeRefresh_cold hwarm ?_⟩
      · rw [completionOutcome_of_done hx hf hrep hdone, finalAfterPoll_of_landed hr hlanded]
      · rw [completed_cold]
        exact hc

end Sys2Proof.Machine
end

section
/-! PROOFS. Records created and brought back (spec: R114–R116, R119, R131): which record holds a slot afterwards, and the need
judged from ONLINE, once or again after the face came. -/

namespace Sys2Proof.Machine

/-! ## The holder of a slot through a record put in place -/

theorem Table.mem_put_of_mem {α : Type} {t : Table α} {n : Nat} {e : Nat × α} (x : α) (he : e ∈ t) (hne : e.1 ≠ n) :
    e ∈ Table.put t n x := by
  induction t with
  | nil => cases he
  | cons k t ih =>
    obtain ⟨m, v⟩ := k
    unfold Table.put
    split
    next hm =>
      rcases List.mem_cons.1 he with rfl | he
      · exact absurd hm.symm hne
      · exact List.mem_cons_of_mem _ he
    · split
      · exact List.mem_cons_of_mem _ he
      · rcases List.mem_cons.1 he with rfl | he
        · exact List.mem_cons_self
        · exact List.mem_cons_of_mem _ (ih he)

theorem mem_allRecs {s : State} {q : Place} : q ∈ s.allRecs ↔ (q.address, q.rec_) ∈ (s.seg q.seg).recs := by
  constructor
  · intro h
    obtain ⟨ix, -, hin⟩ := List.mem_flatMap.1 h
    obtain ⟨e, he, rfl⟩ := List.mem_map.1 hin
    exact he
  · intro h
    exact List.mem_flatMap.2 ⟨q.seg, by cases q.seg <;> decide, List.mem_map.2 ⟨(q.address, q.rec_), h, rfl⟩⟩

/-- A slot is free when no record is bound to it. -/
theorem holder_none_iff {s : State} {slot : Nat} : s.holder slot = none ↔ ∀ q ∈ s.allRecs, q.rec_.binding ≠ some slot := by
  rw [State.holder, List.find?_eq_none]
  simp only [decide_eq_true_eq]

theorem mem_allRecs_putRec {s : State} {ix : SegIx} {a : Nat} {x : Rec} {q : Place} (h : q ∈ (s.putRec ix a x).allRecs) :
    q = ⟨ix, a, x⟩ ∨ q ∈ s.allRecs := by
  obtain ⟨jx, b, y⟩ := q
  have hin : (b, y) ∈ ((s.putRec ix a x).seg jx).recs := mem_allRecs.1 h
  by_cases hj : jx = ix
  · subst hj
    rw [seg_putRec_same] at hin
    rcases Table.mem_put hin with heq | hold
    · cases heq
      exact .inl rfl
    · exact .inr (mem_allRecs.2 hold)
  · rw [State.putRec, seg_setSeg_other s _ hj] at hin
    exact .inr (mem_allRecs.2 hin)

/-- A record bound to a slot that nobody holds becomes its holder. -/
theorem holder_putRec_bound {s : State} {slot : Nat} (hfree : s.holder slot = none) (ix : SegIx) (a : Nat) {x : Rec}
    (hx : x.binding = some slot) : (s.putRec ix a x).holder slot = some ⟨ix, a, x⟩ := by
  have hin : (⟨ix, a, x⟩ : Place) ∈ (s.putRec ix a x).allRecs := mem_allRecs.2 (mem_of_get (rec_putRec_same s ix a x))
  cases hh : (s.putRec ix a x).holder slot with
  | none => exact absurd hx (holder_none_iff.1 hh _ hin)
  | some q =>
    have hb : q.rec_.binding = some slot := by
      have := List.find?_some hh
      exact of_decide_eq_true this
    rcases mem_allRecs_putRec (List.mem_of_find?_eq_some hh) with rfl | hold
    · rfl
    · exact absurd hb (holder_none_iff.1 hfree _ hold)

/-- An unbound record added where none stood frees no slot and takes none. -/
theorem holder_putRec_none {s : State} {ix : SegIx} {a : Nat} {x : Rec} (hnew : s.rec? ix a = none) (hx : x.binding = none)
    (slot : Nat) : (s.putRec ix a x).holder slot = none ↔ s.holder slot = none := by
  rw [holder_none_iff, holder_none_iff]
  refine ⟨fun h q hq => h q ?_, fun h q hq => ?_⟩
  · have hin := mem_allRecs.1 hq
    refine mem_allRecs.2 ?_
    by_cases hj : q.seg = ix
    · rw [hj] at hin ⊢
      rw [seg_putRec_same]
      refine Table.mem_put_of_mem x hin (fun ha => ?_)
      have hsome := get_isSome_of_mem hin
      have hnone : Table.get (s.seg ix).recs q.address = none := by
        have haddress : q.address = a := ha
        rw [haddress]
        exact hnew
      rw [hnone] at hsome
      cases hsome
    · rw [State.putRec, seg_setSeg_other s _ hj]
      exact hin
  · rcases mem_allRecs_putRec hq with rfl | hold
    · exact hx ▸ nofun
    · exact h q hold

/-- The bindings alone say whether no two records hold one slot. -/
theorem recordsGood_iff (s : State) : RecordsGood s ↔ (∀ ix, Table.rising (s.seg ix).recs = true)
    ∧ ∀ ix a jx b n, s.bindingAt ix a = some (some n) → s.bindingAt jx b = some (some n) → ix = jx ∧ a = b := by
  refine and_congr_right (fun _ => ⟨fun h ix a jx b n hx hy => ?_, fun h ix a x jx b y n hx hy hbx hby => ?_⟩)
  · obtain ⟨x, hx, hbx⟩ := Option.map_eq_some_iff.1 hx
    obtain ⟨y, hy, hby⟩ := Option.map_eq_some_iff.1 hy
    exact h ix a x jx b y n hx hy hbx hby
  · exact h ix a jx b n (by rw [State.bindingAt, hx]; exact congrArg some hbx) (by rw [State.bindingAt, hy]; exact congrArg some hby)

theorem rising_putRec {s : State} (h : ∀ jx, Table.rising (s.seg jx).recs = true) (ix : SegIx) (a : Nat) (x : Rec) (jx : SegIx) :
    Table.rising ((s.putRec ix a x).seg jx).recs = true := by
  by_cases hj : jx = ix
  · subst hj
    rw [seg_putRec_same]
    exact Table.rising_put (h jx) a x
  · rw [State.putRec, seg_setSeg_other s _ hj]
    exact h jx

theorem RecordsGood.putRec {s : State} (hs : RecordsGood s) {ix : SegIx} {a : Nat} {x y : Rec} (hx : s.rec? ix a = some x)
    (hb : y.binding = x.binding) : RecordsGood (s.putRec ix a y) := by
  rw [recordsGood_iff] at *
  obtain ⟨hrising, hone⟩ := hs
  have hsame (jx : SegIx) (b : Nat) : (s.putRec ix a y).bindingAt jx b = s.bindingAt jx b := by
    rw [bindingAt_putRec]
    split
    next h => rw [h.1, h.2, State.bindingAt, hx, hb]; rfl
    next => rfl
  refine ⟨rising_putRec hrising ix a y, fun jx b kx c n h h' => ?_⟩
  rw [hsame] at h h'
  exact hone jx b kx c n h h'

/-! ## A need judged from ONLINE -/

/-- The record at an address stands as `x`, its need judged from ONLINE beside the queue and the counter of `s` (R147–R150). -/
structure Settles (ix : SegIx) (a : Nat) (x : Rec) (s t : State) : Prop where
  stands : t.rec? ix a = some { x with state := if x.needs then .queued else .online }
  entry : x.needs = true → (∀ e, e ∈ (s.seg ix).queue → e.address ≠ a) →
    entryOf a (t.seg ix).queue = some { address := a, cls := x.derived, sequence := (s.seg ix).sequence, pass := 0 }
  sequence : (t.seg ix).sequence = if x.needs then nextSequence (s.seg ix).sequence else (s.seg ix).sequence

/-- The only entry of a record is the one found for it. -/
theorem entryOf_enterQueue {a : Nat} {e : Entry} {q : List Entry} (he : e.address = a) (h : ∀ x, x ∈ q → x.address ≠ a) :
    entryOf a (enterQueue e q) = some e := by
  cases hf : entryOf a (enterQueue e q) with
  | none =>
    rw [entryOf, List.find?_eq_none] at hf
    exact absurd (decide_eq_true he) (hf e (mem_enterQueue.2 (.inl rfl)))
  | some y =>
    rcases mem_enterQueue.1 (List.mem_of_find?_eq_some hf) with rfl | hy
    · rfl
    · exact absurd (entryOf_address hf) (h y hy)

theorem higher_self (c : QueueClass) : higher c c = c := by cases c <;> rfl

theorem Settles.of_evaluate {ix : SegIx} {a : Nat} {x : Rec} {s : State} (hx : s.rec? ix a = some x) (ho : x.state = .online) :
    Settles ix a x s (evaluate ix a s) := by
  have hget : Table.get (s.seg ix).recs a = some x := hx
  refine ⟨rec_evaluateAt .maint hx (.inl ho), fun hn hno => ?_, ?_⟩
  · rw [seg_evaluate_same, Seg.evaluate_online _ hget ho hn, higher_maint]
    exact entryOf_enterQueue rfl hno
  · rw [seg_evaluate_same]
    cases hn : x.needs with
    | true =>
      rw [Seg.evaluate_online _ hget ho hn]
      rfl
    | false => simp [Seg.evaluate, hget, ho, hn]

/-- The need judged again changes nothing of it. -/
theorem Settles.again {ix : SegIx} {a : Nat} {x : Rec} {s t : State} (h : Settles ix a x s t) : Settles ix a x s (evaluate ix a t) := by
  obtain ⟨hstands, hentry, hsequence⟩ := h
  have hget : Table.get (t.seg ix).recs a = some { x with state := if x.needs then .queued else .online } := hstands
  have hidle : (if x.needs then RecState.queued else .online) = .online ∨ (if x.needs then RecState.queued else .online) = .queued := by
    cases x.needs
    · exact .inl rfl
    · exact .inr rfl
  refine ⟨rec_evaluateAt (x := { x with state := if x.needs then .queued else .online }) .maint hstands hidle, fun hn hno => ?_, ?_⟩
  · rw [hn] at hget
    have hqueue : ((evaluate ix a t).seg ix).queue = raiseEntry a x.derived (t.seg ix).queue := by
      rw [seg_evaluate_same, Seg.evaluate_queued _ hget rfl hn, higher_maint]
      rfl
    rw [hqueue, raiseEntry, hentry hn hno]
    simp only [higher_self]
    exact entryOf_enterQueue rfl (fun e he => (mem_leaveQueue.1 he).2)
  · rw [seg_evaluate_same, ← hsequence]
    cases hn : x.needs with
    | true =>
      rw [hn] at hget
      rw [Seg.evaluate_queued _ hget rfl hn]
    | false =>
      rw [hn] at hget
      have hneeds : ({ x with state := .online } : Rec).needs = false := hn
      simp [Seg.evaluate, hget, hneeds]

/-- Only the queue and the counter of the state before count. -/
theorem Settles.congr {ix : SegIx} {a : Nat} {x : Rec} {s u t : State} (h : Settles ix a x u t) (hq : (u.seg ix).queue = (s.seg ix).queue)
    (hn : (u.seg ix).sequence = (s.seg ix).sequence) : Settles ix a x s t := by
  obtain ⟨hstands, hentry, hsequence⟩ := h
  rw [hq, hn] at hentry
  rw [hn] at hsequence
  exact ⟨hstands, hentry, hsequence⟩

theorem Settles.of_sc {ix : SegIx} {a : Nat} {x : Rec} {s t u : State} (h : Settles ix a x s t) (hsc : u.sc = t.sc) : Settles ix a x s u := by
  have hseg : u.seg ix = t.seg ix := by rw [State.seg, State.seg, hsc]
  obtain ⟨hstands, hentry, hsequence⟩ := h
  rw [← hseg] at hentry hsequence
  exact ⟨(rec_of_sc hsc ix a).trans hstands, hentry, hsequence⟩

theorem Settles.queued {ix : SegIx} {a : Nat} {x : Rec} {s t : State} (h : Settles ix a x s t) (hn : x.needs = true)
    (hno : ∀ e, e ∈ (s.seg ix).queue → e.address ≠ a) :
    { address := a, cls := x.derived, sequence := (s.seg ix).sequence, pass := 0 } ∈ (t.seg ix).queue :=
  List.mem_of_find?_eq_some (h.entry hn hno)

theorem Settles.sequence_queued {ix : SegIx} {a : Nat} {x : Rec} {s t : State} (h : Settles ix a x s t) (hn : x.needs = true) :
    (t.seg ix).sequence = nextSequence (s.seg ix).sequence := h.sequence.trans (if_pos hn)

theorem Settles.sequence_online {ix : SegIx} {a : Nat} {x : Rec} {s t : State} (h : Settles ix a x s t) (hn : x.needs = false) :
    (t.seg ix).sequence = (s.seg ix).sequence := h.sequence.trans (if_neg (by rw [hn]; nofun))

/-! ## The slot's face resolved for its record -/

theorem OnlyRecord.withFr (ix : SegIx) (a : Nat) (s : State) (fr : Resolver) : OnlyRecord ix a s { s with fr } :=
  ⟨(Follows.of_li rfl rfl rfl : Follows s { s with fr }).toSeg ix, rfl, fun _ _ => rfl, rfl, rfl⟩

theorem FlightsKept.trans {ix : SegIx} {s t u : State} (h : FlightsKept ix s t) (h' : FlightsKept ix t u) : FlightsKept ix s u := by
  obtain ⟨hp, ht, hr⟩ := h
  obtain ⟨hp', ht', hr'⟩ := h'
  exact ⟨hp'.trans hp, ht'.trans ht, hr'.trans hr⟩

theorem FlightsKept.of_seg {ix : SegIx} {s t : State} (h : t.seg ix = s.seg ix) : FlightsKept ix s t := by
  unfold FlightsKept
  rw [h]
  exact ⟨rfl, rfl, rfl⟩

theorem FlightsKept.putRec (ix : SegIx) (a : Nat) (x : Rec) (s : State) : FlightsKept ix s (s.putRec ix a x) := by
  unfold FlightsKept
  rw [seg_putRec_same]
  exact ⟨rfl, rfl, rfl⟩

/-- A slot recomputed is work on the record that holds it. -/
theorem recomputeSlot_only {s : State} {slot : Nat} {h : Place} (hh : s.holder slot = some h) :
    OnlyRecord h.seg h.address s (recomputeSlot slot s) := by
  cases hp : Table.get s.ps.panels slot with
  | none =>
    simp only [recomputeSlot, hp]
    exact OnlyRecord.withFr _ _ s _
  | some p =>
    simp only [recomputeSlot, hp, hh]
    split
    · exact OnlyRecord.withFr _ _ s _
    · exact (OnlyRecord.withFr _ _ s _).trans (wantedFaceChange_only _ _ _ _ _)

/-- The segments after a slot is recomputed: as they were, or after a wanted-face change of the record that holds it. -/
theorem recomputeSlot_delivers {s : State} {slot : Nat} {h : Place} (hh : s.holder slot = some h) :
    (recomputeSlot slot s).sc = s.sc
      ∨ ∃ digest template, (recomputeSlot slot s).sc = (wantedFaceChange h.seg h.address digest template s).sc := by
  cases hp : Table.get s.ps.panels slot with
  | none =>
    left
    simp only [recomputeSlot, hp]
    rfl
  | some p =>
    have hsc := recomputeSlot_sc hp hh
    simp only at hsc
    split at hsc
    · exact .inl hsc
    · exact .inr ⟨_, _, hsc⟩

/-- An ONLINE record whose slot is recomputed and whose need is then judged: it has the face it had or the one given. -/
theorem recomputeSlot_settles {s : State} {slot : Nat} {ix : SegIx} {a : Nat} {x : Rec} (hh : s.holder slot = some ⟨ix, a, x⟩)
    (hx : s.rec? ix a = some x) (ho : x.state = .online) :
    (∃ y, (y = x ∨ ∃ digest template, y = givenFace digest template x) ∧ Settles ix a y s (evaluate ix a (recomputeSlot slot s)))
      ∧ FlightsKept ix s (recomputeSlot slot s) := by
  have hseg {u v : State} (h : u.sc = v.sc) : u.seg ix = v.seg ix := by rw [State.seg, State.seg, h]
  rcases recomputeSlot_delivers hh with hsc | ⟨digest, template, hsc⟩
  · refine ⟨⟨x, .inl rfl, ?_⟩, FlightsKept.of_seg (hseg hsc)⟩
    exact (Settles.of_evaluate ((rec_of_sc hsc ix a).trans hx) ho).congr (congrArg _ (hseg hsc)) (congrArg _ (hseg hsc))
  · have hchange := wantedFaceChange_evaluates digest template hx (.inl (by rw [ho]; nofun))
    have hput : (s.putRec ix a (givenFace digest template x)).rec? ix a = some (givenFace digest template x) := rec_putRec_same s ix a _
    have hputseg := seg_putRec_same s ix a (givenFace digest template x)
    rw [hchange] at hsc
    refine ⟨⟨givenFace digest template x, .inr ⟨digest, template, rfl⟩, ?_⟩, ?_⟩
    · have hfirst : Settles ix a (givenFace digest template x) s (evaluate ix a (s.putRec ix a (givenFace digest template x))) :=
        (Settles.of_evaluate hput ho).congr (congrArg Seg.queue hputseg :) (congrArg Seg.sequence hputseg :)
      exact (hfirst.of_sc hsc).again
    · exact ((FlightsKept.putRec ix a _ s).trans (evaluate_flights ix a _)).trans (FlightsKept.of_seg (hseg hsc))

end Sys2Proof.Machine
end

section
/-! PROOFS. Roll call (spec: R114, R115, R129–R132): the record a good IDENT creates, and the turn of an address. -/

namespace Sys2Proof.Machine

/-! ## A record created -/

section Creation

variable {ix : SegIx} {a : Nat} {serial : Serial} {cls : PanelClass} {shown : Option Half} {s : State}

/-- No defined slot holds the serial: a stray (R115). -/
theorem createRecord_unlisted (hslot : s.slotOf serial = none) : createRecord ix a serial cls shown s
    = evaluate ix a (raise .stray (s.putRec ix a (Rec.fresh serial cls shown))) := by
  have hsame : (s.putRec ix a (Rec.fresh serial cls shown)).slotOf serial = none := hslot
  simp only [createRecord, hsame]

/-- The serial's slot is held: a stray (R115). -/
theorem createRecord_taken {n : Nat} (hslot : s.slotOf serial = some n)
    (hheld : (s.putRec ix a (Rec.fresh serial cls shown)).holder n ≠ none) : createRecord ix a serial cls shown s
      = evaluate ix a (raise .panel (raise .stray (s.putRec ix a (Rec.fresh serial cls shown)))) := by
  have hsame : (s.putRec ix a (Rec.fresh serial cls shown)).slotOf serial = some n := hslot
  obtain ⟨q, hq⟩ := Option.ne_none_iff_exists'.1 hheld
  simp only [createRecord, hsame, hq]

/-- The serial's slot is free: the record is bound to it and its face resolved (R115). -/
theorem createRecord_bound {n : Nat} (hslot : s.slotOf serial = some n)
    (hfree : (s.putRec ix a (Rec.fresh serial cls shown)).holder n = none) : createRecord ix a serial cls shown s
      = evaluate ix a (recomputeSlot n (resolverLoses n ((s.putRec ix a (Rec.fresh serial cls shown)).putRec ix a
          { Rec.fresh serial cls shown with binding := some n }))) := by
  have hsame : (s.putRec ix a (Rec.fresh serial cls shown)).slotOf serial = some n := hslot
  simp only [createRecord, hsame, hfree]
  rw [bindRecord_eq n (rec_putRec_same s ix a _)]

end Creation

/-- The slot a created record is bound to: the one its serial defines, if no record holds it (R115). -/
def slotFor (ix : SegIx) (a : Nat) (serial : Serial) (cls : PanelClass) (shown : Option Half) (s : State) : Option Nat :=
  (s.slotOf serial).filter (fun n => ((s.putRec ix a (Rec.fresh serial cls shown)).holder n).isNone)

/-- What a created record is: the values of R131, bound or not, with the face that came with the binding. -/
def createdAs (serial : Serial) (cls : PanelClass) (shown : Option Half) (binding : Option Nat) (digest : Half) (template : Template) : Rec :=
  { Rec.fresh serial cls shown with binding, wantedDigest := digest, wantedTemplate := template }

theorem resolverLoses_sc (slot : Nat) (s : State) : (resolverLoses slot s).sc = s.sc := by
  rw [resolverLoses_eq]

/-- A record created: its need is judged from ONLINE, and nothing beside it moves (R115, R131, R150). -/
theorem createRecord_settles (ix : SegIx) (a : Nat) (serial : Serial) (cls : PanelClass) (shown : Option Half) (s : State) :
    (∃ digest template, Settles ix a (createdAs serial cls shown (slotFor ix a serial cls shown s) digest template) s
        (createRecord ix a serial cls shown s))
      ∧ OnlyRecord ix a s (createRecord ix a serial cls shown s) ∧ FlightsKept ix s (createRecord ix a serial cls shown s) := by
  let fresh := Rec.fresh serial cls shown
  have hput : (s.putRec ix a fresh).rec? ix a = some fresh := rec_putRec_same s ix a fresh
  have hputseg := seg_putRec_same s ix a fresh
  have hstray (u : State) (hsc : u.sc = (s.putRec ix a fresh).sc) (honly : OnlyRecord ix a s u) :
      (∃ digest template, Settles ix a (createdAs serial cls shown none digest template) s (evaluate ix a u))
        ∧ OnlyRecord ix a s (evaluate ix a u) ∧ FlightsKept ix s (evaluate ix a u) := by
    have hseg : u.seg ix = _ := (congrArg (fun g => Segs.get g ix) hsc).trans hputseg
    refine ⟨⟨blankDigest, .blank, ?_⟩, honly.trans (OnlyRecord.evaluate ix a u), ?_⟩
    · exact (Settles.of_evaluate ((rec_of_sc hsc ix a).trans hput) rfl).congr (congrArg Seg.queue hseg :) (congrArg Seg.sequence hseg :)
    · refine FlightsKept.trans ⟨?_, ?_, ?_⟩ (evaluate_flights ix a u) <;> rw [hseg]
  cases hslot : s.slotOf serial with
  | none =>
    rw [createRecord_unlisted hslot, slotFor, hslot]
    exact hstray _ rfl ((OnlyRecord.putRec ix a _ s).trans (OnlyRecord.raise ix a .stray _))
  | some n =>
    by_cases hfree : (s.putRec ix a fresh).holder n = none
    · let bound : Rec := { fresh with binding := some n }
      let v := resolverLoses n ((s.putRec ix a fresh).putRec ix a bound)
      have hfor : slotFor ix a serial cls shown s = some n := by
        rw [slotFor, hslot, Option.filter_some, if_pos]
        rw [hfree]
        rfl
      have hsc : v.sc = ((s.putRec ix a fresh).putRec ix a bound).sc := resolverLoses_sc n _
      have hheld : v.holder n = some ⟨ix, a, bound⟩ := (holder_of_sc hsc n).trans (holder_putRec_bound hfree ix a rfl)
      have hrec : v.rec? ix a = some bound := (rec_of_sc hsc ix a).trans (rec_putRec_same _ ix a bound)
      have hseg : v.seg ix = _ := (congrArg (fun g => Segs.get g ix) hsc).trans (seg_putRec_same _ ix a bound)
      rw [hputseg] at hseg
      have honly : OnlyRecord ix a s v := by
        refine ((OnlyRecord.putRec ix a fresh s).trans (OnlyRecord.putRec ix a bound _)).trans ?_
        show OnlyRecord ix a _ (resolverLoses n _)
        rw [resolverLoses_eq]
        exact OnlyRecord.withFr ix a _ _
      obtain ⟨⟨y, hy, hsettles⟩, hflights⟩ := recomputeSlot_settles hheld hrec rfl
      rw [createRecord_bound hslot hfree, hfor]
      refine ⟨?_, (honly.trans (recomputeSlot_only hheld)).trans (OnlyRecord.evaluate ix a _), ?_⟩
      · have hsettled := hsettles.congr (s := s) (congrArg Seg.queue hseg :) (congrArg Seg.sequence hseg :)
        rcases hy with rfl | ⟨digest, template, rfl⟩
        · exact ⟨blankDigest, .blank, hsettled⟩
        · exact ⟨digest, template, hsettled⟩
      · refine (FlightsKept.trans ⟨?_, ?_, ?_⟩ hflights).trans (evaluate_flights ix a _) <;> rw [hseg]
    · have hfor : slotFor ix a serial cls shown s = none := by
        rw [slotFor, hslot, Option.filter_some, if_neg]
        rw [Option.isNone_iff_eq_none]
        exact hfree
      rw [createRecord_taken hslot hfree, hfor]
      exact hstray _ rfl (((OnlyRecord.putRec ix a _ s).trans (OnlyRecord.raise ix a .stray _)).trans (OnlyRecord.raise ix a .panel _))

section Flags

variable {ix : SegIx} {a : Nat} {serial : Serial} {cls : PanelClass} {shown : Option Half} {s : State}

theorem createRecord_unlisted_raises (hslot : s.slotOf serial = none) : flagSet (createRecord ix a serial cls shown s) .stray = true := by
  rw [createRecord_unlisted hslot]
  exact flagSet_of_grow (evaluate_follows ix a _).grow (flagSet_raise .stray _)

theorem createRecord_taken_raises {n : Nat} (hslot : s.slotOf serial = some n)
    (hheld : (s.putRec ix a (Rec.fresh serial cls shown)).holder n ≠ none) :
    flagSet (createRecord ix a serial cls shown s) .stray = true ∧ flagSet (createRecord ix a serial cls shown s) .panel = true := by
  rw [createRecord_taken hslot hheld]
  have hgrow := (evaluate_follows ix a (raise .panel (raise .stray (s.putRec ix a (Rec.fresh serial cls shown))))).grow
  refine ⟨flagSet_of_grow hgrow ?_, flagSet_of_grow hgrow (flagSet_raise .panel _)⟩
  exact flagSet_of_grow (raise_follows .panel _).grow (flagSet_raise .stray _)

end Flags

/-! ## The turn of an address -/

theorem exec_dropExchange {s : State} (ix : SegIx) (hup : s.resetPin = false) : exec (.dropExchange ix) s = .next (endDrop ix s) := by
  have hexec : exec (.dropExchange ix) s = whenUp (endDrop ix) s := rfl
  rw [hexec, whenUp_up hup]

theorem exec_rollCallIdent {s : State} (ix : SegIx) (heard : Heard) (hup : s.resetPin = false) :
    exec (.rollCallIdent ix heard) s = .next (endRollIdent ix heard s) := by
  have hexec : exec (.rollCallIdent ix heard) s = whenUp (endRollIdent ix heard) s := rfl
  rw [hexec, whenUp_up hup]

theorem exec_chooseExchange_quiet {s : State} {ix : SegIx} (hup : s.resetPin = false) (hbus : (s.seg ix).bus = none) :
    exec (.chooseExchange ix) s = .next (chooseNext ix s) := by
  have hexec : exec (.chooseExchange ix) s = whenUp (chooseIfQuiet ix) s := rfl
  rw [hexec, whenUp_up hup, chooseIfQuiet, hbus]

/-- Settles O51: pending DROPs, and roll call's turn of an address by what its IDENT brings (R122, R126, R130–R132). -/
theorem rollCallGoesThroughTheAddresses : Obligations.RollCallGoesThroughTheAddresses := by
  intro s ix heard hup g drop ident
  have hdrop : exec drop s = _ := exec_dropExchange ix hup
  have hident : exec ident s = _ := exec_rollCallIdent ix heard hup
  rw [hdrop, hident]
  refine ⟨fun u hlow => if_neg (Nat.not_le.2 hlow), fun u huup hhigh => ?_, fun a hbus => ?_, fun a hbus => ?_, fun a hbus hno => ?_,
    fun a hbus => ?_⟩
  · rw [exec_chooseExchange_quiet (s := u.setSeg ix { u.seg ix with bus := none, mode := .run }) huup (by rw [seg_setSeg_same])]
    exact congrArg _ (if_pos hhigh).symm
  · have hin : (s.seg ix).bus = some (.drop a) := hbus
    have hend : endDrop ix s = endExchange ix (s.setSeg ix { s.seg ix with drops := (s.seg ix).drops.filter (· ≠ a) }) := by
      simp only [endDrop, hin]
    rw [hend]
  · have hin : (s.seg ix).bus = some (.giveDrop a) := hbus
    rw [endDrop, hin]
  · have hin : (s.seg ix).bus = some (.rollDrop a) := hbus
    rw [endDrop, hin]
    simp only [deleteRecord, hno]
  · intro dropped
    have hin : (s.seg ix).bus = some (.rollIdent a) := hbus
    simp only [endRollIdent, hin]
    refine ⟨fun hr => by rw [hr], fun hr => by rw [hr]; rfl, fun id hr hcls => ?_, fun id k hr hcls => ?_⟩
    · simp only [hr, hcls]
      rfl
    · simp only [hr, hcls]
      obtain ⟨⟨digest, template, hsettles⟩, honly, hflights⟩ := createRecord_settles ix a id.serial k id.shown s
      generalize hcreated : createdAs id.serial k id.shown (slotFor ix a id.serial k id.shown s) digest template = x at hsettles
      have hbinding : x.binding = slotFor ix a id.serial k id.shown s := by rw [← hcreated]; rfl
      have hheld (n : Nat) (hslot : s.slotOf id.serial = some n) : x.binding
          = if (s.putRec ix a (Rec.fresh id.serial k id.shown)).holder n = none then some n else none := by
        rw [hbinding, slotFor, hslot, Option.filter_some]
        exact if_congr Option.isNone_iff_eq_none rfl rfl
      refine ⟨createRecord ix a id.serial k id.shown s, { x with state := if x.needs then .queued else .online }, rfl, honly, hflights,
        hsettles.stands, fun n hn => ?_, ?_, rfl, fun hn hempty => ⟨hsettles.queued hn hempty, hsettles.sequence_queued hn⟩,
        fun hn => hsettles.sequence_online hn, fun hnew hgood n hslot => ?_,
        fun hslot => ⟨?_, ?_, createRecord_unlisted_raises hslot⟩⟩
      · have hb : slotFor ix a id.serial k id.shown s = some n := hbinding.symm.trans hn
        rw [slotFor, Option.filter_eq_some_iff] at hb
        exact hb.1
      · rw [← hcreated]
        cases (createdAs id.serial k id.shown (slotFor ix a id.serial k id.shown s) digest template).needs <;> cases k <;> rfl
      · have hiff := holder_putRec_none (x := Rec.fresh id.serial k id.shown) hnew rfl n
        have hb := hheld n hslot
        refine ⟨fun hfree => ?_, fun htaken => ⟨?_, createRecord_taken_raises hslot (fun h => htaken (hiff.1 h))⟩⟩
        · rw [if_pos (hiff.2 hfree)] at hb
          exact hb
        · rw [if_neg (fun h => htaken (hiff.1 h))] at hb
          exact hb
      · show x.binding = none
        rw [hbinding, slotFor, hslot]
        rfl
      · rw [createRecord_unlisted hslot]
        rfl

end Sys2Proof.Machine
end

section
/-! PROOFS. The search of an enrolment (spec: R134, R137–R144): the drain, KEY, the stack of stems, and the address given. -/

namespace Sys2Proof.Machine

/-! ## The choice outside RUN and DRAINING -/

section Choice

variable {ix : SegIx} {s : State}

theorem chooseNext_drained (hm : (s.seg ix).mode = .draining) (hd : (s.seg ix).drained = true) :
    chooseNext ix s = s.setSeg ix (s.seg ix).enterKeying := by
  simp only [chooseNext, hm, hd, if_true]

theorem chooseNext_starting (hm : (s.seg ix).mode = .starting) : chooseNext ix s =
    if s.ps.plan = .loading then s else s.setSeg ix { s.seg ix with bus := some (.rollIdent (s.seg ix).rollAddr) } := by
  simp only [chooseNext, hm]

theorem chooseNext_keying (hm : (s.seg ix).mode = .keying) :
    chooseNext ix s = s.setSeg ix { s.seg ix with bus := some .key } := by
  simp only [chooseNext, hm]

theorem chooseNext_run (hm : (s.seg ix).mode = .run) : chooseNext ix s = chooseByUse ix s := by
  simp only [chooseNext, hm]

/-- A waiting stop ends the search (R144). -/
theorem chooseNext_stopped (hm : (s.seg ix).mode = .searching) (hstop : (s.seg ix).stopWaiting = true) :
    chooseNext ix s = chooseByUse ix (endEnrolment ix .stopped s) := by
  simp only [chooseNext, hm, hstop, if_true]

/-- An empty stack ends it too (R143). -/
theorem chooseNext_done (hm : (s.seg ix).mode = .searching) (hstop : (s.seg ix).stopWaiting = false) (hstack : (s.seg ix).stack = []) :
    chooseNext ix s = chooseByUse ix (endEnrolment ix .done s) := by
  simp only [chooseNext, hm, hstop, hstack, Bool.false_eq_true, if_false]

/-- Else the top stem is asked for (R139). -/
theorem chooseNext_asks {stem : Bits} {rest : List Bits} (hm : (s.seg ix).mode = .searching) (hstop : (s.seg ix).stopWaiting = false)
    (hstack : (s.seg ix).stack = stem :: rest) :
    chooseNext ix s = s.setSeg ix { s.seg ix with stack := rest, bus := some (.ask stem) } := by
  simp only [chooseNext, hm, hstop, Bool.false_eq_true, if_false]
  split
  next hnil => cases hstack.symm.trans hnil
  next top under hcons =>
    cases hstack.symm.trans hcons
    rfl

theorem seg_endEnrolment (ix : SegIx) (result : EnrolResult) (s : State) : (endEnrolment ix result s).seg ix =
    { s.seg ix with stack := [], stopWaiting := false, lastEnrol := some (result, (s.seg ix).enrolCount), mode := .run } := by
  rw [endEnrolment, seg_raise, seg_setSeg_same]

/-- The segment whose enrolment has ended chooses as in RUN. -/
theorem exec_chooseExchange_ended (result : EnrolResult) (hup : s.resetPin = false) (hbus : (s.seg ix).bus = none) :
    exec (.chooseExchange ix) (endEnrolment ix result s) = .next (chooseByUse ix (endEnrolment ix result s)) := by
  have hseg := seg_endEnrolment ix result s
  have hquiet : ((endEnrolment ix result s).seg ix).bus = none := by rw [hseg]; exact hbus
  have hrun : ((endEnrolment ix result s).seg ix).mode = .run := by rw [hseg]
  rw [exec_chooseExchange_quiet (s := endEnrolment ix result s) hup hquiet, chooseNext_run hrun]

end Choice

theorem exec_drainComplete {s : State} (ix : SegIx) (hup : s.resetPin = false) : exec (.drainComplete ix) s = .next (judgeDrain ix s) := by
  have hexec : exec (.drainComplete ix) s = whenUp (judgeDrain ix) s := rfl
  rw [hexec, whenUp_up hup]

theorem exec_keyExchange {s : State} (ix : SegIx) (hup : s.resetPin = false) :
    exec (.keyExchange ix) s = .next (endKey ix s) := by
  have hexec : exec (.keyExchange ix) s = whenUp (endKey ix) s := rfl
  rw [hexec, whenUp_up hup]

theorem exec_askExchange {s : State} (ix : SegIx) (heard : Heard) (hup : s.resetPin = false) :
    exec (.askExchange ix heard) s = .next (endAsk ix heard s) := by
  have hexec : exec (.askExchange ix heard) s = whenUp (endAsk ix heard) s := rfl
  rw [hexec, whenUp_up hup]

/-! ## The address given -/

/-- An address that no record of the segment holds and no DROP pends for. -/
def Seg.isFree (g : Seg) (a : Nat) : Prop := 1 ≤ a ∧ a ≤ 96 ∧ Table.get g.recs a = none ∧ a ∉ g.drops

theorem isFree_iff {g : Seg} {a : Nat} :
    g.isFree a ↔ a ∈ (List.range Config.addresses).map (· + 1) ∧ ((Table.get g.recs a).isNone && !g.drops.contains a) = true := by
  have hrange : a ∈ (List.range Config.addresses).map (· + 1) ↔ 1 ≤ a ∧ a ≤ 96 := by
    simp only [List.mem_map, List.mem_range, Config.addresses]
    exact ⟨fun ⟨b, hb, h⟩ => by omega, fun ⟨h1, h2⟩ => ⟨a - 1, by omega, by omega⟩⟩
  rw [hrange, Bool.and_eq_true, Option.isNone_iff_eq_none, Bool.not_eq_true', ← Bool.not_eq_true, List.contains_iff_mem, and_assoc]
  rfl

theorem freeAddress_none {g : Seg} (h : ∀ a, ¬ g.isFree a) : freeAddress g = none :=
  List.find?_eq_none.2 (fun a ha hfree => h a (isFree_iff.2 ⟨ha, hfree⟩))

/-- The lowest free address (R140). -/
theorem freeAddress_least {g : Seg} {a : Nat} (ha : g.isFree a) (hleast : ∀ b, g.isFree b → a ≤ b) : freeAddress g = some a := by
  obtain ⟨hin, hfree⟩ := isFree_iff.1 ha
  rw [freeAddress, List.find?_eq_some_iff_getElem]
  refine ⟨hfree, ?_⟩
  obtain ⟨i, hi, rfl⟩ := List.mem_map.1 hin
  have hlt : i < Config.addresses := List.mem_range.1 hi
  refine ⟨i, by rw [List.length_map, List.length_range]; exact hlt, by rw [List.getElem_map, List.getElem_range], fun j hj => ?_⟩
  rw [List.getElem_map, List.getElem_range, Bool.not_eq_true', Bool.eq_false_iff]
  intro hjfree
  have hjin : j + 1 ∈ (List.range Config.addresses).map (· + 1) := List.mem_map.2 ⟨j, List.mem_range.2 (lt_trans hj hlt), rfl⟩
  have := hleast (j + 1) (isFree_iff.2 ⟨hjin, hjfree⟩)
  omega

/-- Settles O52: the drain, and the search from the empty stem to its end (R134, R137–R144). -/
theorem enrolmentSearchesTheTree : Obligations.EnrolmentSearchesTheTree := by
  intro s ix heard hup g choose begins keying ended
  have hdrain : exec (.drainComplete ix) s = _ := exec_drainComplete ix hup
  rw [hdrain]
  refine ⟨fun hm hd => ⟨congrArg _ (judgeDrain_quiet hm hd), ?_⟩, fun hstays => congrArg _ (judgeDrain_stands ?_), fun hbus => ?_,
    fun hbus => ?_, fun stem hbus => ?_⟩
  · have hchoose : exec choose s = _ := exec_chooseExchange_quiet hup ((drained_iff g).1 hd).1
    rw [hchoose, chooseNext_drained hm hd]
    rfl
  · rintro ⟨hm, hd⟩
    exact hstays.elim (fun h => h hm) (fun h => by cases h.symm.trans hd)
  · have hchoose : exec choose s = _ := exec_chooseExchange_quiet hup hbus
    have hended (result : EnrolResult) : exec choose (ended result) = _ := exec_chooseExchange_ended result hup hbus
    rw [hchoose, hended, hended]
    refine ⟨fun hm hp => ?_, fun hm hp => ?_, fun hm => ?_, fun hm hstop => ?_, fun hm hstop hempty => ?_, fun stem rest hm hstop hstack => ?_⟩
    · rw [chooseNext_starting hm, if_pos hp]
    · rw [chooseNext_starting hm, if_neg hp]
    · rw [chooseNext_keying hm]
    · exact congrArg _ (chooseNext_stopped hm hstop)
    · exact congrArg _ (chooseNext_done hm hstop hempty)
    · exact congrArg _ (chooseNext_asks hm hstop hstack)
  · have hkey : exec (.keyExchange ix) s = _ := exec_keyExchange ix hup
    have hin : (s.seg ix).bus = some .key := hbus
    have hend : endKey ix s = endExchange ix (s.setSeg ix { s.seg ix with mode := .searching, stack := [[]] }) := by
      simp only [endKey, hin]
    rw [hkey, hend]
  · intro c collided free
    have hask : exec c s = _ := exec_askExchange ix heard hup
    have hin : (s.seg ix).bus = some (.ask stem) := hbus
    have hcollides (h : collided) : endAsk ix heard s = endExchange ix (askCollided ix stem s) := by
      rcases h with hr | ⟨n, hr, hstem⟩
      · simp only [endAsk, hin, hr]
      · simp only [endAsk, hin, hr, hstem, Bool.false_eq_true, if_false]
    rw [hask]
    refine ⟨fun hr => ?_, fun hcollided hshort => ?_, fun hcollided hlong => ?_, fun n hr hstem => ?_⟩
    · simp only [endAsk, hin, hr]
    · rw [hcollides hcollided, askCollided, if_pos hshort]
    · rw [hcollides hcollided, askCollided, if_neg (Nat.not_lt.2 hlong)]
    · have hanswered : endAsk ix heard s = askAnswered ix n s := by simp only [endAsk, hin, hr, hstem, if_true]
      have hgoes (h : g.stopWaiting = false) : ¬ (s.seg ix).stopWaiting = true := by rw [Bool.not_eq_true]; exact h
      rw [hanswered, askAnswered]
      refine ⟨fun hstop => congrArg _ (if_pos hstop), fun hstop hno => ?_, fun a hstop hfree hleast => ?_⟩
      · rw [if_neg (hgoes hstop), freeAddress_none hno]
        rfl
      · rw [if_neg (hgoes hstop), freeAddress_least hfree hleast]
        rfl

end Sys2Proof.Machine
end

section
/-! PROOFS. The choice of the next exchange and the admission of a refresh (spec: R117, R122, R151, R153–R156, R159, R166). -/

namespace Sys2Proof.Machine

/-! ## The completion poll due first -/

/-- The time at which a record's completion poll waits to be sent. -/
def Rec.dueTime (r : Rec) : Option Nat :=
  match r.state with
  | .refreshing f => f.due
  | .online => none
  | .queued => none
  | .loading => none
  | .lost => none

theorem dueTime_refreshing {r : Rec} {f : Refresh} (hf : r.state = .refreshing f) : r.dueTime = f.due := by
  simp only [Rec.dueTime, hf]

theorem refreshing_of_dueTime {r : Rec} {d : Nat} (h : r.dueTime = some d) : ∃ f, r.state = .refreshing f ∧ f.due = some d := by
  unfold Rec.dueTime at h
  cases hs : r.state with
  | refreshing f =>
    rw [hs] at h
    exact ⟨f, rfl, h⟩
  | online => rw [hs] at h; cases h
  | queued => rw [hs] at h; cases h
  | loading => rw [hs] at h; cases h
  | lost => rw [hs] at h; cases h

theorem firstDue_cons (a : Nat) (r : Rec) (t : Table Rec) : firstDue ((a, r) :: t) = match r.dueTime, firstDue t with
    | none, x => x
    | some d, none => some (d, a)
    | some d, some x => if x.1 < d then some x else some (d, a) := by
  unfold Rec.dueTime
  rw [firstDue]
  cases r.state with
  | refreshing f =>
    simp only
    cases f.due with
    | none => rfl
    | some d => cases firstDue t <;> rfl
  | online => rfl
  | queued => rfl
  | loading => rfl
  | lost => rfl

/-- What is found due first is due, and before every other; of two due together, the lower address (R122). -/
theorem firstDue_spec {t : Table Rec} (ht : t.Pairwise (fun x y => x.1 < y.1)) :
    (firstDue t = none → ∀ e ∈ t, e.2.dueTime = none)
      ∧ ∀ d a, firstDue t = some (d, a) → (∃ x, (a, x) ∈ t ∧ x.dueTime = some d)
          ∧ ∀ e ∈ t, ∀ d', e.2.dueTime = some d' → d < d' ∨ (d = d' ∧ a ≤ e.1) := by
  induction t with
  | nil => exact ⟨fun _ _ he => (List.not_mem_nil he).elim, fun d a h => by simp only [firstDue, reduceCtorEq] at h⟩
  | cons k t ih =>
    obtain ⟨b, y⟩ := k
    obtain ⟨hlow, ht⟩ := List.pairwise_cons.1 ht
    obtain ⟨hnone, hsome⟩ := ih ht
    rw [firstDue_cons]
    cases hy : y.dueTime with
    | none =>
      refine ⟨fun h => List.forall_mem_cons.2 ⟨hy, hnone h⟩, fun d a h => ?_⟩
      obtain ⟨⟨x, hx, hd⟩, hleast⟩ := hsome d a h
      exact ⟨⟨x, List.mem_cons_of_mem _ hx, hd⟩, List.forall_mem_cons.2 ⟨fun d' hd' => (by cases hy.symm.trans hd'), hleast⟩⟩
    | some m =>
      cases hf : firstDue t with
      | none =>
        refine ⟨nofun, fun d a h => ?_⟩
        cases h
        refine ⟨⟨y, List.mem_cons_self, hy⟩, List.forall_mem_cons.2 ⟨fun d' hd' => .inr ⟨?_, le_rfl⟩, fun e he d' hd' => ?_⟩⟩
        · cases hy.symm.trans hd'
          rfl
        · cases (hnone hf e he).symm.trans hd'
      | some x =>
        obtain ⟨⟨z, hz, hd⟩, hleast⟩ := hsome x.1 x.2 hf
        simp only
        split
        next hlt =>
          refine ⟨nofun, fun d a h => ?_⟩
          cases h
          refine ⟨⟨z, List.mem_cons_of_mem _ hz, hd⟩, List.forall_mem_cons.2 ⟨fun d' hd' => .inl ?_, hleast⟩⟩
          cases hy.symm.trans hd'
          exact hlt
        next hge =>
          refine ⟨nofun, fun d a h => ?_⟩
          cases h
          refine ⟨⟨y, List.mem_cons_self, hy⟩, List.forall_mem_cons.2 ⟨fun d' hd' => .inr ⟨?_, le_rfl⟩, fun e he d' hd' => ?_⟩⟩
          · cases hy.symm.trans hd'
            rfl
          · have hbe := hlow e he
            rcases hleast e he d' hd' with hlt | ⟨heq, -⟩ <;> omega

/-- The completion poll due before all others is the one found. -/
theorem firstDue_eq {t : Table Rec} (ht : Table.rising t = true) {a d : Nat} {x : Rec} (hx : Table.get t a = some x)
    (hd : x.dueTime = some d)
    (hfirst : ∀ b y e, Table.get t b = some y → y.dueTime = some e → d < e ∨ (d = e ∧ a ≤ b)) : firstDue t = some (d, a) := by
  obtain ⟨hnone, hsome⟩ := firstDue_spec ((Table.rising_iff t).1 ht)
  cases hf : firstDue t with
  | none => cases (hnone hf _ (mem_of_get hx)).symm.trans hd
  | some p =>
    obtain ⟨e, b⟩ := p
    obtain ⟨⟨y, hy, he⟩, hleast⟩ := hsome e b hf
    have hba := hleast _ (mem_of_get hx) d hd
    have hab := hfirst b y e (Table.get_of_mem ht hy) he
    have hde : d = e := by omega
    have hsame : a = b := by simp only at hba; omega
    rw [hde, hsame]

/-! ## The exchanges that begin -/

/-- An entry changed in its place is the entry written anew. -/
theorem Table.map_at_eq_put {α : Type} {t : Table α} (ht : Table.rising t = true) {a : Nat} {x : α} (hx : Table.get t a = some x)
    (f : α → α) : t.map (fun e => if e.1 = a then (e.1, f e.2) else e) = Table.put t a (f x) := by
  rw [Table.rising_iff] at ht
  induction t with
  | nil => cases hx
  | cons k t ih =>
    obtain ⟨n, v⟩ := k
    obtain ⟨hlow, ht⟩ := List.pairwise_cons.1 ht
    rw [Table.get_cons] at hx
    rw [List.map_cons]
    unfold Table.put
    by_cases hn : n = a
    · rw [if_pos hn] at hx
      cases hx
      rw [if_pos hn, if_pos hn.symm, hn]
      refine congrArg _ ((List.map_congr_left (fun e he => ?_)).trans (List.map_id t))
      have hlt := hlow e he
      exact if_neg (fun h => by simp only at hlt; omega)
    · rw [if_neg hn] at hx
      rw [if_neg hn, if_neg (Ne.symm hn), if_neg (by rw [hx]; exact fun h => by cases h.2), ih ht hx]

/-- The record polled next: the first at the pointer or above it, else the lowest (R117). -/
def polledFirst (recs : Table Rec) (pointer a : Nat) : Prop :=
  (pointer ≤ a ∧ ∀ b y, Table.get recs b = some y → pointer ≤ b → a ≤ b)
    ∨ ((∀ b y, Table.get recs b = some y → b < pointer) ∧ ∀ b y, Table.get recs b = some y → a ≤ b)

theorem roundRobin_eq {recs : Table Rec} (hr : Table.rising recs = true) {pointer a : Nat} {x : Rec} (hx : Table.get recs a = some x)
    (hfirst : polledFirst recs pointer a) : roundRobin recs pointer = some (a, x) := by
  have hin := mem_of_get hx
  have hget (e : Nat × Rec) (he : e ∈ recs) : Table.get recs e.1 = some e.2 := Table.get_of_mem hr he
  have hone (e : Nat × Rec) (he : e ∈ recs) (hle : e.1 ≤ a) (hge : a ≤ e.1) : e = (a, x) := by
    have hkey : e.1 = a := by omega
    have hval := hget e he
    rw [hkey, hx] at hval
    exact Prod.ext hkey (Option.some.inj hval).symm
  have hsorted := (Table.rising_iff recs).1 hr
  unfold roundRobin
  rcases hfirst with ⟨hpast, hleast⟩ | ⟨hnone, hleast⟩
  · obtain ⟨before, after, rfl⟩ := List.append_of_mem hin
    have hbefore : ∀ e ∈ before, ¬ (decide (pointer ≤ e.1)) = true := by
      intro e he hp
      have hle := hleast e.1 e.2 (hget e (List.mem_append_left _ he)) (of_decide_eq_true hp)
      have hlt := (List.pairwise_append.1 hsorted).2.2 e he (a, x) List.mem_cons_self
      simp only at hlt
      omega
    rw [List.find?_append, List.find?_eq_none.2 hbefore, Option.none_or, List.find?_cons_of_pos (p := fun e : Nat × Rec => decide (pointer ≤ e.1)) (decide_eq_true hpast)]
  · have hno : recs.find? (fun e => pointer ≤ e.1) = none :=
      List.find?_eq_none.2 (fun e he hp => Nat.not_le.2 (hnone e.1 e.2 (hget e he)) (of_decide_eq_true hp))
    rw [hno]
    cases recs with
    | nil => cases hin
    | cons e t =>
      refine congrArg some (hone e List.mem_cons_self ?_ (hleast e.1 e.2 (hget e List.mem_cons_self)))
      rcases List.mem_cons.1 hin with heq | hin
      · rw [← heq]
      · exact Nat.le_of_lt ((List.pairwise_cons.1 hsorted).1 _ hin)

section UseOrder

variable {s : State} {ix : SegIx}

/-- Order 1 of R122: a DROP that pends. -/
theorem chooseByUse_drop {a : Nat} {rest : List Nat} (hdrops : (s.seg ix).drops = a :: rest) :
    chooseByUse ix s = s.setSeg ix { s.seg ix with bus := some (.drop a) } := by
  unfold chooseByUse
  simp only
  split
  next b later hb =>
    cases hdrops.symm.trans hb
    rfl
  next hnil => cases hdrops.symm.trans hnil

/-- A completion poll is sent: the due time of the record's refresh is taken off (R166). -/
theorem Seg.startCompletion_eq {g : Seg} (hr : Table.rising g.recs = true) {a : Nat} {x : Rec} {f : Refresh} (hx : Table.get g.recs a = some x)
    (hf : x.state = .refreshing f) : g.startCompletion a
      = { g with bus := some (.completion a), recs := Table.put g.recs a { x with state := .refreshing { f with due := none } } } := by
  have hput := Table.map_at_eq_put hr hx (fun r => match r.state with
    | .refreshing f => { r with state := .refreshing { f with due := none } }
    | .online => r
    | .queued => r
    | .loading => r
    | .lost => r)
  simp only [hf] at hput
  rw [← hput]
  rfl

/-- Order 2 of R122: the completion poll due first is sent, its due time taken off (R166). -/
theorem chooseByUse_completion (hs : RecordsGood s) (hdrops : (s.seg ix).drops = []) {a d : Nat} {x : Rec} {f : Refresh}
    (hx : s.rec? ix a = some x) (hf : x.state = .refreshing f) (hdue : firstDue (s.seg ix).recs = some (d, a)) :
    chooseByUse ix s = (s.setSeg ix { s.seg ix with bus := some (.completion a) }).putRec ix a
      { x with state := .refreshing { f with due := none } } := by
  have hseg := Seg.startCompletion_eq (hs.1 ix) hx hf
  simp only [chooseByUse, hdrops, hdue, hseg, State.putRec, seg_setSeg_same, setSeg_setSeg]

/-- Order 3 of R122: the next chunk of the transfer. -/
theorem chooseByUse_load {t : Transfer} (hdrops : (s.seg ix).drops = []) (hdue : firstDue (s.seg ix).recs = none)
    (ht : (s.seg ix).transfer = some t) (hready : t.ready = true) (hleft : t.next < t.total) :
    chooseByUse ix s = s.setSeg ix ((s.seg ix).startLoad t) := by
  have hframe : (s.seg ix).startTransferFrame = some ((s.seg ix).startLoad t) := by
    simp only [Seg.startTransferFrame, ht, hready, hleft, if_true]
  simp only [chooseByUse, hdrops, hdue, hframe]

theorem startTransferFrame_none (h : ∀ t, (s.seg ix).transfer = some t → t.ready = false) : (s.seg ix).startTransferFrame = none := by
  unfold Seg.startTransferFrame
  cases ht : (s.seg ix).transfer with
  | none => rfl
  | some t => exact if_neg (by rw [h t ht]; nofun)

/-- Order 4 of R122: an admission. -/
theorem chooseByUse_admission (hdrops : (s.seg ix).drops = []) (hdue : firstDue (s.seg ix).recs = none)
    (hframe : (s.seg ix).startTransferFrame = none) {f : Found} {x : Rec} (hf : admission ix s = some (f, x)) :
    chooseByUse ix s = admitEntry ix f x s := by
  simp only [chooseByUse, hdrops, hdue, hframe, hf]

/-- Order 5 of R122: the next round-robin poll. -/
theorem chooseByUse_poll (hdrops : (s.seg ix).drops = []) (hdue : firstDue (s.seg ix).recs = none)
    (hframe : (s.seg ix).startTransferFrame = none) (hno : admission ix s = none) :
    chooseByUse ix s = s.setSeg ix (s.seg ix).startRoundRobin := by
  simp only [chooseByUse, hdrops, hdue, hframe, hno]

/-- Nothing is admitted while the segment drains (R154). -/
theorem admission_draining (hm : (s.seg ix).mode = .draining) : admission ix s = none :=
  if_neg (fun h => by cases hm.symm.trans h.1)

theorem firstDue_none (hs : RecordsGood s) (h : ∀ a x f, s.rec? ix a = some x → x.state = .refreshing f → f.due = none) :
    firstDue (s.seg ix).recs = none :=
  firstDue_eq_none (fun e he f hf => h e.1 e.2 f (Table.get_of_mem (hs.1 ix) he) hf)

end UseOrder

/-- Settles O41: the choice by the use order of R122, the same choice at the end of an exchange, and the frames sent. -/
theorem exchangesAreChosenInUseOrder : Obligations.ExchangesAreChosenInUseOrder := by
  refine ⟨fun s ix hup hbus hmode hs => ?_, fun s ix hup => ?_, fun ix a => ?_⟩
  · intro g c begins noDue noFrame first
    have hchoose : exec c s = _ := exec_chooseExchange_use hup hbus hmode
    rw [hchoose]
    refine ⟨fun a rest hdrops => ?_, fun a x f d hdrops hx hf hd hleast => ?_, fun t hdrops hdue ht hready hleft => ?_,
      fun t x hdrops hdue ht hready hsent hx => ?_, fun hdrops hdue hframe hno => ?_⟩
    · exact congrArg _ (chooseByUse_drop hdrops)
    · refine congrArg _ (chooseByUse_completion hs hdrops hx hf (d := d) (firstDue_eq (hs.1 ix) hx ?_ fun b y e hy he => ?_))
      · rw [dueTime_refreshing hf, hd]
      · obtain ⟨h, hh, hhd⟩ := refreshing_of_dueTime he
        exact hleast b y h e hy hh hhd
    · exact congrArg _ (chooseByUse_load hdrops (firstDue_none hs hdue) ht hready hleft)
    · exact congrArg _ (chooseByUse_show hdrops (firstDue_none hs hdue) ht hready hsent hx)
    · have hnone : admission ix s = none := hno.elim id admission_draining
      rw [chooseByUse_poll hdrops (firstDue_none hs hdue) (startTransferFrame_none hframe) hnone]
      refine ⟨fun hempty => ?_, fun a x hx hfirst => ?_⟩
      · have hnil : (s.seg ix).recs = [] := hempty
        have hstands : (s.seg ix).startRoundRobin = s.seg ix := by simp only [Seg.startRoundRobin, roundRobin, hnil, List.find?_nil, List.head?_nil]
        rw [hstands, setSeg_seg]
      · have hfound : roundRobin (s.seg ix).recs (s.seg ix).pointer = some (a, x) := roundRobin_eq (hs.1 ix) hx hfirst
        simp only [Seg.startRoundRobin, hfound]
        rfl
  · intro g readied
    exact exec_chooseExchange_quiet (s := s.setSeg ix { g with bus := none, transfer := readied }) hup (by rw [seg_setSeg_same])
  · intro sent
    exact ⟨rfl, rfl, fun _ _ _ => rfl, fun kind _ _ => by cases kind <;> rfl, rfl, rfl, rfl, fun _ => rfl, fun _ => rfl, rfl, rfl, rfl⟩

end Sys2Proof.Machine
end

section
/-! PROOFS. Admission (spec: R151, R153–R156): the scan of the queue, entry by entry, and the record admitted. -/

namespace Sys2Proof.Machine

/-! ## The scan -/

/-- The draw chosen for an entry when the scan considers it (R151, R153). -/
def drawFor (recs : Table Rec) (e : Entry) : Nat := ((Table.get recs e.address).map (fun r => drawOf r.cls (kindOf r))).getD 0

/-- An entry fits: within the budget, or with nothing reserved (R155). -/
abbrev FitsBudget (recs : Table Rec) (budget reserved : Nat) (e : Entry) : Prop := drawFor recs e + reserved ≤ budget ∨ reserved = 0

section Scan

variable {recs : Table Rec} {held : Bool} {budget reserved limit : Nat} {e : Entry} {q : List Entry}

theorem scanQueue_cons {r : Rec} (hr : Table.get recs e.address = some r) : scanQueue recs held budget reserved limit (e :: q) =
    if (held && e.cls ≠ .alert) = true then none
    else if FitsBudget recs budget reserved e then
      some { entry := e, kind := kindOf r, draw := drawOf r.cls (kindOf r), skipped := [] }
    else if e.cls = .alert then none
    else if limit ≤ e.pass then none
    else (scanQueue recs held budget reserved limit q).map (fun f => { f with skipped := e.address :: f.skipped }) := by
  have hfits : (drawOf r.cls (kindOf r) + reserved ≤ budget ∨ reserved = 0) ↔ FitsBudget recs budget reserved e := by
    rw [FitsBudget, drawFor, hr]
    rfl
  rw [scanQueue, hr]
  simp only [hfits]
  cases scanQueue recs held budget reserved limit q <;> rfl

/-- What the scan admits: it fits, it is ALERT while held, and only entries that may be passed over stand before it (R155). -/
theorem scanQueue_admits (hrecs : ∀ e, e ∈ q → (Table.get recs e.address).isSome = true) {f : Found}
    (hf : scanQueue recs held budget reserved limit q = some f) :
    FitsBudget recs budget reserved f.entry ∧ f.draw = drawFor recs f.entry ∧ (held = true → f.entry.cls = .alert)
      ∧ (∃ r, Table.get recs f.entry.address = some r ∧ f.kind = kindOf r)
      ∧ ∃ before after, q = before ++ f.entry :: after ∧ f.skipped = before.map (·.address)
          ∧ ∀ e, e ∈ before → ¬ FitsBudget recs budget reserved e ∧ e.cls ≠ .alert ∧ e.pass < limit ∧ held = false := by
  induction q generalizing f with
  | nil => cases hf
  | cons e q ih =>
    obtain ⟨r, hr⟩ := Option.isSome_iff_exists.1 (hrecs e List.mem_cons_self)
    rw [scanQueue_cons hr] at hf
    split at hf
    next => cases hf
    next hgo =>
      have hheld : held = true → e.cls = .alert := by
        intro h
        by_contra hne
        exact hgo (by rw [h, decide_eq_true hne]; rfl)
      split at hf
      next hfits =>
        cases hf
        refine ⟨hfits, ?_, hheld, ⟨r, hr, rfl⟩, [], q, rfl, rfl, nofun⟩
        rw [drawFor, hr]
        rfl
      next hno =>
        split at hf
        next => cases hf
        next hcls =>
          split at hf
          next => cases hf
          next hpass =>
            obtain ⟨f', hf', rfl⟩ := Option.map_eq_some_iff.1 hf
            obtain ⟨hfits, hdraw, halert, hkind, before, after, rfl, hskipped, hbefore⟩ :=
              ih (fun e he => hrecs e (List.mem_cons_of_mem _ he)) hf'
            refine ⟨hfits, hdraw, halert, hkind, e :: before, after, rfl, ?_, List.forall_mem_cons.2 ⟨⟨hno, hcls, Nat.lt_of_not_le hpass, ?_⟩, hbefore⟩⟩
            · rw [List.map_cons, hskipped]
            · rw [← Bool.not_eq_true]
              exact fun h => hcls (hheld h)

/-- The head of the queue is admitted when it fits, and is ALERT while held (R155). -/
theorem scanQueue_head {r : Rec} (hr : Table.get recs e.address = some r) (hfits : FitsBudget recs budget reserved e)
    (hheld : held = true → e.cls = .alert) : scanQueue recs held budget reserved limit (e :: q)
      = some { entry := e, kind := kindOf r, draw := drawOf r.cls (kindOf r), skipped := [] } := by
  have hgo : ¬ (held && e.cls ≠ .alert) = true := by
    rw [Bool.and_eq_true, decide_eq_true_eq]
    exact fun ⟨h, hne⟩ => hne (hheld h)
  rw [scanQueue_cons hr, if_neg hgo, if_pos hfits]

end Scan

/-! ## The kind -/

theorem kindOf_eq (x : Rec) : kindOf x =
    if x.shown ≠ none ∧ x.lastTemplate = some x.wantedTemplate ∧ x.ghost < ghostLimit x.cls ∧ x.forcedFull = false then .part else .full := by
  unfold kindOf
  by_cases h : x.shown = none ∨ ghostLimit x.cls ≤ x.ghost ∨ x.lastTemplate ≠ some x.wantedTemplate ∨ x.forcedFull = true
  · rw [if_pos h, if_neg]
    rintro ⟨hshown, htemplate, hghost, hf⟩
    rcases h with h | h | h | h
    · exact hshown h
    · exact Nat.not_le.2 hghost h
    · exact h htemplate
    · cases hf.symm.trans h
  · rw [if_neg h, if_pos]
    simp only [not_or] at h
    obtain ⟨hshown, hghost, htemplate, hf⟩ := h
    exact ⟨hshown, not_not.1 htemplate, Nat.lt_of_not_le hghost, Bool.eq_false_iff.2 hf⟩

/-- Admission in RUN with no transfer in flight is the scan (R154). -/
theorem admission_eq {s : State} {ix : SegIx} {f : Found} {x : Rec} (hm : (s.seg ix).mode = .run) (ht : (s.seg ix).transfer = none)
    (hf : scanQueue (s.seg ix).recs s.nu.held (s.budget ix) (s.seg ix).reserved s.ps.options.passLimit (s.seg ix).queue = some f)
    (hx : s.rec? ix f.entry.address = some x) : admission ix s = some (f, x) := by
  have hget : Table.get (s.seg ix).recs f.entry.address = some x := hx
  simp only [admission, hm, ht, hf, hget, and_self, if_true, Option.map_some]

/-- Settles O42: the scan entry by entry, the kind and its draw, and the admitted record with its first LOAD. -/
theorem admissionStaysWithinTheBudget : Obligations.AdmissionStaysWithinTheBudget := by
  refine ⟨fun recs held budget reserved limit q hrecs => ⟨fun f hf => scanQueue_admits hrecs hf, fun e rest hq hfits hheld => ?_⟩,
    fun x => ?_, rfl, rfl, rfl, rfl, rfl, rfl, fun s ix f x hup hbus hm => ?_⟩
  · obtain ⟨r, hr⟩ := Option.isSome_iff_exists.1 (hrecs e (hq ▸ List.mem_cons_self))
    rw [hq]
    exact ⟨_, scanQueue_head hr hfits hheld, rfl, rfl⟩
  · rw [kindOf_eq]
    cases x.cls <;> rfl
  · intro g a hdrops hdue hs ht hx hf face total
    have hnoframe : (s.seg ix).startTransferFrame = none :=
      startTransferFrame_none (fun t hin => by cases ht.symm.trans hin)
    have hchoose := chooseByUse_admission hdrops (firstDue_none hs hdue) hnoframe (admission_eq hm ht hf hx)
    rw [exec_chooseExchange_use hup hbus (.inl hm), hchoose]
    rfl

end Sys2Proof.Machine
end

section
/-! PROOFS. Return probes (spec: R119): the record that comes back, and the one deleted for another panel. -/

namespace Sys2Proof.Machine

theorem exec_returnProbe {s : State} {ix : SegIx} {a : Nat} (heard : Heard) (hup : s.resetPin = false)
    (hbus : (s.seg ix).bus = some (.probe a)) :
    exec (.returnProbe ix heard) s = .next (endExchange ix (movePointer ix a (probeOutcome ix a heard s))) := by
  have hexec : exec (.returnProbe ix heard) s = whenUp (endProbe ix heard) s := rfl
  rw [hexec, whenUp_up hup, endProbe, hbus]

theorem seg_movePointer (ix : SegIx) (a : Nat) (s : State) :
    (movePointer ix a s).seg ix = { s.seg ix with pointer := nextPointer a } := seg_setSeg_same s ix _

theorem movePointer_only (ix : SegIx) (a : Nat) (s : State) : OnlyRecord ix a s (movePointer ix a s) :=
  OnlyRecord.setSeg ix a s _ rfl

/-- What deliveries keep of every record. -/
theorem Follows.rec_kept {s t : State} (h : Follows s t) (ix : SegIx) (a : Nat) : (t.rec? ix a).map Rec.kept = (s.rec? ix a).map Rec.kept :=
  Table.get_of_mapVals_eq (congrArg Seg.recs (h.seg ix) : Table.mapVals Rec.kept (t.seg ix).recs = Table.mapVals Rec.kept (s.seg ix).recs) a

/-! ## The record that comes back -/

section Returns

variable {ix : SegIx} {a : Nat} {x : Rec} {c : PanelClass} {shown : Option Half} {s : State}

/-- The state in which the need of a returned record is evaluated. -/
def returnedBefore (ix : SegIx) (a : Nat) (x : Rec) (c : PanelClass) (shown : Option Half) (s : State) : State :=
  raise .panel (s.putRec ix a (x.returned c shown))

/-- No class change reaches FR from an unbound record, nor from one that kept its class (R119). -/
theorem recordReturns_quiet (h : c = x.cls ∨ x.binding = none) :
    recordReturns ix a x c shown s = evaluate ix a (returnedBefore ix a x c shown s) := by
  unfold recordReturns returnedBefore
  simp only
  cases hb : x.binding with
  | none => rfl
  | some n =>
    obtain hc | hn := h
    · simp only [hc, if_true]
    · cases hb.symm.trans hn

/-- A class change of a bound record has its slot recomputed (R119). -/
theorem recordReturns_changed {n : Nat} (hc : c ≠ x.cls) (hb : x.binding = some n) :
    recordReturns ix a x c shown s = evaluate ix a (recomputeSlot n (returnedBefore ix a x c shown s)) := by
  simp only [recordReturns, returnedBefore, hb, if_neg hc]

theorem returnedBefore_rec (ix : SegIx) (a : Nat) (x : Rec) (c : PanelClass) (shown : Option Half) (s : State) :
    (returnedBefore ix a x c shown s).rec? ix a = some (x.returned c shown) := rec_putRec_same s ix a _

theorem returnedBefore_only (ix : SegIx) (a : Nat) (x : Rec) (c : PanelClass) (shown : Option Half) (s : State) :
    OnlyRecord ix a s (returnedBefore ix a x c shown s) :=
  (OnlyRecord.putRec ix a _ s).trans (OnlyRecord.raise ix a .panel _)

theorem returnedBefore_seg (ix : SegIx) (a : Nat) (x : Rec) (c : PanelClass) (shown : Option Half) (s : State) :
    (returnedBefore ix a x c shown s).seg ix = { s.seg ix with recs := Table.put (s.seg ix).recs a (x.returned c shown) } :=
  seg_putRec_same s ix a _

/-- All that happens after the returned record is put in place are deliveries, and they leave it ONLINE or QUEUED. -/
theorem recordReturns_delivers (ix : SegIx) (a : Nat) (x : Rec) (c : PanelClass) (shown : Option Half) (s : State) :
    ∃ v, recordReturns ix a x c shown s = evaluate ix a v ∧ Follows (returnedBefore ix a x c shown s) v
      ∧ ∃ z, v.rec? ix a = some z ∧ (z.state = .online ∨ z.state = .queued) := by
  by_cases h : c = x.cls ∨ x.binding = none
  · exact ⟨_, recordReturns_quiet h, Follows.refl _, _, returnedBefore_rec ix a x c shown s, .inl rfl⟩
  · obtain ⟨hc, hb⟩ := not_or.1 h
    obtain ⟨n, hn⟩ := Option.ne_none_iff_exists'.1 hb
    have hwork := recomputeSlot_work n (returnedBefore ix a x c shown s)
    obtain ⟨z, hz, hdrifts⟩ := hwork.drift ix a _ (returnedBefore_rec ix a x c shown s)
    exact ⟨_, recordReturns_changed hc hn, hwork.follows, z, hz, hdrifts.idle (.inl rfl)⟩

theorem kept_idle {z : Rec} (hz : z.state = .online ∨ z.state = .queued) (b : Bool) :
    ({ z with state := if b then .queued else .online } : Rec).kept = z.kept := by
  unfold Rec.kept
  rcases hz with h | h <;> rw [h] <;> cases b <;> rfl

/-- The holder of a slot is the record bound to it. -/
theorem holder_of_bound (hs : RecordsGood s) {n : Nat} (hx : s.rec? ix a = some x) (hb : x.binding = some n) :
    s.holder n = some ⟨ix, a, x⟩ := by
  cases hh : s.holder n with
  | none => exact absurd hb (binding_ne_of_unheld hh hx)
  | some q =>
    obtain ⟨hrec, hq⟩ := rec_of_holder hs hh
    obtain ⟨hseg, haddress⟩ := hs.2 _ _ _ _ _ _ _ hrec hx hq hb
    obtain ⟨jx, b, y⟩ := q
    cases hseg
    cases haddress
    cases hrec.symm.trans hx
    rfl

/-- With bindings in order, a return is work on the returned record, its need judged from ONLINE. -/
theorem recordReturns_settles (hs : RecordsGood s) (hx : s.rec? ix a = some x) :
    (∃ z, Settles ix a z s (recordReturns ix a x c shown s)) ∧ OnlyRecord ix a s (recordReturns ix a x c shown s)
      ∧ FlightsKept ix s (recordReturns ix a x c shown s) := by
  have hrec := returnedBefore_rec ix a x c shown s
  have hseg := returnedBefore_seg ix a x c shown s
  have honly := returnedBefore_only ix a x c shown s
  have hflights : FlightsKept ix s (returnedBefore ix a x c shown s) := by
    unfold FlightsKept
    rw [hseg]
    exact ⟨rfl, rfl, rfl⟩
  by_cases h : c = x.cls ∨ x.binding = none
  · rw [recordReturns_quiet h]
    refine ⟨⟨_, (Settles.of_evaluate hrec rfl).congr ?_ ?_⟩, honly.trans (OnlyRecord.evaluate ix a _), hflights.trans (evaluate_flights ix a _)⟩
    all_goals rw [hseg]
  · obtain ⟨hc, hb⟩ := not_or.1 h
    obtain ⟨n, hn⟩ := Option.ne_none_iff_exists'.1 hb
    have hgood : RecordsGood (returnedBefore ix a x c shown s) := (hs.putRec (y := x.returned c shown) hx rfl :)
    have hheld := holder_of_bound hgood hrec hn
    obtain ⟨⟨z, -, hsettles⟩, hkept⟩ := recomputeSlot_settles hheld hrec rfl
    rw [recordReturns_changed hc hn]
    refine ⟨⟨z, hsettles.congr ?_ ?_⟩, (honly.trans (recomputeSlot_only hheld)).trans (OnlyRecord.evaluate ix a _),
      (hflights.trans hkept).trans (evaluate_flights ix a _)⟩
    all_goals rw [hseg]

end Returns

/-! ## A record deleted, its address to be dropped -/

/-- The segment without the record, its address among the drops, and the slot without pin and face (R114, R119, R126). -/
theorem markDrop_deleteRecord {ix : SegIx} {a : Nat} {x : Rec} {s : State} (hx : s.rec? ix a = some x) :
    let d := markDrop ix a (deleteRecord ix a s)
    d.seg ix = (s.seg ix).without a x (d.seg ix).drops ∧ (∀ b, b ∈ (d.seg ix).drops ↔ b = a ∨ b ∈ (s.seg ix).drops)
      ∧ (∀ j, j ≠ ix → d.seg j = s.seg j)
      ∧ ∀ n, x.binding = some n → Table.get d.nu.pins n = none ∧ Table.get d.fr.faces n = none := by
  intro d
  obtain ⟨fr, nu, hdelete, hslot⟩ := deleteRecord_eq hx
  have hseg : (deleteRecord ix a s).seg ix = (s.seg ix).delete a x := by
    rw [hdelete]
    exact seg_setSeg_same s ix _
  have hdrops := fun b => mem_markDrop ix a b (deleteRecord ix a s)
  rw [hseg] at hdrops
  refine ⟨?_, hdrops, fun j hj => ?_, fun n hn => ?_⟩
  · show (markDrop ix a (deleteRecord ix a s)).seg ix = (s.seg ix).without a x ((markDrop ix a (deleteRecord ix a s)).seg ix).drops
    rw [markDrop, seg_setSeg_same, hseg]
    rfl
  · show (markDrop ix a (deleteRecord ix a s)).seg j = s.seg j
    rw [markDrop, seg_setSeg_other _ _ hj, hdelete]
    exact seg_setSeg_other s _ hj
  · show Table.get (markDrop ix a (deleteRecord ix a s)).nu.pins n = none
      ∧ Table.get (markDrop ix a (deleteRecord ix a s)).fr.faces n = none
    rw [markDrop, setSeg_nu, setSeg_fr, hdelete]
    exact hslot n hn

section Probe

variable {s : State} {ix : SegIx} {a : Nat} {heard : Heard} {x : Rec} (hx : s.rec? ix a = some x)
include hx

theorem probeOutcome_missed (h : readIdent s.lateBytes a heard = .silent ∨ readIdent s.lateBytes a heard = .garbled) :
    probeOutcome ix a heard s = s.putRec ix a { x with miss := min (x.miss + 1) 255 } := by
  rcases h with h | h <;> simp only [probeOutcome, hx, h] <;> rfl

theorem probeOutcome_returns {id : IdentReport} {c : PanelClass} (h : readIdent s.lateBytes a heard = .valid id) (hserial : id.serial = x.serial)
    (hc : PanelClass.ofCode id.cls = some c) : probeOutcome ix a heard s = recordReturns ix a x c id.shown s := by
  simp only [probeOutcome, hx, h, hserial, hc, if_true]

theorem probeOutcome_replaced {id : IdentReport} (h : readIdent s.lateBytes a heard = .valid id)
    (hother : id.serial ≠ x.serial ∨ PanelClass.ofCode id.cls = none) : probeOutcome ix a heard s = recordReplaced ix a s := by
  simp only [probeOutcome, hx, h]
  by_cases hserial : id.serial = x.serial
  · have hc := hother.resolve_left (not_not.2 hserial)
    simp only [hserial, hc, if_true]
  · rw [if_neg hserial]

/-- What a probe keeps of every other record. -/
theorem probeOutcome_others {b : Nat} (hb : b ≠ a) : ((probeOutcome ix a heard s).rec? ix b).map Rec.kept = (s.rec? ix b).map Rec.kept := by
  have hreplaced : ((recordReplaced ix a s).rec? ix b).map Rec.kept = (s.rec? ix b).map Rec.kept := by
    obtain ⟨hseg, -⟩ := markDrop_deleteRecord hx
    have hrecs : Table.get ((markDrop ix a (deleteRecord ix a s)).seg ix).recs b = Table.get (s.seg ix).recs b := by
      rw [hseg]
      exact Table.get_del_other _ hb
    exact congrArg _ hrecs
  cases hr : readIdent s.lateBytes a heard with
  | silent =>
    rw [probeOutcome_missed hx (.inl hr)]
    exact congrArg _ (rec_putRec_other s ix _ hb)
  | garbled =>
    rw [probeOutcome_missed hx (.inr hr)]
    exact congrArg _ (rec_putRec_other s ix _ hb)
  | valid id =>
    by_cases hserial : id.serial = x.serial
    · cases hc : PanelClass.ofCode id.cls with
      | none =>
        rw [probeOutcome_replaced hx hr (.inr hc)]
        exact hreplaced
      | some c =>
        obtain ⟨v, hv, hfollows, -⟩ := recordReturns_delivers ix a x c id.shown s
        rw [probeOutcome_returns hx hr hserial hc, hv]
        refine ((hfollows.trans (evaluate_follows ix a v)).rec_kept ix b).trans ?_
        exact congrArg _ (rec_putRec_other s ix _ hb)
    · rw [probeOutcome_replaced hx hr (.inl hserial)]
      exact hreplaced

end Probe

/-- Settles O46: a return probe missed, the record brought back, or deleted for another panel (R119). -/
theorem returnProbesAreTaken : Obligations.ReturnProbesAreTaken := by
  intro s ix a heard x hup hbus hx
  refine ⟨movePointer ix a (probeOutcome ix a heard s), exec_returnProbe heard hup hbus, ?_, fun b hb => ?_, fun hmissed => ?_,
    fun id c hid hserial hc => ?_, fun id hid hother => ?_⟩
  · rw [seg_movePointer]
    rfl
  · rw [rec_movePointer]
    exact probeOutcome_others hx hb
  · intro pointer
    have hpointer : pointer = nextPointer a := congrArg Seg.pointer (seg_movePointer ix a _)
    rw [hpointer, probeOutcome_missed hx hmissed, movePointer, State.putRec, seg_setSeg_same, setSeg_setSeg]
  · rw [probeOutcome_returns hx hid hserial hc]
    obtain ⟨v, hv, hfollows, z, hz, hidle⟩ := recordReturns_delivers ix a x c id.shown s
    have hstands : (recordReturns ix a x c id.shown s).rec? ix a = some { z with state := if z.needs then .queued else .online } := by
      rw [hv]
      exact rec_evaluateAt .maint hz hidle
    have hpanel : flagSet (recordReturns ix a x c id.shown s) .panel = true := by
      rw [hv]
      exact flagSet_of_grow (hfollows.trans (evaluate_follows ix a v)).grow (flagSet_raise .panel _)
    refine ⟨(recordReturns_seg ix a x c id.shown s).trans (movePointer_seg ix a _), hpanel,
      { z with state := if z.needs then .queued else .online }, (rec_movePointer ix a a _).trans hstands, ?_, rfl, fun hquiet => ?_,
      fun hgood hempty => ?_⟩
    · rw [kept_idle hidle]
      have hkept := hfollows.rec_kept ix a
      rw [hz, returnedBefore_rec] at hkept
      exact Option.some.inj hkept
    · have hsame := rec_evaluateAt .maint (returnedBefore_rec ix a x c id.shown s) (.inl rfl)
      rw [recordReturns_quiet hquiet] at hstands ⊢
      have hz' := Option.some.inj (hstands.symm.trans hsame)
      refine ⟨rfl, ?_, ?_⟩
      · exact (congrArg Rec.wantedDigest hz' :)
      · exact (congrArg Rec.wantedTemplate hz' :)
    · obtain ⟨⟨w, hsettles⟩, honly, -, htransfer, hreserved⟩ := recordReturns_settles (c := c) (shown := id.shown) hgood hx
      have hw := Option.some.inj (hstands.symm.trans hsettles.stands)
      have hneeds : z.needs = w.needs := (congrArg Rec.needs hw :)
      have hderived : z.derived = w.derived := (congrArg Rec.derived hw :)
      have hseg := seg_movePointer ix a (recordReturns ix a x c id.shown s)
      refine ⟨honly.trans (movePointer_only ix a _), ?_, ?_, fun hn => ?_, fun hn => ?_⟩
      · rw [hseg]
        exact htransfer
      · rw [hseg]
        exact hreserved
      · have hn' : w.needs = true := hneeds.symm.trans hn
        rw [hseg]
        refine ⟨?_, hsettles.sequence_queued hn'⟩
        show ({ address := a, cls := z.derived, sequence := (s.seg ix).sequence, pass := 0 } : Entry) ∈ _
        rw [hderived]
        exact hsettles.queued hn' hempty
      · rw [hseg]
        exact hsettles.sequence_online (hneeds.symm.trans hn)
  · rw [probeOutcome_replaced hx hid hother]
    obtain ⟨hseg, hdrops, hothers, hslot⟩ := markDrop_deleteRecord hx
    have hmoved := seg_movePointer ix a (recordReplaced ix a s)
    have hreplaced : (recordReplaced ix a s).seg ix = (markDrop ix a (deleteRecord ix a s)).seg ix := rfl
    refine ⟨(recordReplaced_seg ix a s).trans (movePointer_seg ix a _), flagSet_raise .panel _, ?_, ?_, fun b => ?_, fun j hj => ?_, hslot⟩
    · rw [rec_movePointer]
      show Table.get ((recordReplaced ix a s).seg ix).recs a = none
      rw [hreplaced, hseg]
      exact Table.get_del_same _ _
    · rw [hmoved, hreplaced, hseg]
      rfl
    · rw [hmoved, hreplaced]
      exact hdrops b
    · rw [movePointer, seg_setSeg_other _ _ hj]
      exact hothers j hj

end Sys2Proof.Machine
end

section
/-! PROOFS. GIVE (spec: R140, R141): a panel enrolled, a LOST holder displaced, or the panel refused. -/

namespace Sys2Proof.Machine

/-! ## The end of the GIVE exchange -/

theorem exec_giveExchange {s : State} (ix : SegIx) (heard : Heard) (hup : s.resetPin = false) :
    exec (.giveExchange ix heard) s = .next (endGive ix heard s) := by
  have hexec : exec (.giveExchange ix heard) s = whenUp (endGive ix heard) s := rfl
  rw [hexec, whenUp_up hup]

section Given

variable {s : State} {ix : SegIx} {serial : Serial} {a : Nat} {heard : Heard} (hbus : (s.seg ix).bus = some (.give serial a))
include hbus

theorem endGive_unheard (h : readGive s.lateBytes heard = .silent ∨ readGive s.lateBytes heard = .garbled) :
    endGive ix heard s = follow ix (.giveDrop a) s := by
  rcases h with h | h <;> simp only [endGive, hbus, h]

theorem endGive_bad {code : Byte} (h : readGive s.lateBytes heard = .valid code) (hc : PanelClass.ofCode code = none) :
    endGive ix heard s = follow ix (.giveDrop a) (raise .panel s) := by
  simp only [endGive, hbus, h, hc]

theorem endGive_accepted {code : Byte} {k : PanelClass} (h : readGive s.lateBytes heard = .valid code)
    (hc : PanelClass.ofCode code = some k) : endGive ix heard s = giveAccepted ix a serial k s := by
  simp only [endGive, hbus, h, hc]

end Given

section Accepted

variable {s : State} {ix : SegIx} {a : Nat} {serial : Serial} {k : PanelClass}

theorem giveAccepted_free (h : (s.slotOf serial).bind s.holder = none) : giveAccepted ix a serial k s = enrolRecord ix a serial k s := by
  simp only [giveAccepted, h]

theorem giveAccepted_held {p : Place} (h : (s.slotOf serial).bind s.holder = some p) : giveAccepted ix a serial k s =
    if p.rec_.state = .lost then enrolRecord ix a serial k (raise .panel (displace p s))
    else follow ix (.giveDrop a) (raise .panel s) := by
  simp only [giveAccepted, h]

end Accepted

/-! ## A record enrolled -/

/-- What an enrolment from `d` leaves, counted and queued as `s` counted and queued (R141, R147). -/
def Enrolled (ix : SegIx) (a : Nat) (serial : Serial) (s d u : State) (y : Rec) (k : PanelClass) : Prop :=
  u.rec? ix a = some y ∧ (u.seg ix).enrolCount = (s.seg ix).enrolCount + 1
    ∧ y.serial = serial ∧ y.cls = k ∧ y.shown = none ∧ y.lastTemplate = none ∧ y.ghost = ghostLimit k ∧ y.temp = 25
    ∧ y.cold = false ∧ y.miss = 0 ∧ y.forcedFull = false ∧ y.state = .queued
    ∧ OnlyRecord ix a (d.setSeg ix { d.seg ix with enrolCount := (s.seg ix).enrolCount + 1 }) u ∧ FlightsKept ix d u
    ∧ ((∀ e, e ∈ (s.seg ix).queue → e.address ≠ a) →
        { address := a, cls := y.derived, sequence := (s.seg ix).sequence, pass := 0 } ∈ (u.seg ix).queue)
    ∧ (u.seg ix).sequence = ((s.seg ix).sequence + 1) % 4294967296

theorem createdAs_needs (serial : Serial) (k : PanelClass) (binding : Option Nat) (digest : Half) (template : Template) :
    (createdAs serial k none binding digest template).needs = true := rfl

theorem seg_countEnrolled (ix : SegIx) (s : State) :
    (countEnrolled ix s).seg ix = { s.seg ix with enrolCount := (s.seg ix).enrolCount + 1 } := seg_setSeg_same s ix _

/-- Work on one record, then the count raised: the count raised, then work on that record. -/
theorem OnlyRecord.countEnrolled {ix : SegIx} {a : Nat} {s t : State} (h : OnlyRecord ix a s t) :
    OnlyRecord ix a (countEnrolled ix s) (countEnrolled ix t) := by
  refine ⟨⟨?_, h.follows.grow, h.follows.good⟩, ?_, fun j hj => ?_, ?_, ?_⟩
  · rw [Machine.countEnrolled, setSeg_setSeg, Machine.countEnrolled, setSeg_setSeg]
    exact h.follows.kept
  · have hcount : (t.seg ix).enrolCount = (s.seg ix).enrolCount := (congrArg Seg.enrolCount h.beside :)
    have hbeside := congrArg (fun g : Seg => { g with enrolCount := (s.seg ix).enrolCount + 1 }) h.beside
    rw [seg_countEnrolled, seg_countEnrolled, hcount]
    exact hbeside
  · rw [Machine.countEnrolled, Machine.countEnrolled, seg_setSeg_other _ _ hj, seg_setSeg_other _ _ hj]
    exact h.others j hj
  · rw [Machine.countEnrolled, Machine.countEnrolled, setSeg_sessions, setSeg_sessions]
    exact h.sessions
  · rw [Machine.countEnrolled, Machine.countEnrolled, setSeg_orders, setSeg_orders]
    exact h.orders

/-- The record that an enrolment creates and counts. -/
theorem enrolRecord_enrols {ix : SegIx} {s d : State} (a : Nat) (serial : Serial) (k : PanelClass)
    (hcount : (d.seg ix).enrolCount = (s.seg ix).enrolCount) (hseq : (d.seg ix).sequence = (s.seg ix).sequence)
    (hqueue : ∀ e, e ∈ (d.seg ix).queue → e ∈ (s.seg ix).queue) :
    ∃ y, Enrolled ix a serial s d (countEnrolled ix (createRecord ix a serial k none d)) y k
      ∧ y.binding = slotFor ix a serial k none d := by
  obtain ⟨⟨digest, template, hsettles⟩, honly, hpointer, htransfer, hreserved⟩ := createRecord_settles ix a serial k none d
  let x := createdAs serial k none (slotFor ix a serial k none d) digest template
  have hneeds : x.needs = true := createdAs_needs serial k _ digest template
  have hstands := hsettles.stands
  rw [if_pos hneeds] at hstands
  have hseg := seg_countEnrolled ix (createRecord ix a serial k none d)
  refine ⟨{ x with state := .queued }, ⟨?_, ?_, rfl, rfl, rfl, rfl, rfl, rfl, rfl, rfl, rfl, rfl, ?_, ⟨?_, ?_, ?_⟩, fun hempty => ?_, ?_⟩, rfl⟩
  · show Table.get ((countEnrolled ix _).seg ix).recs a = _
    rw [hseg]
    exact hstands
  · have hkept : ((createRecord ix a serial k none d).seg ix).enrolCount = (d.seg ix).enrolCount := (congrArg Seg.enrolCount honly.beside :)
    rw [hseg, ← hcount, ← hkept]
  · have hcounted : d.setSeg ix { d.seg ix with enrolCount := (s.seg ix).enrolCount + 1 } = countEnrolled ix d := by rw [← hcount]; rfl
    rw [hcounted]
    exact honly.countEnrolled
  · rw [hseg]
    exact hpointer
  · rw [hseg]
    exact htransfer
  · rw [hseg]
    exact hreserved
  · rw [hseg, ← hseq]
    exact hsettles.queued hneeds (fun e he => hempty e (hqueue e he))
  · rw [hseg, ← hseq]
    exact hsettles.sequence_queued hneeds

/-! ## A LOST holder displaced -/

/-- A slot is free once its one holder is deleted. -/
theorem holder_displaced {s d : State} (hs : RecordsGood s) {n : Nat} {h : Place} (hh : s.holder n = some h)
    (hseg : (d.seg h.seg).recs = Table.del (s.seg h.seg).recs h.address) (hothers : ∀ j, j ≠ h.seg → d.seg j = s.seg j) :
    d.holder n = none := by
  obtain ⟨hrec, hb⟩ := rec_of_holder hs hh
  refine holder_none_iff.2 (fun q hq hqb => ?_)
  have hin := mem_allRecs.1 hq
  have hold : (q.address, q.rec_) ∈ (s.seg q.seg).recs ∧ ¬ (q.seg = h.seg ∧ q.address = h.address) := by
    by_cases hj : q.seg = h.seg
    · rw [hj, hseg] at hin
      obtain ⟨hmem, hne⟩ := List.mem_filter.1 hin
      exact ⟨by rw [hj]; exact hmem, fun hsame => of_decide_eq_true hne hsame.2⟩
    · rw [hothers _ hj] at hin
      exact ⟨hin, fun hsame => hj hsame.1⟩
  obtain ⟨hmem, hne⟩ := hold
  have hqrec : s.rec? q.seg q.address = some q.rec_ := Table.get_of_mem (hs.1 q.seg) hmem
  exact hne (hs.2 _ _ _ _ _ _ _ hqrec hrec hqb hb)

/-- The slot of a record created where none stood is the one its serial defines, if that is free. -/
theorem slotFor_eq {s : State} {ix : SegIx} {a n : Nat} {serial : Serial} {k : PanelClass} {shown : Option Half}
    (hslot : s.slotOf serial = some n) (hfree : s.holder n = none) (hnew : s.rec? ix a = none) :
    slotFor ix a serial k shown s = some n := by
  have hstill := (holder_putRec_none (x := Rec.fresh serial k shown) hnew rfl n).2 hfree
  rw [slotFor, hslot, Option.filter_some, if_pos]
  rw [hstill]
  rfl

theorem slotFor_unlisted {s : State} {ix : SegIx} {a : Nat} {serial : Serial} {k : PanelClass} {shown : Option Half}
    (hslot : s.slotOf serial = none) : slotFor ix a serial k shown s = none := by
  rw [slotFor, hslot]
  rfl

/-- Settles O53: a GIVE by its GIVE-ACK and by who holds the slot of the serial (R140, R141). -/
theorem givenPanelsAreEnrolledOrRefused : Obligations.GivenPanelsAreEnrolledOrRefused := by
  intro s ix heard serial a hup hbus c dropped enrolled
  have hexec : exec c s = _ := exec_giveExchange ix heard hup
  rw [hexec]
  refine ⟨fun h => by rw [endGive_unheard hbus h]; rfl, fun code h hc => by rw [endGive_bad hbus h hc]; rfl, fun code k h hc => ?_⟩
  rw [endGive_accepted hbus h hc]
  have hhere := enrolRecord_enrols (ix := ix) (s := s) (d := s) a serial k rfl rfl (fun _ => id)
  refine ⟨fun hslot => ?_, fun n hslot hfree hnew => ?_, fun n h hslot hh hlost hnew hgood => ?_, fun n h hslot hh hlive => ?_⟩
  · obtain ⟨y, henrolled, hb⟩ := hhere
    rw [giveAccepted_free (by rw [hslot]; rfl)]
    refine ⟨_, y, rfl, henrolled, hb.trans (slotFor_unlisted hslot), ?_, createRecord_unlisted_raises hslot⟩
    rw [createRecord_unlisted hslot]
    rfl
  · obtain ⟨y, henrolled, hb⟩ := hhere
    rw [giveAccepted_free (by rw [hslot]; exact hfree)]
    exact ⟨_, y, rfl, henrolled, hb.trans (slotFor_eq hslot hfree hnew)⟩
  · obtain ⟨hrec, hbound⟩ := rec_of_holder hgood hh
    obtain ⟨hseg, hdrops, hothers, hslotless⟩ := markDrop_deleteRecord hrec
    let d := raise .panel (displace h s)
    have hdseg : d.seg h.seg = (s.seg h.seg).without h.address h.rec_ (d.seg h.seg).drops := hseg
    have hdothers (j : SegIx) (hj : j ≠ h.seg) : d.seg j = s.seg j := hothers j hj
    have hfollows : FollowsSeg h.seg (unpinned h.seg h.address s) d := (displace_seg h s).trans ((raise_follows .panel _).toSeg h.seg)
    have hps : d.ps = s.ps := by
      have hunpinned : (unpinned h.seg h.address s).ps = s.ps := by
        rw [unpinned, hrec, Option.bind_some, hbound]
        rfl
      exact hfollows.ps.trans hunpinned
    have hdslot : d.slotOf serial = some n := by rw [State.slotOf, hps]; exact hslot
    have hgone : d.rec? h.seg h.address = none := by
      rw [State.rec?, hdseg]
      exact Table.get_del_same _ _
    have hapart : ¬ (ix = h.seg ∧ a = h.address) := by
      rintro ⟨hi, ha⟩
      rw [hi, ha, hrec] at hnew
      cases hnew
    have hdfree : d.holder n = none := holder_displaced hgood hh (by rw [hdseg]; rfl) hdothers
    have hdnew : d.rec? ix a = none := by
      by_cases hi : ix = h.seg
      · rw [hi, State.rec?, hdseg]
        refine (Table.get_del_other _ (fun ha => hapart ⟨hi, ha⟩)).trans ?_
        rw [hi] at hnew
        exact hnew
      · rw [State.rec?, hdothers ix hi]
        exact hnew
    have hdsame : (d.seg ix).enrolCount = (s.seg ix).enrolCount ∧ (d.seg ix).sequence = (s.seg ix).sequence
        ∧ ∀ e, e ∈ (d.seg ix).queue → e ∈ (s.seg ix).queue := by
      by_cases hi : ix = h.seg
      · rw [hi, hdseg]
        exact ⟨rfl, rfl, fun e he => (List.mem_filter.1 he).1⟩
      · rw [hdothers ix hi]
        exact ⟨rfl, rfl, fun _ => id⟩
    obtain ⟨hcount, hseq, hqueue⟩ := hdsame
    obtain ⟨y, henrolled, hb⟩ := enrolRecord_enrols a serial k hcount hseq hqueue
    rw [giveAccepted_held (p := h) (by rw [hslot]; exact hh), if_pos hlost]
    have honly := (createRecord_settles ix a serial k none d).2.1
    let u := countEnrolled ix (createRecord ix a serial k none d)
    have hfar : u.rec? h.seg h.address = d.rec? h.seg h.address ∧ (u.seg h.seg).drops = (d.seg h.seg).drops := by
      by_cases hi : ix = h.seg
      · have huseg := seg_countEnrolled ix (createRecord ix a serial k none d)
        have hdropsKept : ((createRecord ix a serial k none d).seg ix).drops = (d.seg ix).drops := (congrArg Seg.drops honly.beside :)
        rw [← hi]
        refine ⟨?_, ?_⟩
        · have hother := honly.rec_other (b := h.address) (fun ha => hapart ⟨hi, ha.symm⟩)
          refine Eq.trans ?_ hother
          show Table.get (u.seg ix).recs h.address = _
          rw [huseg]
          rfl
        · rw [huseg]
          exact hdropsKept
      · have huseg : u.seg h.seg = d.seg h.seg :=
          (seg_setSeg_other _ _ (Ne.symm hi)).trans (honly.others h.seg (Ne.symm hi))
        rw [State.rec?, State.rec?, huseg]
        exact ⟨rfl, rfl⟩
    obtain ⟨hfarRec, hfarDrops⟩ := hfar
    refine ⟨d, u, y, rfl, hfollows, hdothers, hdseg, hdrops, henrolled, hb.trans (slotFor_eq hdslot hdfree hdnew), hfarRec.trans hgone, ?_, ?_, ?_⟩
    · rw [hfarDrops]
      exact (hdrops h.address).2 (.inl rfl)
    · exact flagSet_of_grow honly.follows.grow (flagSet_raise .panel (displace h s))
    · have hnu : u.nu = d.nu := honly.follows.nu
      rw [hnu]
      exact (hslotless n hbound).1
  · rw [giveAccepted_held (p := h) (by rw [hslot]; exact hh), if_neg hlive]
    rfl

end Sys2Proof.Machine
end

section
/-! PROOFS. Round-robin polls (spec: R107–R109, R117, R118, R120, R121, R148, R149): what a reply is, and what a poll changes. -/

namespace Sys2Proof.Machine

/-! ## What was heard -/

/-- The line begins with a whole reply frame of the address with a kind that answers (R107, R108). -/
def BeginsReply (address : Byte) (kinds line : List Byte) (kind : Byte) (body : List Byte) : Prop :=
  kind ∈ kinds ∧ body.length ≤ 80 ∧ ∃ later, line = [address, kind, byte body.length] ++ body
    ++ halfBytes (crc16 ([address, kind, byte body.length] ++ body)) ++ later

section Heard

variable {address : Byte} {kinds line : List Byte} {kind : Byte} {body : List Byte}

theorem readReply_of_begins (h : BeginsReply address kinds line kind body) :
    readReply address kinds (.bytes line false) = .valid kind body := by
  obtain ⟨hkind, hlen, later, rfl⟩ := h
  have hn : (byte body.length).toNat = body.length := toNat_byte (by omega)
  generalize hcrc : halfBytes (crc16 ([address, kind, byte body.length] ++ body)) = crc
  have hlast : crc.length = 2 := by rw [← hcrc]; rfl
  have htake : (body ++ crc ++ later).take body.length = body := by rw [List.append_assoc, List.take_left]
  have hdrop : ((body ++ crc ++ later).drop body.length).take 2 = crc := by
    rw [List.append_assoc, List.drop_left, ← hlast, List.take_left]
  have hroom : body.length + 2 ≤ (body ++ crc ++ later).length := by
    rw [List.length_append, List.length_append, hlast]
    omega
  have hline : [address, kind, byte body.length] ++ body ++ crc ++ later = address :: kind :: byte body.length :: (body ++ crc ++ later) := rfl
  rw [hline]
  simp only [readReply, hn, htake, hdrop]
  exact if_pos ⟨hlen, hroom, trivial, List.contains_iff_mem.2 hkind, hcrc.symm⟩

theorem begins_of_readReply (h : readReply address kinds (.bytes line false) = .valid kind body) :
    BeginsReply address kinds line kind body := by
  unfold readReply at h
  split at h
  next => cases h
  next => cases h
  next line' heq =>
    cases heq
    split at h
    next a k n rest =>
      simp only at h
      split at h
      next hc =>
        obtain ⟨hlen, hroom, haddress, hkind, hcrc⟩ := hc
        cases h
        have hbody : (rest.take n.toNat).length = n.toNat := by rw [List.length_take]; omega
        have hn : byte (rest.take n.toNat).length = n := by
          rw [hbody, byte, BitVec.ofNat_toNat, BitVec.setWidth_eq]
        refine ⟨List.contains_iff_mem.1 hkind, by omega, (rest.drop n.toNat).drop 2, ?_⟩
        have hrest : rest = rest.take n.toNat ++ halfBytes (crc16 (a :: kind :: n :: rest.take n.toNat)) ++ (rest.drop n.toNat).drop 2 := by
          rw [← hcrc, List.append_assoc, List.take_append_drop, List.take_append_drop]
        rw [hn, ← haddress]
        exact congrArg (fun l => a :: kind :: n :: l) hrest
      next => cases h
    next => cases h

theorem readReply_valid_iff {heard : Heard} : readReply address kinds heard = .valid kind body
    ↔ ∃ line, heard = .bytes line false ∧ BeginsReply address kinds line kind body := by
  constructor
  · intro h
    cases heard with
    | silent => cases h
    | bytes line bad =>
      cases bad with
      | true => cases h
      | false => exact ⟨line, rfl, begins_of_readReply h⟩
  · rintro ⟨line, rfl, h⟩
    exact readReply_of_begins h

theorem readReply_silent_iff {heard : Heard} : readReply address kinds heard = .silent ↔ heard = .silent := by
  cases heard with
  | silent => exact iff_of_true rfl rfl
  | bytes line bad =>
    refine iff_of_false (fun h => ?_) nofun
    unfold readReply at h
    split at h
    next heq => cases heq
    next => cases h
    next =>
      split at h
      · simp only at h
        split at h <;> cases h
      · cases h

/-- Any other line activity is GARBLED (R108). -/
theorem readReply_garbled_iff {heard : Heard} : readReply address kinds heard = .garbled
    ↔ ∃ line bad, heard = .bytes line bad ∧ (bad = true ∨ ∀ kind body, ¬ BeginsReply address kinds line kind body) := by
  constructor
  · intro h
    cases heard with
    | silent => cases h
    | bytes line bad =>
      refine ⟨line, bad, rfl, ?_⟩
      cases bad with
      | true => exact .inl rfl
      | false => exact .inr (fun kind body hb => by cases h.symm.trans (readReply_of_begins hb))
  · rintro ⟨line, bad, rfl, hno⟩
    cases hr : readReply address kinds (.bytes line bad) with
    | garbled => rfl
    | silent => cases readReply_silent_iff.1 hr
    | valid kind body =>
      obtain ⟨line', heq, hb⟩ := readReply_valid_iff.1 hr
      cases heq
      exact hno.elim nofun (fun hno => absurd hb (hno kind body))

end Heard

/-! ## The answers read -/

/-- An answer of one kind is read from the body of that kind. -/
theorem ofReply_one {α : Type} (late : Nat → Byte) (read : (Nat → Byte) → α) (address kind : Byte) (heard : Heard) (a : α) :
    Answer.ofReply late (fun _ => read) (readReply address [kind] heard) = .valid a
      ↔ ∃ body, readReply address [kind] heard = .valid kind body ∧ a = read (fun i => body.getD i (late i)) := by
  rw [Answer.ofReply_valid]
  constructor
  · rintro ⟨k, body, hr, rfl⟩
    obtain rfl := List.mem_singleton.1 (readReply_kind hr)
    exact ⟨body, hr, rfl⟩
  · rintro ⟨body, hr, rfl⟩
    exact ⟨kind, body, hr, rfl⟩

/-- A serial is the one whose bytes were read. -/
theorem eq_serial6_iff (n : Serial) (b : Nat → Byte) :
    n = serial6 (b 0) (b 1) (b 2) (b 3) (b 4) (b 5) ↔ serialBytes n = (List.range 6).map b := by
  have hbytes : (List.range 6).map b = [b 0, b 1, b 2, b 3, b 4, b 5] := rfl
  rw [hbytes]
  constructor
  · rintro rfl
    exact serialBytes_serial6 _ _ _ _ _ _
  · intro h
    have hinverse := serial6_serialBytes n
    unfold serialBytes at h
    obtain ⟨h0, h1, h2, h3, h4, h5, -⟩ := by simpa only [List.cons.injEq] using h
    rw [h0, h1, h2, h3, h4, h5] at hinverse
    exact hinverse.symm

/-! ## The need of a record -/

theorem needs_iff (x : Rec) : x.needs = true
    ↔ x.cold = false ∧ (x.shown = none ∨ x.shown ≠ some x.wantedDigest ∨ x.forcedFull = true) := by
  have hnone : x.shown = none → x.shown ≠ some x.wantedDigest := fun h => h ▸ nofun
  rw [Rec.needs, Rec.differs, Bool.and_eq_true, Bool.or_eq_true, Bool.not_eq_true', decide_eq_true_eq]
  exact and_congr_right (fun _ => ⟨Or.inr, fun h => h.elim (fun h => .inl (hnone h)) id⟩)

theorem derived_eq (x : Rec) : x.derived =
    if x.shown = some x.wantedDigest then .maint else if x.wantedTemplate = .notice then .alert else .normal := by
  unfold Rec.derived Rec.differs
  by_cases h : x.shown = some x.wantedDigest
  · rw [if_pos h, if_neg (by rw [decide_eq_true_eq, not_not]; exact h)]
  · rw [if_neg h, if_pos (decide_eq_true h)]

theorem higher_eq (c d : QueueClass) :
    higher c d = if c = .alert ∨ d = .alert then .alert else if c = .normal ∨ d = .normal then .normal else .maint := by
  cases c <;> cases d <;> rfl

/-! ## What a poll changes -/

/-- A need is judged alike beside any state with the same queue and counter, and seen through a moved pointer. -/
theorem NeedJudged.congr {ix : SegIx} {a b : Nat} {least : QueueClass} {x : Rec} {s u t : State} (h : NeedJudged ix a least x u t)
    (hq : (u.seg ix).queue = (s.seg ix).queue) (hn : (u.seg ix).sequence = (s.seg ix).sequence) :
    NeedJudged ix a least x s (movePointer ix b t) := by
  have hseg := seg_movePointer ix b t
  unfold NeedJudged at *
  rw [hq, hn] at h
  rw [rec_movePointer, hseg]
  exact h

section Poll

variable {s : State} {ix : SegIx} {a : Nat} {x : Rec}

/-- What a VALID STATE reply makes of the record polled, its need aside (R118, R120, R121). -/
def polledAs (s : State) (x : Rec) (rep : StateReport) : Rec :=
  { x.heardState s.ps.options.refreshFloor rep with shown := if x.state.idle then rep.shown else x.shown }

theorem pollAnswered_eq (ix : SegIx) (a : Nat) (x : Rec) (rep : StateReport) (s : State) : pollAnswered ix a x rep s
    = evaluate ix a (raiseIf (newlyCold x (polledAs s x rep)) .cold (s.putRec ix a (polledAs s x rep))) := rfl

theorem idle_iff (r : RecState) : r.idle = true ↔ r = .online ∨ r = .queued := by
  cases r with
  | online => exact iff_of_true rfl (.inl rfl)
  | queued => exact iff_of_true rfl (.inr rfl)
  | loading => exact iff_of_false nofun nofun
  | refreshing f => exact iff_of_false nofun nofun
  | lost => exact iff_of_false nofun nofun

theorem pollMissed_lost (h : x.state.idle = true ∧ s.missLimit ≤ missed x.miss) :
    pollMissed ix a x s = loseRecord ix a { x with miss := missed x.miss } s := if_pos h

theorem pollMissed_stands (h : ¬ (x.state.idle = true ∧ s.missLimit ≤ missed x.miss)) :
    pollMissed ix a x s = s.putRec ix a { x with miss := missed x.miss } := if_neg h

theorem pollOutcome_none (heard : Heard) (hx : s.rec? ix a = none) : pollOutcome ix a heard s = s := by
  simp only [pollOutcome, hx]

theorem pollOutcome_valid {heard : Heard} {rep : StateReport} (hx : s.rec? ix a = some x)
    (hr : readState s.lateBytes a heard = .valid rep) : pollOutcome ix a heard s = pollAnswered ix a x rep s := by
  simp only [pollOutcome, hx, hr]

theorem pollOutcome_missed {heard : Heard} (hx : s.rec? ix a = some x)
    (hr : readState s.lateBytes a heard = .silent ∨ readState s.lateBytes a heard = .garbled) :
    pollOutcome ix a heard s = pollMissed ix a x s := by
  rcases hr with hr | hr <;> simp only [pollOutcome, hx, hr]

theorem loseRecord_flights (ix : SegIx) (a : Nat) (x : Rec) (s : State) :
    FlightsKept ix s (loseRecord ix a x s) ∧ ((loseRecord ix a x s).seg ix).sequence = (s.seg ix).sequence := by
  unfold FlightsKept loseRecord
  rw [seg_raise, seg_setSeg_same]
  exact ⟨⟨rfl, rfl, rfl⟩, rfl⟩

/-- A poll is work on the record polled, and no flight of the segment moves. -/
theorem pollOutcome_only (ix : SegIx) (a : Nat) (heard : Heard) (s : State) : OnlyRecord ix a s (pollOutcome ix a heard s)
    ∧ FlightsKept ix s (pollOutcome ix a heard s) ∧ (pollOutcome ix a heard s).fr = s.fr := by
  cases hx : s.rec? ix a with
  | none =>
    rw [pollOutcome_none heard hx]
    exact ⟨OnlyRecord.refl ix a s, ⟨rfl, rfl, rfl⟩, rfl⟩
  | some x =>
    have hmissed : OnlyRecord ix a s (pollMissed ix a x s) ∧ FlightsKept ix s (pollMissed ix a x s) ∧ (pollMissed ix a x s).fr = s.fr := by
      by_cases h : x.state.idle = true ∧ s.missLimit ≤ missed x.miss
      · rw [pollMissed_lost h]
        exact ⟨loseRecord_only ix a _ s, (loseRecord_flights ix a _ s).1, rfl⟩
      · rw [pollMissed_stands h]
        exact ⟨OnlyRecord.putRec ix a _ s, FlightsKept.putRec ix a _ s, rfl⟩
    cases hr : readState s.lateBytes a heard with
    | silent => rw [pollOutcome_missed hx (.inl hr)]; exact hmissed
    | garbled => rw [pollOutcome_missed hx (.inr hr)]; exact hmissed
    | valid rep =>
      rw [pollOutcome_valid hx hr, pollAnswered_eq]
      refine ⟨(raiseIf_putRec_only ix a _ _ _ s).trans (OnlyRecord.evaluate ix a _), FlightsKept.trans ?_ (evaluate_flights ix a _), ?_⟩
      · unfold FlightsKept
        rw [raiseIf_putRec_seg]
        exact ⟨rfl, rfl, rfl⟩
      · exact raiseIf_fr _ _ _

end Poll

/-- Settles O45: a round-robin poll by what was heard (R117, R118), and how what was heard is read (R107–R109). -/
theorem roundRobinPollsAreTaken : Obligations.RoundRobinPollsAreTaken := by
  refine ⟨fun s ix a heard hup hbus => ?_, fun address kinds heard => ⟨readReply_silent_iff, fun kind body => readReply_valid_iff,
    readReply_garbled_iff⟩, fun late a heard => ?_, fun x => ⟨needs_iff x, derived_eq x⟩, higher_eq⟩
  · obtain ⟨honly, ⟨-, htransfer, hreserved⟩, hfr⟩ := pollOutcome_only ix a heard s
    have hmoved := seg_movePointer ix a (pollOutcome ix a heard s)
    refine ⟨_, exec_roundRobinPoll heard hup hbus, honly.trans (movePointer_only ix a _), by rw [hmoved]; rfl, hfr,
      by rw [hmoved]; exact htransfer, by rw [hmoved]; exact hreserved, fun hx => ?_, fun x hx => ?_⟩
    · rw [hmoved, pollOutcome_none heard hx]
    · intro idle
      have hidleIff : x.state.idle = true ↔ idle := idle_iff x.state
      refine ⟨fun rep hr => ?_, fun hr => ?_⟩
      · intro temp cold y
        have hy : polledAs s x rep = y := by
          have hshown : (if x.state.idle = true then rep.shown else x.shown) = if x.state = .online ∨ x.state = .queued then rep.shown else x.shown :=
            if_congr hidleIff rfl rfl
          rw [polledAs, hshown]
          rfl
        rw [pollOutcome_valid hx hr, pollAnswered_eq, hy]
        have hseg := raiseIf_putRec_seg ix a (newlyCold x y) .cold y s
        have hrec : (raiseIf (newlyCold x y) .cold (s.putRec ix a y)).rec? ix a = some y :=
          (rec_raiseIf _ _ _ ix a).trans (rec_putRec_same s ix a y)
        refine ⟨fun hidle => ?_, fun hbusy => ?_, fun hwarm hc => ?_⟩
        · exact (evaluate_judges ix a hrec hidle).congr (by rw [hseg]) (by rw [hseg])
        · have hstands : evaluate ix a (raiseIf (newlyCold x y) .cold (s.putRec ix a y)) = raiseIf (newlyCold x y) .cold (s.putRec ix a y) := by
            rw [evaluate, Seg.evaluate_flying .maint hrec (fun h => hbusy (.inl h)) (fun h => hbusy (.inr h)), setSeg_seg]
          rw [rec_movePointer, seg_movePointer, hstands, hseg]
          exact ⟨hrec, rfl, rfl⟩
        · have hraised : flagSet (raiseIf (newlyCold x y) .cold (s.putRec ix a y)) .cold = true :=
            flagSet_raiseIf .cold _ (by rw [newlyCold, hwarm]; exact hc)
          exact flagSet_of_grow (evaluate_follows ix a _).grow hraised
      · intro y
        rw [pollOutcome_missed hx hr]
        have hcond : (x.state.idle = true ∧ s.missLimit ≤ missed x.miss) ↔ (idle ∧ s.ps.options.missLimit ≤ y.miss) :=
          and_congr_left (fun _ => hidleIff)
        rw [rec_movePointer, seg_movePointer]
        by_cases h : idle ∧ s.ps.options.missLimit ≤ y.miss
        · rw [pollMissed_lost (hcond.2 h)]
          refine ⟨(loseRecord_flights ix a y s).2, fun _ _ => ?_, fun hno => absurd h hno⟩
          obtain ⟨hrec, hqueue, hpanel⟩ := loseRecord_lost ix a y s
          refine ⟨(rec_movePointer ix a a _).trans hrec, fun e he => hqueue e ?_, hpanel⟩
          rw [seg_movePointer] at he
          exact he
        · rw [pollMissed_stands (fun hm => h (hcond.1 hm)), seg_putRec_same]
          exact ⟨rfl, fun hidle hlimit => absurd ⟨hidle, hlimit⟩ h, fun _ => ⟨rec_putRec_same s ix a y, rfl⟩⟩
  · intro heardAs inSlot shown carries serial answers
    have hanswers {α : Type} (read : Byte → (Nat → Byte) → α) (kinds : List Byte) (address : Byte) :
        answers (Answer.ofReply late read (readReply address kinds heard)) kinds address :=
      ⟨(Answer.ofReply_silent late read _).trans readReply_silent_iff, Answer.ofReply_garbled late read _⟩
    refine ⟨hanswers _ _ _, hanswers _ _ _, hanswers _ _ _, hanswers _ _ _, hanswers _ _ _, hanswers _ _ _, fun rep => ?_, fun id => ?_,
      fun i => ?_, fun ok => readShow_valid late a heard ok, fun n => ?_, fun k => ?_⟩
    · refine (ofReply_one late _ (byte a) 0x81 heard rep).trans (exists_congr fun body => ?_)
      exact ⟨fun ⟨hr, hrep⟩ => ⟨_, _, hr, rfl, rfl, hrep⟩, fun ⟨_, _, hr, hv, ht, hrep⟩ => ⟨hr, by rw [hrep, hv, ht]; rfl⟩⟩
    · refine (ofReply_one late _ (byte a) 0x84 heard id).trans (exists_congr fun body => and_congr_right fun _ => ?_)
      obtain ⟨n, cls, digest⟩ := id
      rw [IdentReport.mk.injEq, eq_serial6_iff n (fun i => body.getD i (late i))]
      exact Iff.rfl
    · refine (ofReply_one late _ (byte a) 0x82 heard i).trans (exists_congr fun body => ?_)
      exact ⟨fun ⟨hr, hi⟩ => ⟨_, hr, rfl, hi⟩, fun ⟨_, hr, hv, hi⟩ => ⟨hr, by rw [hi, hv]⟩⟩
    · refine (ofReply_one late _ 0xFE 0x86 heard n).trans (exists_congr fun body => and_congr_right fun _ => ?_)
      exact eq_serial6_iff n (fun i => body.getD i (late i))
    · exact ofReply_one late _ 0xFE 0x87 heard k

end Sys2Proof.Machine
end

section
/-! PROOFS. What a step does, the link's own bookkeeping aside: one request handed to its owner, a RESTART, a reset, or one
event. The invariants are proved over these, one rule for each (spec: R176–R182, R189, R204). -/

namespace Sys2Proof.Machine

/-! ## What an owner does -/

/-- The record that a session request leaves under a number, and whether it is a change of it (R40–R47). -/
inductive SessionChange (s : State) : Nat → Session → Bool → Prop where
  | store {p : StoreSpec} : storeOutOfRange p = false →
      ((recordOf p).cancelled = false →
        clashes s.sessions p.number.toNat (recordOf p).day (recordOf p).sections (recordOf p).start (recordOf p).stop = false) →
      ((Table.get s.sessions p.number.toNat).isNone = true → s.sessions.length < 512) →
      SessionChange s p.number.toNat (recordOf p) true
  | cancel {n : Nat} {x : Session} : Table.get s.sessions n = some x → SessionChange s n { x with cancelled := true } true
  | restore {n : Nat} {x : Session} : Table.get s.sessions n = some x →
      clashes s.sessions n x.day x.sections x.start x.effectiveEnd = false → SessionChange s n { x with cancelled := false } true
  | extend {n k : Nat} {x : Session} : Table.get s.sessions n = some x → x.earlyEnd = none →
      SessionChange s n { x with extension := x.extension + grant s.sessions n x k } true
  | finish {n e : Nat} {x : Session} : Table.get s.sessions n = some x → x.phase = .live ∨ x.phase = .overrun →
      e = (if x.start < s.clock.minute then s.clock.minute else x.start + 1) →
      SessionChange s n { x with earlyEnd := some e } (x.earlyEnd ≠ some e)

/-- One option replaced. -/
inductive OptionChange (o : Options) : Nat → Options → Prop where
  | value {n : Nat} (v : Int) : n < 15 → OptionChange o n (o.put n (appliedValue n v))
  | text (r : TextRef) : OptionChange o 15 { o with privateText := r }

/-- What a request makes of the segments and of LI's own flags, if anything. -/
inductive BusRequest (s : State) : State → Prop where
  | nothing : BusRequest s s
  | mask (m : Half) : BusRequest s (s.setMask m)
  | flags : BusRequest s (clearFlags s.li.attention s)
  | enrol {ix : SegIx} : (s.seg ix).mode = .run →
      BusRequest s (judgeDrain ix (s.setSeg ix { s.seg ix with mode := .draining, enrolCount := 0 }))
  | stopEnrol {ix : SegIx} : (s.seg ix).mode ≠ .starting → (s.seg ix).mode ≠ .run → BusRequest s (stopEnrolment ix s)
  | forget {ix : SegIx} {a : Nat} {x : Rec} : 1 ≤ a → a ≤ 96 → (s.seg ix).mode = .run → s.rec? ix a = some x →
      x.state ≠ .loading → (∀ f, x.state ≠ .refreshing f) → BusRequest s (markDrop ix a (deleteRecord ix a s))
  | refresh {ix : SegIx} {a : Nat} {x : Rec} : s.rec? ix a = some x → x.state = .online ∨ x.state = .queued →
      BusRequest s (forceFull ix a x s)

/-- What a request makes of the other blocks, one shape for each kind of change. -/
inductive BlockRequest (s : State) : State → Prop where
  | option {n : Nat} {o : Options} : OptionChange s.ps.options n o → BlockRequest s (applyOption n o s)
  | save : s.ps.plan = .ready → BlockRequest s { s with ps := { s.ps with
      plan := .saving, save := some { stage := .erase, body := imageBody (imageOf s), revision := s.ps.revision } } }
  | layout {sections : Table Section} {walls : Table Wall} {combos : Table Combo} :
      (TablesGood s → Table.rising sections = true ∧ Table.rising walls = true ∧ Table.rising combos = true) →
      BlockRequest s (rederive { s with lu := { s.lu with sections, walls, combos } })
  | wall {i : Nat} {w w' : Wall} : Table.get s.lu.walls i = some w → w'.a = w.a → w'.b = w.b → BlockRequest s (putWall i w w' s)
  | clock {c : Clock} (purge : Bool) : ClockGood c → BlockRequest s (clockChange purge { s with clock := c })
  | ticks (k : Nat) : BlockRequest s (times tickClock k s)
  | back (k : Nat) : s.clock.mode = .running → BlockRequest s (moveBack k s)
  | session {n : Nat} {x : Session} {changed : Bool} : 1 ≤ n → n ≤ 65535 → SessionChange s n x changed →
      BlockRequest s (reevaluateOne changed n x s)
  | drop (n : Nat) : BlockRequest s (recomputeAll { s with sessions := Table.del s.sessions n })
  | text {m : TextMem} : (TextGood s → m.wf = true) → BlockRequest s (pageWrite m s)
  | notices {zone : Nat} {m : Table Notice} : (Table.rising s.nu.notices = true → Table.rising m = true) →
      (∀ z, z ≠ zone → Table.get m z = Table.get s.nu.notices z) → BlockRequest s (changeNotices zone m s)
  | pin {n : Nat} {h : Place} (pin : Pin) : s.holder n = some h →
      ((Table.get s.nu.pins n).isNone = true → s.nu.pins.length < 16) → BlockRequest s (changePins n (Table.put s.nu.pins n pin) s)
  | unpin (n : Nat) : BlockRequest s (changePins n (Table.del s.nu.pins n) s)
  | hold : BlockRequest s { s with nu := { s.nu with held := true, timer := s.ps.options.holdTimeout } }
  | release : BlockRequest s { s with nu := { s.nu with held := false, timer := 0 } }
  | definePanel {n : Nat} {p : PanelSlot} : s.ps.panels.any (fun e => e.1 ≠ n && e.2.serial = p.serial) = false →
      BlockRequest s (workBinding n ((Table.get s.ps.panels n).map (·.serial)) p.serial
        (setPages n p.role { s with ps := { s.ps with panels := Table.put s.ps.panels n p } }))
  | removePanel (n : Nat) :
      BlockRequest s (discardPages n (strayHolder n { s with ps := { s.ps with panels := Table.del s.ps.panels n } }))

/-- What the owners make of the part. -/
inductive OwnerDoes (s u : State) : Prop where
  | bus : BusRequest s u → OwnerDoes s u
  | block : BlockRequest s u → OwnerDoes s u

/-! ## From a request to its owner's deed -/

theorem taken_eq {s u : State} {items items' : List Byte} (h : taken s items = .ok (u, items')) : s = u := by
  cases h
  rfl

theorem withSession_ok {number : Half} {s u : State} {items : List Byte} {f : Session → Taken} (h : withSession number s f = .ok (u, items)) :
    1 ≤ number.toNat ∧ number.toNat ≤ 65535 ∧ ∃ x, Table.get s.sessions number.toNat = some x ∧ f x = .ok (u, items) := by
  have hmax := number.isLt
  by_cases h0 : number.toNat = 0
  · rw [withSession_zero h0] at h
    cases h
  · refine ⟨by omega, by omega, ?_⟩
    cases hx : Table.get s.sessions number.toNat with
    | none =>
      rw [withSession_none h0 hx] at h
      cases h
    | some x =>
      rw [withSession_some h0 hx] at h
      exact ⟨x, rfl, h⟩

theorem withSegment_ok {segment : Byte} {f : SegIx → Taken} {u : State} {items : List Byte} (h : withSegment segment f = .ok (u, items)) :
    ∃ ix, f ix = .ok (u, items) := by
  unfold withSegment at h
  cases hix : SegIx.named segment with
  | none =>
    rw [hix] at h
    cases h
  | some ix =>
    rw [hix] at h
    exact ⟨ix, h⟩

theorem withAddress_ok {segment address : Byte} {f : SegIx → Nat → Taken} {u : State} {items : List Byte}
    (h : withAddress segment address f = .ok (u, items)) : ∃ ix a, 1 ≤ a ∧ a ≤ 96 ∧ f ix a = .ok (u, items) := by
  obtain ⟨ix, h⟩ := withSegment_ok h
  split_ifs at h with hrange
  · cases h
  · rw [not_or] at hrange
    exact ⟨ix, address.toNat, by omega, by have := hrange.2; simp only [Config.addresses] at this; omega, h⟩

section Owners

variable {s u : State} {items : List Byte}

theorem setOption_does {number : Byte} {v : OptionValue} (h : setOption number v s = .ok (u, items)) : BlockRequest s u := by
  unfold setOption at h
  simp only at h
  split_ifs at h with hrange h15 hbad
  · cases h
  · cases h
  · rw [← taken_eq h, h15]
    exact .option (.text _)
  · rw [← taken_eq h]
    exact .option (.value _ (by omega))

theorem savePlan_does (h : savePlan s = .ok (u, items)) : BlockRequest s u := by
  unfold savePlan at h
  cases hp : s.ps.plan with
  | loading => rw [hp] at h; cases h
  | saving => rw [hp] at h; cases h
  | empty => rw [hp] at h; cases h
  | ready =>
    rw [hp] at h
    rw [← taken_eq h]
    exact .save hp

theorem defineSection_does {index : Byte} {name : TextRef} {code : ShortCode} (h : defineSection index name code s = .ok (u, items)) :
    BlockRequest s u := by
  unfold defineSection at h
  split_ifs at h
  · cases h
  · rw [← taken_eq h]
    exact .layout fun ⟨hsections, hwalls, hcombos, _⟩ => ⟨Table.rising_put hsections _ _, hwalls, hcombos⟩

theorem removeSection_does {index : Byte} (h : removeSection index s = .ok (u, items)) : BlockRequest s u := by
  unfold removeSection at h
  split_ifs at h
  · cases h
  · cases h
  · cases h
  · rw [← taken_eq h]
    exact .layout fun ⟨hsections, hwalls, hcombos, _⟩ => ⟨Table.rising_filter hsections _, hwalls, hcombos⟩

theorem setClosed_does {index : Byte} {closed : Bool} (h : setClosed index closed s = .ok (u, items)) : OwnerDoes s u := by
  unfold setClosed at h
  split_ifs at h
  · cases h
  · cases hsec : Table.get s.lu.sections index.toNat with
    | none => rw [hsec] at h; cases h
    | some sec =>
      rw [hsec] at h
      simp only at h
      split_ifs at h
      · rw [← taken_eq h]
        exact .bus .nothing
      · rw [← taken_eq h]
        exact .block (.layout fun ⟨hsections, hwalls, hcombos, _⟩ => ⟨Table.rising_put hsections _ _, hwalls, hcombos⟩)

theorem defineWall_does {wall first second : Byte} (h : defineWall wall first second s = .ok (u, items)) : BlockRequest s u := by
  unfold defineWall at h
  split_ifs at h
  · cases h
  · cases h
  · cases h
  · rw [← taken_eq h]
    exact .layout fun ⟨hsections, hwalls, hcombos, _⟩ => ⟨hsections, Table.rising_put hwalls _ _, hcombos⟩

theorem removeWall_does {wall : Byte} (h : removeWall wall s = .ok (u, items)) : BlockRequest s u := by
  unfold removeWall at h
  split_ifs at h
  · cases h
  · cases h
  · rw [← taken_eq h]
    exact .layout fun ⟨hsections, hwalls, hcombos, _⟩ => ⟨hsections, Table.rising_filter hwalls _, hcombos⟩

theorem forceWall_does {wall position : Byte} (h : forceWall wall position s = .ok (u, items)) : BlockRequest s u := by
  unfold forceWall at h
  cases hp : Forced.ofCode position with
  | none => rw [hp] at h; cases h
  | some p =>
    rw [hp] at h
    simp only at h
    split_ifs at h
    · cases h
    · cases hw : Table.get s.lu.walls wall.toNat with
      | none => rw [hw] at h; cases h
      | some w =>
        rw [hw] at h
        rw [← taken_eq h]
        exact .wall hw rfl rfl

theorem defineCombination_does {index : Byte} {name : TextRef} {sections : List Byte}
    (h : defineCombination index name sections s = .ok (u, items)) : BlockRequest s u := by
  unfold defineCombination at h
  simp only at h
  split_ifs at h
  · cases h
  · cases h
  · cases h
  · rw [← taken_eq h]
    exact .layout fun ⟨hsections, hwalls, hcombos, _⟩ => ⟨hsections, hwalls, Table.rising_put hcombos _ _⟩

theorem removeCombination_does {index : Byte} (h : removeCombination index s = .ok (u, items)) : BlockRequest s u := by
  unfold removeCombination at h
  split_ifs at h
  · cases h
  · cases h
  · rw [← taken_eq h]
    exact .layout fun ⟨hsections, hwalls, hcombos, _⟩ => ⟨hsections, hwalls, Table.rising_filter hcombos _⟩

theorem definePanel_does {p : PanelSpec} (h : definePanel p s = .ok (u, items)) : BlockRequest s u := by
  unfold definePanel at h
  cases hrole : roleOf p with
  | none => rw [hrole] at h; cases h
  | some role =>
    rw [hrole] at h
    simp only at h
    split_ifs at h with hslot hsection hclash
    · cases h
    · cases h
    · cases h
    · rw [← taken_eq h]
      exact .definePanel (p := { serial := p.serial, role, zones := p.zones }) (Bool.not_eq_true _ ▸ hclash)

theorem removePanel_does {slot : Half} (h : removePanel slot s = .ok (u, items)) : BlockRequest s u := by
  unfold removePanel at h
  simp only at h
  split_ifs at h
  · cases h
  · cases h
  · rw [← taken_eq h]
    exact .removePanel _

theorem setClock_does {day : Byte} {minute : Half} {second : Byte} (h : setClock day minute second s = .ok (u, items)) : BlockRequest s u := by
  unfold setClock at h
  simp only at h
  split_ifs at h with hrange
  · cases h
  · rw [← taken_eq h]
    obtain ⟨hday, hrest⟩ := not_or.1 hrange
    obtain ⟨hminute, hsecond⟩ := not_or.1 hrest
    exact .clock _ ⟨by simp only; omega, by simp only; omega, by simp only; omega, nofun, nofun⟩

theorem adjustClock_does {seconds : Byte} (h : adjustClock seconds s = .ok (u, items)) : BlockRequest s u := by
  unfold adjustClock at h
  simp only at h
  split_ifs at h with hrange hmode hforward
  · cases h
  · cases h
  · rw [← taken_eq h]
    exact .ticks _
  · rw [← taken_eq h]
    exact .back _ (not_not.1 hmode)

theorem storeSession_does {p : StoreSpec} (h : storeSession p s = .ok (u, items)) : BlockRequest s u := by
  unfold storeSession at h
  simp only at h
  split_ifs at h with hrange hmissing hclash hfull
  · cases h
  · cases h
  · cases h
  · cases h
  · rw [← taken_eq h]
    have hgood : storeOutOfRange p = false := Bool.not_eq_true _ ▸ hrange
    obtain ⟨hnumber, -⟩ := (storeOutOfRange_iff p).1 hgood
    have hmax := p.number.isLt
    refine .session (by omega) (by omega) (.store hgood (fun hlive => ?_) (fun hnew => ?_))
    · rw [hlive, Bool.not_false, Bool.true_and, Bool.not_eq_true] at hclash
      exact hclash
    · exact Nat.lt_of_not_le (fun hle => hfull ⟨hnew, hle⟩)

theorem dropSession_does {number : Half} (h : dropSession number s = .ok (u, items)) : BlockRequest s u := by
  obtain ⟨-, -, x, -, h⟩ := withSession_ok h
  rw [← taken_eq h]
  exact .drop _

theorem cancelSession_does {number : Half} (h : cancelSession number s = .ok (u, items)) : OwnerDoes s u := by
  obtain ⟨hlow, hhigh, x, hx, h⟩ := withSession_ok h
  split_ifs at h
  · rw [← taken_eq h]
    exact .bus .nothing
  · rw [← taken_eq h]
    exact .block (.session hlow hhigh (.cancel hx))

theorem restoreSession_does {number : Half} (h : restoreSession number s = .ok (u, items)) : OwnerDoes s u := by
  obtain ⟨hlow, hhigh, x, hx, h⟩ := withSession_ok h
  split_ifs at h with hstands hclash
  · rw [← taken_eq h]
    exact .bus .nothing
  · cases h
  · rw [← taken_eq h]
    exact .block (.session hlow hhigh (.restore hx (Bool.not_eq_true _ ▸ hclash)))

theorem extendSession_does {number : Half} {minutes : Byte} (h : extendSession number minutes s = .ok (u, items)) : OwnerDoes s u := by
  unfold extendSession at h
  simp only at h
  split at h
  · cases h
  · obtain ⟨hlow, hhigh, x, hx, h⟩ := withSession_ok h
    split_ifs at h with hmode hphase hgrant
    · cases h
    · cases h
    · rw [← taken_eq h]
      exact .bus .nothing
    · rw [← taken_eq h]
      rw [not_or, not_or, Bool.not_eq_true, Option.isSome_eq_false_iff, Option.isNone_iff_eq_none] at hphase
      exact .block (.session hlow hhigh (.extend hx hphase.2.2))

theorem endSession_does {number : Half} (h : endSession number s = .ok (u, items)) : BlockRequest s u := by
  obtain ⟨hlow, hhigh, x, hx, h⟩ := withSession_ok h
  simp only at h
  split_ifs at h with hmode hphase hlater
  · cases h
  · cases h
  all_goals
    rw [← taken_eq h]
    have hrunning : x.phase = .live ∨ x.phase = .overrun := by
      by_contra hno
      exact hphase (not_or.1 hno)
    exact .session hlow hhigh (.finish hx hrunning (by simp only [hlater, if_true, if_false]))

theorem putText_does {page offset : Byte} {data : List Byte} (h : putText page offset data s = .ok (u, items)) : BlockRequest s u := by
  unfold putText at h
  simp only at h
  split_ifs at h with hpage
  · cases h
  · rw [← taken_eq h]
    refine .text (fun hwf => TextMem.wf_writeAll hwf _ ?_)
    have hoffset := offset.isLt
    have hlen : (data.take (writeCount offset.toNat data.length)).length ≤ 256 - offset.toNat := by
      rw [List.length_take, writeCount]
      simp only [Config.pageBytes]
      omega
    simp only [textAddress, Config.pages, Config.pageBytes] at *
    omega

theorem clearPage_does {page : Byte} (h : clearPage page s = .ok (u, items)) : BlockRequest s u := by
  unfold clearPage at h
  split_ifs at h
  · cases h
  · rw [← taken_eq h]
    exact .text (fun hwf => TextMem.wf_clearPage hwf _)

theorem postNotice_does {p : NoticeSpec} (h : postNotice p s = .ok (u, items)) : BlockRequest s u := by
  unfold postNotice at h
  cases hlevel : Level.ofCode p.level with
  | none => rw [hlevel] at h; cases h
  | some level =>
    rw [hlevel] at h
    simp only at h
    split_ifs at h
    · cases h
    · cases h
    · cases h
    · cases h
    · rw [← taken_eq h]
      exact .notices (fun hr => Table.rising_put hr _ _) (fun z hz => Table.get_put_other _ _ hz)

theorem withdrawNotice_does {zone : Byte} (h : withdrawNotice zone s = .ok (u, items)) : BlockRequest s u := by
  unfold withdrawNotice at h
  split_ifs at h
  · cases h
  · cases hn : Table.get s.nu.notices zone.toNat with
    | none => rw [hn] at h; cases h
    | some n =>
      rw [hn] at h
      rw [← taken_eq h]
      exact .notices (fun hr => Table.rising_filter hr _) (fun z hz => Table.get_del_other _ hz)

theorem pinPanel_does {slot : Half} (h : pinPanel slot s = .ok (u, items)) : BlockRequest s u := by
  unfold pinPanel at h
  simp only at h
  split at h
  · cases h
  · cases hp : Table.get s.ps.panels slot.toNat with
    | none => rw [hp] at h; cases h
    | some p =>
      rw [hp] at h
      cases hh : s.holder slot.toNat with
      | none => rw [hh] at h; cases h
      | some holder =>
        rw [hh] at h
        simp only at h
        split_ifs at h with hfull
        · cases h
        · rw [← taken_eq h]
          exact .pin _ hh (fun hnew => Nat.lt_of_not_le (fun hle => hfull ⟨hnew, hle⟩))

theorem unpinPanel_does {slot : Half} (h : unpinPanel slot s = .ok (u, items)) : BlockRequest s u := by
  unfold unpinPanel at h
  split_ifs at h
  · cases h
  · cases h
  · rw [← taken_eq h]
    exact .unpin _

theorem enrol_does {segment : Byte} (h : enrol segment s = .ok (u, items)) : BusRequest s u := by
  obtain ⟨ix, h⟩ := withSegment_ok h
  split_ifs at h with hmode
  · cases h
  · rw [← taken_eq h]
    exact .enrol (not_not.1 hmode)

theorem stopEnrol_does {segment : Byte} (h : stopEnrol segment s = .ok (u, items)) : BusRequest s u := by
  obtain ⟨ix, h⟩ := withSegment_ok h
  simp only at h
  split_ifs at h with hmode
  · cases h
  · rw [← taken_eq h]
    obtain ⟨hstarting, hrun⟩ := not_or.1 hmode
    exact .stopEnrol hstarting hrun

theorem forgetPanel_does {segment address : Byte} (h : forgetPanel segment address s = .ok (u, items)) : BusRequest s u := by
  obtain ⟨ix, a, hlow, hhigh, h⟩ := withAddress_ok h
  split_ifs at h with hmode
  · cases h
  · cases hx : s.rec? ix a with
    | none => rw [hx] at h; cases h
    | some x =>
      rw [hx] at h
      simp only at h
      split_ifs at h with hflying
      · cases h
      · rw [← taken_eq h]
        rw [isRefreshing_iff, not_or, not_exists] at hflying
        exact .forget hlow hhigh (not_not.1 hmode) hx hflying.1 hflying.2

theorem refreshPanel_does {segment address : Byte} (h : refreshPanel segment address s = .ok (u, items)) : BusRequest s u := by
  obtain ⟨ix, a, hlow, hhigh, h⟩ := withAddress_ok h
  cases hx : s.rec? ix a with
  | none => rw [hx] at h; cases h
  | some x =>
    rw [hx] at h
    simp only at h
    split_ifs at h with hflying hlost
    · cases h
    · cases h
    · rw [← taken_eq h]
      rw [isRefreshing_iff, not_or, not_exists] at hflying
      refine .refresh hx ?_
      cases hs : x.state with
      | online => exact .inl rfl
      | queued => exact .inr rfl
      | loading => exact absurd hs hflying.1
      | refreshing f => exact absurd hs (hflying.2 f)
      | lost => exact absurd (decide_eq_true hs) hlost

/-- Whatever an owner takes is one of the shapes listed. -/
theorem owner_does (r : Request) (h : owner r s = .ok (u, items)) : OwnerDoes s u := by
  cases r with
  | identify => exact taken_eq h ▸ .bus .nothing
  | status => exact taken_eq h ▸ .bus .flags
  | setMask mask => exact taken_eq h ▸ .bus (.mask mask)
  | setOption number value => exact .block (setOption_does h)
  | readOption number =>
    simp only [owner, readOption] at h
    split_ifs at h
    · cases h
    · exact taken_eq h ▸ .bus .nothing
    · exact taken_eq h ▸ .bus .nothing
  | restart => exact taken_eq h ▸ .bus .nothing
  | savePlan => exact .block (savePlan_does h)
  | defineSection rev index name code => exact .block (defineSection_does h)
  | removeSection rev index => exact .block (removeSection_does h)
  | defineWall rev wall first second => exact .block (defineWall_does h)
  | removeWall rev wall => exact .block (removeWall_does h)
  | defineCombination rev index name sections => exact .block (defineCombination_does h)
  | removeCombination rev index => exact .block (removeCombination_does h)
  | definePanel rev spec => exact .block (definePanel_does h)
  | removePanel rev slot => exact .block (removePanel_does h)
  | closeSection index => exact setClosed_does h
  | openSection index => exact setClosed_does h
  | forceWall wall position => exact .block (forceWall_does h)
  | readWalls => exact taken_eq h ▸ .bus .nothing
  | readSpaces first =>
    simp only [owner, readSpaces] at h
    split_ifs at h
    · cases h
    · exact taken_eq h ▸ .bus .nothing
  | setClock day minute second => exact .block (setClock_does h)
  | adjustClock seconds => exact .block (adjustClock_does h)
  | readClock => exact taken_eq h ▸ .bus .nothing
  | storeSession spec => exact .block (storeSession_does h)
  | dropSession number => exact .block (dropSession_does h)
  | cancelSession number => exact cancelSession_does h
  | restoreSession number => exact restoreSession_does h
  | extendSession number minutes => exact extendSession_does h
  | endSession number => exact .block (endSession_does h)
  | readSession number =>
    obtain ⟨-, -, x, -, h⟩ := withSession_ok h
    exact taken_eq h ▸ .bus .nothing
  | listSessions position count =>
    simp only [owner, listSessions] at h
    split_ifs at h
    · cases h
    · exact taken_eq h ▸ .bus .nothing
  | putText rev page offset data => exact .block (putText_does h)
  | readText page offset count =>
    simp only [owner, readText] at h
    split_ifs at h
    · cases h
    · exact taken_eq h ▸ .bus .nothing
  | clearPage rev page => exact .block (clearPage_does h)
  | postNotice spec => exact .block (postNotice_does h)
  | withdrawNotice zone => exact .block (withdrawNotice_does h)
  | pinPanel slot => exact .block (pinPanel_does h)
  | unpinPanel slot => exact .block (unpinPanel_does h)
  | holdPublish => exact taken_eq h ▸ .block .hold
  | releasePublish => exact taken_eq h ▸ .block .release
  | readFace slot position =>
    simp only [owner, readFace] at h
    split_ifs at h
    · cases h
    · split at h
      · exact taken_eq h ▸ .bus .nothing
      · cases h
  | readPanel segment address =>
    obtain ⟨ix, a, -, -, h⟩ := withAddress_ok (show readPanel segment address s = .ok (u, items) from h)
    cases hx : s.rec? ix a with
    | none => rw [hx] at h; cases h
    | some x =>
      rw [hx] at h
      exact taken_eq h ▸ .bus .nothing
  | readSegment segment =>
    obtain ⟨ix, h⟩ := withSegment_ok (show readSegment segment s = .ok (u, items) from h)
    exact taken_eq h ▸ .bus .nothing
  | enrol segment => exact .bus (enrol_does h)
  | stopEnrol segment => exact .bus (stopEnrol_does h)
  | forgetPanel segment address => exact .bus (forgetPanel_does h)
  | refreshPanel segment address => exact .bus (refreshPanel_does h)

/-- A plan edit changes the plan alone. -/
theorem edit_does {r : Request} {rev : Half} (he : expectedRevision r = some rev) (h : owner r s = .ok (u, items)) : BlockRequest s u := by
  cases r with
  | defineSection rev index name code => exact defineSection_does h
  | removeSection rev index => exact removeSection_does h
  | defineWall rev wall first second => exact defineWall_does h
  | removeWall rev wall => exact removeWall_does h
  | defineCombination rev index name sections => exact defineCombination_does h
  | removeCombination rev index => exact removeCombination_does h
  | definePanel rev spec => exact definePanel_does h
  | removePanel rev slot => exact removePanel_does h
  | putText rev page offset data => exact putText_does h
  | clearPage rev page => exact clearPage_does h
  | _ => cases he

end Owners

end Sys2Proof.Machine
end

section
/-! PROOFS. Every step, taken apart: bookkeeping of the link, and at most a RESTART and one deed (spec: R173–R182, R189, R204). -/

namespace Sys2Proof.Machine

/-! ## Bookkeeping -/

/-- The blocks stand as they were; the link's own bookkeeping, the queue of commands and the time moved at most. -/
structure Quiet (s t : State) : Prop where
  lu : t.lu = s.lu
  clock : t.clock = s.clock
  sessions : t.sessions = s.sessions
  text : t.text = s.text
  fr : t.fr = s.fr
  nu : t.nu = s.nu
  sc : t.sc = s.sc
  ps : t.ps = s.ps
  flags : FlagsGood s → FlagsGood t

theorem Quiet.refl (s : State) : Quiet s s := ⟨rfl, rfl, rfl, rfl, rfl, rfl, rfl, rfl, id⟩

theorem Quiet.trans {s t u : State} (h : Quiet s t) (h' : Quiet t u) : Quiet s u :=
  ⟨h'.lu.trans h.lu, h'.clock.trans h.clock, h'.sessions.trans h.sessions, h'.text.trans h.text, h'.fr.trans h.fr,
    h'.nu.trans h.nu, h'.sc.trans h.sc, h'.ps.trans h.ps, fun hf => h'.flags (h.flags hf)⟩

theorem quiet_raise (f : Flag) (s : State) : Quiet s (raise f s) :=
  ⟨rfl, rfl, rfl, rfl, rfl, rfl, rfl, rfl, (raise_follows f s).good⟩

theorem quiet_setReceiver (r : Receiver) (s : State) : Quiet s (setReceiver r s) :=
  ⟨rfl, rfl, rfl, rfl, rfl, rfl, rfl, rfl, id⟩

theorem quiet_inService (s : State) (tag : Byte) (asked : Asked) (reply : List Byte) : Quiet s (s.inService tag asked reply) :=
  ⟨rfl, rfl, rfl, rfl, rfl, rfl, rfl, rfl, id⟩

/-! ## Deeds -/

/-- What a step does on the sign buses. -/
inductive BusDeed (s : State) : State → Prop where
  | request {u : State} : BusRequest s u → BusDeed s u
  | choose (ix : SegIx) : BusDeed s (chooseIfQuiet ix s)
  | poll (ix : SegIx) (heard : Heard) : BusDeed s (endPoll ix heard s)
  | probe (ix : SegIx) (heard : Heard) : BusDeed s (endProbe ix heard s)
  | chunk (ix : SegIx) (heard : Heard) : BusDeed s (endLoad ix heard s)
  | shown (ix : SegIx) (heard : Heard) : BusDeed s (endShow ix heard s)
  | due (ix : SegIx) (a : Nat) : BusDeed s (pollDue ix a s)
  | completion (ix : SegIx) (heard : Heard) : BusDeed s (endCompletion ix heard s)
  | final (ix : SegIx) (a : Nat) : BusDeed s (finalComes ix a s)
  | dropped (ix : SegIx) : BusDeed s (endDrop ix s)
  | ident (ix : SegIx) (heard : Heard) : BusDeed s (endRollIdent ix heard s)
  | drained (ix : SegIx) : BusDeed s (judgeDrain ix s)
  | key (ix : SegIx) : BusDeed s (endKey ix s)
  | ask (ix : SegIx) (heard : Heard) : BusDeed s (endAsk ix heard s)
  | give (ix : SegIx) (heard : Heard) : BusDeed s (endGive ix heard s)

/-- What a step does to the blocks. -/
inductive Does (s : State) : State → Prop where
  | bus {u : State} : BusDeed s u → Does s u
  | owner {u : State} : BlockRequest s u → Does s u
  | edit {u : State} : s.ps.plan ≠ .loading → s.ps.plan ≠ .saving → BlockRequest s u →
      (∃ panels, u.ps = { s.ps with panels }) → Does s (commitEdit u)
  | restart : Does s (applyRestart s)
  | reset (cause : ResetCause) (pin : Bool) : Does s (resetBlocks cause pin s)
  | load (answers : Bool) : Does s (endLoadImage answers s)
  | tick : Does s (tickHold (tickClock s))
  | holdEnds : Does s (holdRunsOut s)
  | expire : s.clock.mode = .running → s.clock.atEnd = true → Does s (expireClock s)
  | minute : s.clock.mode = .running → s.clock.atEnd = false → s.clock.second = 59 → Does s (passMinute s)
  | scan (contacts : BitVec 96) : Does s (scanWalls contacts s)
  | stage (stage : SaveStage) (passed : Bool) : Does s (endStage stage passed s)
  | flashTimeout : Does s (flashTimesOut s)

/-- One deed between bookkeeping, at most. -/
def Acts (s t : State) : Prop := Quiet s t ∨ ∃ s' t', Quiet s s' ∧ Does s' t' ∧ Quiet t' t

theorem Acts.of_does {s t : State} (h : Does s t) : Acts s t := .inr ⟨s, t, Quiet.refl s, h, Quiet.refl t⟩

theorem Acts.before {s t u : State} (h : Quiet s t) (h' : Acts t u) : Acts s u := by
  rcases h' with hq | ⟨s', t', hq, hd, hq'⟩
  · exact .inl (h.trans hq)
  · exact .inr ⟨s', t', h.trans hq, hd, hq'⟩

theorem Acts.after {s t u : State} (h : Acts s t) (h' : Quiet t u) : Acts s u := by
  rcases h with hq | ⟨s', t', hq, hd, hq'⟩
  · exact .inl (hq.trans h')
  · exact .inr ⟨s', t', hq, hd, hq'.trans h'⟩

/-! ## Requests -/

theorem plan_of_edit {r : Request} {rev : Half} {s : State} (he : expectedRevision r = some rev) (hc : commonRefusal r s = none) :
    s.ps.plan ≠ .loading ∧ s.ps.plan ≠ .saving := by
  have hlate : takenWhileLoading r = false := by
    cases r
    case identify | status => cases he
    all_goals rfl
  unfold commonRefusal at hc
  rw [he] at hc
  simp only at hc
  split_ifs at hc with hfits hloading hsaving
  exact ⟨fun hp => hloading ⟨hp, hlate⟩, hsaving⟩

theorem answer_acts (asked : Asked) (s : State) : Acts s (answer asked s).1 := by
  cases asked with
  | unknownKind kind => exact .inl (Quiet.refl s)
  | badLength kind => exact .inl (Quiet.refl s)
  | request r =>
    cases hc : commonRefusal r s with
    | some refusal =>
      have hsame : (answer (.request r) s).1 = s := by simp only [answer, hc]
      rw [hsame]
      exact .inl (Quiet.refl s)
    | none =>
      have hfinish : answer (.request r) s = finish (expectedRevision r).isSome s (owner r s) := by simp only [answer, hc]
      rw [hfinish]
      cases ho : owner r s with
      | error result => exact .inl (Quiet.refl s)
      | ok taken =>
        obtain ⟨u, items⟩ := taken
        cases he : expectedRevision r with
        | none =>
          rcases owner_does r ho with hbus | hblock
          · exact .of_does (.bus (.request hbus))
          · exact .of_does (.owner hblock)
        | some rev =>
          obtain ⟨hloading, hsaving⟩ := plan_of_edit he hc
          exact .of_does (.edit hloading hsaving (edit_does he ho) (owner_edit_ps he ho))

theorem enterService_acts (held : Held) (s : State) : Acts s (enterService held s) :=
  (answer_acts held.asked s).after (quiet_inService _ _ _ _)

theorem service_enterService (held : Held) (s : State) : (enterService held s).li.service.isSome = true := rfl

theorem offer_serving {s : State} (h : s.li.service.isSome = true) (held : Held) :
    Quiet s (offer held s) ∧ (offer held s).li.service.isSome = true := by
  obtain ⟨v, hv⟩ := Option.isSome_iff_exists.1 h
  unfold offer
  cases hw : s.li.waiting with
  | none =>
    simp only [hv]
    exact ⟨⟨rfl, rfl, rfl, rfl, rfl, rfl, rfl, rfl, id⟩, rfl⟩
  | some w =>
    simp only [hv]
    exact ⟨quiet_raise .link s, h⟩

theorem offer_acts (held : Held) (s : State) : Acts s (offer held s) ∧ (offer held s).li.service.isSome = true := by
  cases hs : s.li.service with
  | none =>
    rw [offer_free hs]
    exact ⟨enterService_acts held s, service_enterService held s⟩
  | some v =>
    obtain ⟨hq, hv⟩ := offer_serving (s := s) (by rw [hs]; rfl) held
    exact ⟨.inl hq, hv⟩

/-! ## Received bytes -/

/-- A byte moves the receiver alone, or completes a frame, which is offered (R173, R175). -/
theorem receiveByte_offers (b : Byte) (s : State) : receiveByte b s = s ∨ (∃ r, receiveByte b s = setReceiver r s)
    ∨ ∃ held, receiveByte b s = offer held (setReceiver .hunting s) := by
  unfold receiveByte
  cases s.li.receiver with
  | hunting =>
    simp only
    split
    · exact .inr (.inl ⟨_, rfl⟩)
    · exact .inl rfl
  | resync => exact .inl rfl
  | receiving got =>
    simp only [takeFrameByte, checkFrame]
    split_ifs
    · exact .inr (.inl ⟨_, rfl⟩)
    · split
      · exact .inr (.inr ⟨_, rfl⟩)
      · exact .inr (.inl ⟨_, rfl⟩)
    · exact .inr (.inl ⟨_, rfl⟩)
    · exact .inr (.inl ⟨_, rfl⟩)

theorem receiveByte_serving {s : State} (h : s.li.service.isSome = true) (b : Byte) :
    Quiet s (receiveByte b s) ∧ (receiveByte b s).li.service.isSome = true := by
  rcases receiveByte_offers b s with heq | ⟨r, heq⟩ | ⟨held, heq⟩
  · rw [heq]
    exact ⟨Quiet.refl s, h⟩
  · rw [heq]
    exact ⟨quiet_setReceiver r s, h⟩
  · rw [heq]
    obtain ⟨hq, hv⟩ := offer_serving (s := setReceiver .hunting s) h held
    exact ⟨(quiet_setReceiver .hunting s).trans hq, hv⟩

theorem receiveByte_acts (b : Byte) (s : State) :
    Quiet s (receiveByte b s) ∨ (Acts s (receiveByte b s) ∧ (receiveByte b s).li.service.isSome = true) := by
  rcases receiveByte_offers b s with heq | ⟨r, heq⟩ | ⟨held, heq⟩
  · rw [heq]
    exact .inl (Quiet.refl s)
  · rw [heq]
    exact .inl (quiet_setReceiver r s)
  · rw [heq]
    obtain ⟨ha, hv⟩ := offer_acts held (setReceiver .hunting s)
    exact .inr ⟨ha.before (quiet_setReceiver .hunting s), hv⟩

/-- While a request is in service nothing that arrives enters service (R176). -/
theorem receiveAll_serving (bytes : List Byte) {s : State} (h : s.li.service.isSome = true) : Quiet s (receiveAll bytes s) := by
  induction bytes generalizing s with
  | nil => exact Quiet.refl s
  | cons b bytes ih =>
    obtain ⟨hq, hv⟩ := receiveByte_serving h b
    exact hq.trans (ih hv)

theorem receiveAll_acts (bytes : List Byte) (s : State) : Acts s (receiveAll bytes s) := by
  induction bytes generalizing s with
  | nil => exact .inl (Quiet.refl s)
  | cons b bytes ih =>
    rcases receiveByte_acts b s with hq | ⟨ha, hv⟩
    · exact (ih (receiveByte b s)).before hq
    · exact ha.after (receiveAll_serving bytes hv)

theorem quiet_framingError (s : State) : Quiet s (framingError s) := by
  unfold framingError
  split
  · exact Quiet.refl s
  · exact quiet_setReceiver _ s
  · exact Quiet.refl s

theorem quiet_receiveGap (s : State) : Quiet s (receiveGap s) := by
  unfold receiveGap
  split
  · exact Quiet.refl s
  · exact quiet_setReceiver _ s
  · exact Quiet.refl s

theorem quiet_resyncGap (s : State) : Quiet s (resyncGap s) := by
  unfold resyncGap
  split
  · exact Quiet.refl s
  · exact Quiet.refl s
  · exact quiet_setReceiver _ s

/-! ## The step -/

/-- What a step is made of: one deed, or a RESTART and then at most one deed. -/
def StepActs (s t : State) : Prop := Acts s t ∨ ∃ s', Quiet s s' ∧ Acts (applyRestart s') t

theorem endService_acts (s : State) : Acts s (endService s) := by
  unfold endService
  simp only
  split
  · exact .inl ⟨rfl, rfl, rfl, rfl, rfl, rfl, rfl, rfl, id⟩
  next held _ =>
    refine (enterService_acts held _).before ?_
    exact ⟨rfl, rfl, rfl, rfl, rfl, rfl, rfl, rfl, id⟩

theorem replyGone_acts (s : State) : StepActs s (replyGone s) := by
  unfold replyGone
  cases hs : s.li.service with
  | none => exact .inl (.inl (Quiet.refl s))
  | some v =>
    simp only
    cases hv : v.restarts with
    | true => exact .inr ⟨s, Quiet.refl s, endService_acts (applyRestart s)⟩
    | false => exact .inl (endService_acts s)

theorem whenUp_acts {f : State → State} {s t : State} (h : whenUp f s = .next t) (hf : StepActs s (f s)) : StepActs s t := by
  unfold whenUp at h
  split at h
  · cases h
    exact .inl (.inl (Quiet.refl s))
  · cases h
    exact hf

theorem ite_does {s u : State} {c : Prop} [Decidable c] (h : c → Does s u) : StepActs s (if c then u else s) := by
  split
  next hc => exact .inl (.of_does (h hc))
  next => exact .inl (.inl (Quiet.refl s))

theorem exec_acts (c : Instr) {s t : State} (h : exec c s = .next t) : StepActs s t := by
  have hrow {r : Request} {tag : Byte} (hr : exec (rowOf tag r) s = .next t) : StepActs s t := by
    rw [exec_rowOf] at hr
    exact whenUp_acts hr (.inl (offer_acts _ s).1)
  cases c with
  | unknownKind tag kind body => exact whenUp_acts h (.inl (offer_acts _ s).1)
  | hostFrameReceived bytes => exact whenUp_acts h (.inl (receiveAll_acts bytes s))
  | lenBytesIn high low => exact whenUp_acts h (.inl (receiveAll_acts [high, low] s))
  | frameStartByte byte => exact whenUp_acts h (.inl (receiveAll_acts [byte] s))
  | framingErrorByte => exact whenUp_acts h (.inl (.inl (quiet_framingError s)))
  | receiveGapTimeout => exact whenUp_acts h (.inl (.inl (quiet_receiveGap s)))
  | resyncGapTimeout => exact whenUp_acts h (.inl (.inl (quiet_resyncGap s)))
  | replySent => exact whenUp_acts h (replyGone_acts s)
  | powerOn =>
    cases h
    exact .inl (.of_does (.reset _ _))
  | pinResetAssert =>
    simp only [exec, execPinResetAssert] at h
    injection h with h
    split at h
    · exact h ▸ .inl (.inl (Quiet.refl s))
    · exact h ▸ .inl (.of_does (.reset _ _))
  | pinResetRelease =>
    simp only [exec, execPinResetRelease] at h
    injection h with h
    split at h
    · exact h ▸ .inl (.of_does (.reset _ _))
    · exact h ▸ .inl (.inl (Quiet.refl s))
  | loadEnd answers => exact whenUp_acts h (.inl (.of_does (.load answers)))
  | secondTick => exact whenUp_acts (f := fun s => tickHold (tickClock s)) h (.inl (.of_does .tick))
  | holdTimeout => exact whenUp_acts h (ite_does (fun _ => .holdEnds))
  | clockExpire => exact whenUp_acts h (ite_does (fun hc => .expire hc.1 hc.2))
  | minuteTurnover => exact whenUp_acts h (ite_does (fun hc => .minute hc.1 (Bool.not_eq_true _ ▸ hc.2.1) hc.2.2))
  | wallScan contacts => exact whenUp_acts h (.inl (.of_does (.scan contacts)))
  | chooseExchange seg => exact whenUp_acts h (.inl (.of_does (.bus (.choose seg))))
  | roundRobinPoll seg heard => exact whenUp_acts h (.inl (.of_does (.bus (.poll seg heard))))
  | returnProbe seg heard => exact whenUp_acts h (.inl (.of_does (.bus (.probe seg heard))))
  | loadExchange seg heard => exact whenUp_acts h (.inl (.of_does (.bus (.chunk seg heard))))
  | showExchange seg heard => exact whenUp_acts h (.inl (.of_does (.bus (.shown seg heard))))
  | completionPollDue seg address => exact whenUp_acts h (.inl (.of_does (.bus (.due seg address))))
  | completionPoll seg heard => exact whenUp_acts h (.inl (.of_does (.bus (.completion seg heard))))
  | finalDeadline seg address => exact whenUp_acts h (.inl (.of_does (.bus (.final seg address))))
  | dropExchange seg => exact whenUp_acts h (.inl (.of_does (.bus (.dropped seg))))
  | rollCallIdent seg heard => exact whenUp_acts h (.inl (.of_does (.bus (.ident seg heard))))
  | drainComplete seg => exact whenUp_acts h (.inl (.of_does (.bus (.drained seg))))
  | keyExchange seg => exact whenUp_acts h (.inl (.of_does (.bus (.key seg))))
  | askExchange seg heard => exact whenUp_acts h (.inl (.of_does (.bus (.ask seg heard))))
  | giveExchange seg heard => exact whenUp_acts h (.inl (.of_does (.bus (.give seg heard))))
  | saveErase passed => exact whenUp_acts h (.inl (.of_does (.stage .erase passed)))
  | saveBody passed => exact whenUp_acts h (.inl (.of_does (.stage .body passed)))
  | saveHeader passed => exact whenUp_acts h (.inl (.of_does (.stage .header passed)))
  | flashReadyTimeout => exact whenUp_acts h (.inl (.of_does .flashTimeout))
  | identify tag => exact hrow (r := .identify) h
  | status tag => exact hrow (r := .status) h
  | setMask tag mask => exact hrow (r := .setMask mask) h
  | setOption tag number value => exact hrow (r := .setOption number value) h
  | readOption tag number => exact hrow (r := .readOption number) h
  | restart tag => exact hrow (r := .restart) h
  | savePlan tag => exact hrow (r := .savePlan) h
  | defineSection tag rev index name code => exact hrow (r := .defineSection rev index name code) h
  | removeSection tag rev index => exact hrow (r := .removeSection rev index) h
  | defineWall tag rev wall first second => exact hrow (r := .defineWall rev wall first second) h
  | removeWall tag rev wall => exact hrow (r := .removeWall rev wall) h
  | defineCombination tag rev index name sections => exact hrow (r := .defineCombination rev index name sections) h
  | removeCombination tag rev index => exact hrow (r := .removeCombination rev index) h
  | definePanel tag rev spec => exact hrow (r := .definePanel rev spec) h
  | removePanel tag rev slot => exact hrow (r := .removePanel rev slot) h
  | closeSection tag index => exact hrow (r := .closeSection index) h
  | openSection tag index => exact hrow (r := .openSection index) h
  | forceWall tag wall position => exact hrow (r := .forceWall wall position) h
  | readWalls tag => exact hrow (r := .readWalls) h
  | readSpaces tag first => exact hrow (r := .readSpaces first) h
  | setClock tag day minute second => exact hrow (r := .setClock day minute second) h
  | adjustClock tag seconds => exact hrow (r := .adjustClock seconds) h
  | readClock tag => exact hrow (r := .readClock) h
  | storeSession tag spec => exact hrow (r := .storeSession spec) h
  | dropSession tag number => exact hrow (r := .dropSession number) h
  | cancelSession tag number => exact hrow (r := .cancelSession number) h
  | restoreSession tag number => exact hrow (r := .restoreSession number) h
  | extendSession tag number minutes => exact hrow (r := .extendSession number minutes) h
  | endSession tag number => exact hrow (r := .endSession number) h
  | readSession tag number => exact hrow (r := .readSession number) h
  | listSessions tag position count => exact hrow (r := .listSessions position count) h
  | putText tag rev page offset data => exact hrow (r := .putText rev page offset data) h
  | readText tag page offset count => exact hrow (r := .readText page offset count) h
  | clearPage tag rev page => exact hrow (r := .clearPage rev page) h
  | postNotice tag spec => exact hrow (r := .postNotice spec) h
  | withdrawNotice tag zone => exact hrow (r := .withdrawNotice zone) h
  | pinPanel tag slot => exact hrow (r := .pinPanel slot) h
  | unpinPanel tag slot => exact hrow (r := .unpinPanel slot) h
  | holdPublish tag => exact hrow (r := .holdPublish) h
  | releasePublish tag => exact hrow (r := .releasePublish) h
  | readFace tag slot position => exact hrow (r := .readFace slot position) h
  | readPanel tag segment address => exact hrow (r := .readPanel segment address) h
  | readSegment tag segment => exact hrow (r := .readSegment segment) h
  | enrol tag segment => exact hrow (r := .enrol segment) h
  | stopEnrol tag segment => exact hrow (r := .stopEnrol segment) h
  | forgetPanel tag segment address => exact hrow (r := .forgetPanel segment address) h
  | refreshPanel tag segment address => exact hrow (r := .refreshPanel segment address) h

theorem step_acts {s t : State} (h : step s = .next t) : StepActs s t := by
  unfold step at h
  split at h
  · cases h
    exact .inl (.inl ⟨rfl, rfl, rfl, rfl, rfl, rfl, rfl, rfl, id⟩)
  next c rest _ =>
    have hqueue : Quiet s { s with pending := rest } := ⟨rfl, rfl, rfl, rfl, rfl, rfl, rfl, rfl, id⟩
    rcases exec_acts c h with ha | ⟨s', hq, ha⟩
    · exact .inl (ha.before hqueue)
    · exact .inr ⟨s', hqueue.trans hq, ha⟩

/-- What bookkeeping and every deed keep, every step keeps. -/
theorem step_keeps {P : State → Prop} (hquiet : ∀ s t, Quiet s t → P s → P t) (hdoes : ∀ s t, Does s t → P s → P t) {s t : State}
    (h : step s = .next t) (hs : P s) : P t := by
  have hacts {u v : State} (ha : Acts u v) (hu : P u) : P v := by
    rcases ha with hq | ⟨u', v', hq, hd, hq'⟩
    · exact hquiet u v hq hu
    · exact hquiet v' v hq' (hdoes u' v' hd (hquiet u u' hq hu))
  rcases step_acts h with ha | ⟨s', hq, ha⟩
  · exact hacts ha hs
  · exact hacts ha (hdoes s' _ .restart (hquiet s s' hq hs))

end Sys2Proof.Machine
end

section
/-! PROOFS. Work on the records and the segments that leaves every other block, and every record's serial, class and binding
(spec: R117–R122, R134–R144, R146–R170). -/

namespace Sys2Proof.Machine

/-! ## What it leaves -/

/-- What names a record and ties it to its face: serial, class and binding. -/
def Rec.named (r : Rec) : Serial × PanelClass × Option Nat := (r.serial, r.cls, r.binding)

/-- The names of a segment's records. -/
def Seg.named (g : Seg) : Table (Serial × PanelClass × Option Nat) := Table.mapVals Rec.named g.recs

/-- `t` is `s` after work on segments and records alone: every other block stands, and every record keeps its names. -/
structure SegWork (s t : State) : Prop where
  lu : t.lu = s.lu
  clock : t.clock = s.clock
  sessions : t.sessions = s.sessions
  text : t.text = s.text
  fr : t.fr = s.fr
  nu : t.nu = s.nu
  ps : t.ps = s.ps
  flags : FlagsGood s → FlagsGood t
  named : ∀ ix, (t.seg ix).named = (s.seg ix).named

namespace SegWork

variable {s t u : State} {ix : SegIx}

theorem refl (s : State) : SegWork s s := ⟨rfl, rfl, rfl, rfl, rfl, rfl, rfl, id, fun _ => rfl⟩

theorem trans (h : SegWork s t) (h' : SegWork t u) : SegWork s u :=
  ⟨h'.lu.trans h.lu, h'.clock.trans h.clock, h'.sessions.trans h.sessions, h'.text.trans h.text, h'.fr.trans h.fr,
    h'.nu.trans h.nu, h'.ps.trans h.ps, fun hf => h'.flags (h.flags hf), fun ix => (h'.named ix).trans (h.named ix)⟩

theorem after (h' : SegWork t u) (h : SegWork s t) : SegWork s u := h.trans h'

theorem setSeg {g : Seg} (h : g.named = (s.seg ix).named) : SegWork s (s.setSeg ix g) where
  lu := rfl
  clock := rfl
  sessions := rfl
  text := rfl
  fr := rfl
  nu := rfl
  ps := rfl
  flags := id
  named jx := by
    by_cases hj : jx = ix
    · subst hj
      rw [seg_setSeg_same]
      exact h
    · rw [seg_setSeg_other s g hj]

theorem raise (f : Flag) (s : State) : SegWork s (raise f s) :=
  ⟨rfl, rfl, rfl, rfl, rfl, rfl, rfl, (raise_follows f s).good, fun _ => rfl⟩

theorem raiseIf (c : Bool) (f : Flag) (s : State) : SegWork s (raiseIf c f s) := by
  unfold Machine.raiseIf
  split
  · exact raise f s
  · exact refl s

theorem atTime (s : State) (n : Nat) : SegWork s { s with time := n } := ⟨rfl, rfl, rfl, rfl, rfl, rfl, rfl, id, fun _ => rfl⟩

/-- Work seen through a view of the records that shows their names. -/
theorem of_records {f : Rec → Rec} (hf : ∀ r : Rec, (f r).named = r.named) (h : RecordWork f s t) : SegWork s t where
  lu := h.through.lu
  clock := h.through.clock
  sessions := h.sessions
  text := h.through.text
  fr := h.fr
  nu := h.through.nu
  ps := h.through.ps
  flags := h.through.good
  named ix := by
    have hview (t : Table Rec) : Table.mapVals Rec.named t = Table.mapVals Rec.named (Table.mapVals f t) :=
      (Table.mapVals_mapVals f Rec.named t).trans (Table.mapVals_congr t hf) |>.symm
    rw [Seg.named, Seg.named, hview, h.through.recs, ← hview]

theorem of_follows (h : Follows s t) (hsessions : t.sessions = s.sessions) (hfr : t.fr = s.fr) : SegWork s t :=
  of_records (f := Rec.kept) (fun _ => rfl) (RecordWork.of_follows seesKept_kept h hsessions hfr)

end SegWork

/-! ## Names of a segment -/

theorem named_put {g : Seg} {a : Nat} {x y : Rec} (hx : Table.get g.recs a = some x) (h : y.named = x.named) :
    Table.mapVals Rec.named (Table.put g.recs a y) = g.named := Table.mapVals_put Rec.named _ _ _ _ hx h

theorem putRec_work {s : State} {ix : SegIx} {a : Nat} {x y : Rec} (hx : s.rec? ix a = some x) (h : y.named = x.named) :
    SegWork s (s.putRec ix a y) :=
  SegWork.setSeg (g := { s.seg ix with recs := Table.put (s.seg ix).recs a y }) (named_put hx h)

theorem named_startCompletion (g : Seg) (a : Nat) : (g.startCompletion a).named = g.named := by
  unfold Seg.named Seg.startCompletion Table.mapVals
  rw [List.map_map]
  refine List.map_congr_left (fun e _ => ?_)
  simp only [Function.comp_apply]
  split
  · cases hs : e.2.state <;> rfl
  · rfl

theorem named_startRoundRobin (g : Seg) : g.startRoundRobin.named = g.named := by
  unfold Seg.startRoundRobin
  split <;> rfl

theorem named_startTransferFrame {g g' : Seg} (h : g.startTransferFrame = some g') : g'.named = g.named := by
  unfold Seg.startTransferFrame at h
  split at h
  · cases h
  · split_ifs at h
    · cases h
      rfl
    · obtain ⟨r, -, hr⟩ := Option.map_eq_some_iff.1 h
      rw [← hr]
      rfl

/-! ## Records -/

section Records

variable {s : State} {ix : SegIx} {a : Nat} {x y : Rec}

theorem evaluate_segWork (ix : SegIx) (a : Nat) (s : State) : SegWork s (evaluate ix a s) :=
  .of_follows (evaluate_follows ix a s) rfl rfl

theorem loseRecord_segWork (hx : s.rec? ix a = some x) (h : y.named = x.named) : SegWork s (loseRecord ix a y s) :=
  (SegWork.raise .panel _).after (.setSeg (named_put hx h))

theorem setOnline_segWork (hx : s.rec? ix a = some x) (h : y.named = x.named) :
    SegWork s (s.setSeg ix ((s.seg ix).setOnline a y)) := .setSeg (named_put hx h)

theorem leaveLoading_segWork (v : Transfer) (hx : s.rec? ix a = some x) (h : y.named = x.named) :
    SegWork s (leaveLoading ix a v y s) := by
  have hended : SegWork s (s.setSeg ix { s.seg ix with transfer := none }) := .setSeg rfl
  have hx' : (s.setSeg ix { s.seg ix with transfer := none }).rec? ix a = some x := by
    rw [State.rec?, seg_setSeg_same]
    exact hx
  unfold leaveLoading
  simp only
  split_ifs
  · exact hended.trans (loseRecord_segWork hx' h)
  · exact hended.trans (.setSeg (named_put hx' h))
  · exact hended.trans (.setSeg (named_put hx' h))

theorem leaveRefreshing_segWork (hx : s.rec? ix a = some x) (h : y.named = x.named) :
    SegWork s (leaveRefreshing ix a y s) := by
  unfold leaveRefreshing
  split_ifs
  · exact loseRecord_segWork hx h
  · exact (setOnline_segWork hx h).trans (evaluate_segWork ix a _)

theorem wantedFaceChange_segWork (ix : SegIx) (a : Nat) (digest : Half) (template : Template) (s : State) :
    SegWork s (wantedFaceChange ix a digest template s) :=
  .of_follows (wantedFaceChange_follows ix a digest template s) (wantedFaceChange_only ix a digest template s).sessions
    (wantedFaceChange_fr ix a digest template s)

theorem judgeColdAll_segWork (s : State) : SegWork s (judgeColdAll s) :=
  .of_records (f := Rec.unjudged) (fun _ => rfl) (judgeColdAll_records s)

theorem forceFull_segWork (hx : s.rec? ix a = some x) : SegWork s (forceFull ix a x s) := by
  refine (putRec_work hx (y := { x with forcedFull := true }) rfl).trans (.setSeg ?_)
  have hkept := congrArg Seg.recs (Seg.kept_evaluate ((s.putRec ix a { x with forcedFull := true }).seg ix) a .normal)
  have hview (g : Seg) : g.named = Table.mapVals Rec.named (Table.mapVals Rec.kept g.recs) :=
    (Table.mapVals_mapVals Rec.kept Rec.named g.recs).symm
  rw [hview, hview]
  exact congrArg (Table.mapVals Rec.named) hkept

end Records

/-! ## The choice of the next exchange -/

section Choice

variable (ix : SegIx) (s : State)

theorem admitEntry_segWork {f : Found} {x : Rec} (hx : s.rec? ix f.entry.address = some x) : SegWork s (admitEntry ix f x s) :=
  .setSeg (named_put hx rfl)

theorem chooseByUse_segWork : SegWork s (chooseByUse ix s) := by
  unfold chooseByUse
  simp only
  split
  · exact .setSeg rfl
  · split
    · exact .setSeg (named_startCompletion _ _)
    · split
      next hframe => exact .setSeg (named_startTransferFrame hframe)
      next =>
        split
        next hf =>
          refine admitEntry_segWork ix s ?_
          unfold admission at hf
          simp only at hf
          split_ifs at hf
          split at hf
          · obtain ⟨r, hr, hpair⟩ := Option.map_eq_some_iff.1 hf
            cases hpair
            exact hr
          · cases hf
        next => exact .setSeg (named_startRoundRobin _)

theorem endEnrolment_segWork (result : EnrolResult) : SegWork s (endEnrolment ix result s) :=
  (SegWork.raise .enrol _).after (.setSeg rfl)

theorem chooseNext_segWork : SegWork s (chooseNext ix s) := by
  unfold chooseNext
  simp only
  split
  · exact chooseByUse_segWork ix s
  · split_ifs
    · exact .setSeg rfl
    · exact chooseByUse_segWork ix s
  · exact .setSeg rfl
  · split_ifs
    · exact (endEnrolment_segWork ix s _).trans (chooseByUse_segWork ix _)
    · split
      · exact (endEnrolment_segWork ix s _).trans (chooseByUse_segWork ix _)
      · exact .setSeg rfl
  · split_ifs
    · exact .refl s
    · exact .setSeg rfl

theorem endExchange_segWork : SegWork s (endExchange ix s) := (chooseNext_segWork ix _).after (.setSeg rfl)

theorem judgeDrain_segWork : SegWork s (judgeDrain ix s) := by
  unfold judgeDrain
  simp only
  split_ifs
  · exact .setSeg rfl
  · exact .refl s

theorem chooseIfQuiet_segWork : SegWork s (chooseIfQuiet ix s) := by
  unfold chooseIfQuiet
  split
  · exact chooseNext_segWork ix s
  · exact .refl s

theorem rollAdvance_segWork : SegWork s (rollAdvance ix s) := by
  unfold rollAdvance
  simp only
  split_ifs
  · exact (chooseNext_segWork ix _).after (.setSeg rfl)
  · exact .setSeg rfl

theorem follow_segWork (e : Exchange) : SegWork s (follow ix e s) := .setSeg rfl

theorem movePointer_segWork (a : Nat) : SegWork s (movePointer ix a s) := .setSeg rfl

theorem markDrop_segWork (a : Nat) : SegWork s (markDrop ix a s) := .setSeg rfl

theorem stopEnrolment_segWork : SegWork s (stopEnrolment ix s) := by
  unfold stopEnrolment
  split
  · exact endEnrolment_segWork ix s _
  · split_ifs
    · exact endEnrolment_segWork ix s _
    · exact .setSeg rfl
  · exact .setSeg rfl
  · exact .refl s
  · exact .refl s

end Choice

/-! ## Polls, transfers, refreshes -/

section Exchanges

variable (ix : SegIx) (s : State)

theorem pollOutcome_segWork (a : Nat) (heard : Heard) : SegWork s (pollOutcome ix a heard s) := by
  have hanswered {x : Rec} (rep : StateReport) (hx : s.rec? ix a = some x) : SegWork s (pollAnswered ix a x rep s) :=
    (evaluate_segWork ix a _).after ((SegWork.raiseIf _ .cold _).after (putRec_work hx rfl))
  have hmissed {x : Rec} (hx : s.rec? ix a = some x) : SegWork s (pollMissed ix a x s) := by
    unfold pollMissed
    simp only
    split_ifs
    · exact loseRecord_segWork hx rfl
    · exact putRec_work hx rfl
  unfold pollOutcome
  split
  · exact .refl s
  next hx =>
    split
    · exact hanswered _ hx
    · exact hmissed hx
    · exact hmissed hx

theorem endPoll_segWork (heard : Heard) : SegWork s (endPoll ix heard s) := by
  unfold endPoll
  split
  · exact (pollOutcome_segWork ix s _ heard).trans ((movePointer_segWork ix _ _).trans (endExchange_segWork ix _))
  · exact .refl s

theorem chunkFailed_segWork (v : Transfer) : SegWork s (chunkFailed ix v s) := by
  unfold chunkFailed
  split_ifs
  · exact .refl s
  · split
    · exact .setSeg rfl
    next hx => exact leaveLoading_segWork v hx rfl

theorem endAbandoned_segWork (v : Transfer) : SegWork s (endAbandoned ix v s) := by
  unfold endAbandoned
  split
  · exact .setSeg rfl
  next hx => exact leaveLoading_segWork v hx rfl

theorem loadOutcome_segWork (a index : Nat) (heard : Heard) : SegWork s (loadOutcome ix a index heard s) := by
  unfold loadOutcome
  split
  · exact .refl s
  · split_ifs
    · exact endAbandoned_segWork ix s _
    · split
      · split_ifs
        · exact .setSeg rfl
        · exact chunkFailed_segWork ix s _
      · exact chunkFailed_segWork ix s _
      · exact chunkFailed_segWork ix s _

theorem endLoad_segWork (heard : Heard) : SegWork s (endLoad ix heard s) := by
  unfold endLoad
  split
  · exact (loadOutcome_segWork ix s _ _ heard).trans (endExchange_segWork ix _)
  · exact .refl s

theorem enterRefreshing_segWork {a : Nat} {x y : Rec} (v : Transfer) (duration : Nat) (confirmed : Bool) (hx : s.rec? ix a = some x)
    (h : y.named = x.named) : SegWork s (enterRefreshing ix a v y duration confirmed s) := .setSeg (named_put hx h)

theorem showOutcome_segWork (a duration : Nat) (heard : Heard) : SegWork s (showOutcome ix a duration heard s) := by
  unfold showOutcome
  split
  next hx =>
    split
    · exact enterRefreshing_segWork ix s _ duration true hx rfl
    · exact leaveLoading_segWork _ hx rfl
    · exact enterRefreshing_segWork ix s _ duration false hx rfl
    · exact enterRefreshing_segWork ix s _ duration false hx rfl
  · exact .refl s

theorem endShow_segWork (heard : Heard) : SegWork s (endShow ix heard s) := by
  unfold endShow
  split
  · exact (showOutcome_segWork ix s _ _ heard).trans (endExchange_segWork ix _)
  · exact .refl s

theorem setRefresh_segWork {a : Nat} {x : Rec} (f : Refresh) (hx : s.rec? ix a = some x) : SegWork s (setRefresh ix a x f s) :=
  putRec_work hx rfl

theorem pollDue_segWork (a : Nat) : SegWork s (pollDue ix a s) := by
  unfold pollDue
  split
  next hx =>
    split
    · split_ifs
      · exact (SegWork.atTime s _).trans (setRefresh_segWork ix _ _ hx)
      · exact .refl s
    all_goals exact .refl s
  · exact .refl s

theorem releaseDraw_segWork (draw : Nat) : SegWork s (releaseDraw ix draw s) := .setSeg rfl

theorem rec_releaseDraw (draw a : Nat) : (releaseDraw ix draw s).rec? ix a = s.rec? ix a := by
  rw [State.rec?, releaseDraw, seg_setSeg_same]
  rfl

theorem completeRefresh_segWork {a : Nat} {x : Rec} (f : Refresh) (rep : StateReport) (hx : s.rec? ix a = some x) :
    SegWork s (completeRefresh ix a x f rep s) := by
  have hnamed : (x.completed s.ps.options.refreshFloor f rep).named = x.named := by
    unfold Rec.completed
    simp only
    split <;> rfl
  exact (SegWork.raiseIf _ .cold s).trans ((releaseDraw_segWork ix _ f.draw).trans
    (leaveRefreshing_segWork (by rw [rec_releaseDraw, rec_raiseIf]; exact hx) hnamed))

theorem giveUp_segWork {a : Nat} {x : Rec} (f : Refresh) (hx : s.rec? ix a = some x) : SegWork s (giveUp ix a x f s) :=
  (releaseDraw_segWork ix s f.draw).trans (leaveRefreshing_segWork (x := x) (by rw [rec_releaseDraw]; exact hx) rfl)

theorem finalAfterPoll_segWork (a : Nat) : SegWork s (finalAfterPoll ix a s) := by
  unfold finalAfterPoll
  split
  next hx =>
    split
    · split_ifs
      · exact giveUp_segWork ix s _ hx
      · exact .refl s
    all_goals exact .refl s
  · exact .refl s

theorem completionOutcome_segWork (a : Nat) (heard : Heard) : SegWork s (completionOutcome ix a heard s) := by
  unfold completionOutcome
  split
  next hx =>
    split
    · split_ifs
      · exact (SegWork.raiseIf _ .cold _).after (putRec_work hx rfl)
      · exact completeRefresh_segWork ix s _ _ hx
    · exact .refl s
  · exact .refl s

theorem endCompletion_segWork (heard : Heard) : SegWork s (endCompletion ix heard s) := by
  unfold endCompletion
  split
  · exact (completionOutcome_segWork ix s _ heard).trans ((finalAfterPoll_segWork ix _ _).trans (endExchange_segWork ix _))
  · exact .refl s

theorem finalComes_segWork (a : Nat) : SegWork s (finalComes ix a s) := by
  unfold finalComes
  split
  next hx =>
    split
    next f _ =>
      simp only
      split_ifs
      · exact (SegWork.atTime s _).trans (setRefresh_segWork ix _ _ hx)
      · exact (judgeDrain_segWork ix _).after ((giveUp_segWork ix { s with time := max s.time f.final } f hx).after (.atTime s _))
    all_goals exact .refl s
  · exact .refl s

end Exchanges

/-! ## Keying and searching -/

section Search

variable (ix : SegIx) (s : State)

theorem endKey_segWork : SegWork s (endKey ix s) := by
  unfold endKey
  split
  · exact (endExchange_segWork ix _).after (.setSeg rfl)
  · exact .refl s

theorem askCollided_segWork (stem : Bits) : SegWork s (askCollided ix stem s) := by
  unfold askCollided
  split_ifs
  · exact .setSeg rfl
  · exact .raise .panel s

theorem askAnswered_segWork (serial : Serial) : SegWork s (askAnswered ix serial s) := by
  unfold askAnswered
  split_ifs
  · exact endExchange_segWork ix s
  · split
    · exact (endEnrolment_segWork ix s _).trans (endExchange_segWork ix _)
    · exact follow_segWork ix s _

theorem endAsk_segWork (heard : Heard) : SegWork s (endAsk ix heard s) := by
  unfold endAsk
  split
  · split
    · exact endExchange_segWork ix s
    · exact (askCollided_segWork ix s _).trans (endExchange_segWork ix _)
    · split_ifs
      · exact askAnswered_segWork ix s _
      · exact (askCollided_segWork ix s _).trans (endExchange_segWork ix _)
  · exact .refl s

theorem countEnrolled_segWork : SegWork s (countEnrolled ix s) := .setSeg rfl

end Search

end Sys2Proof.Machine
end

section
/-! PROOFS. The steps that work on the sign buses are made of: segment work, faces recomputed, records created, bound and deleted.
What each keeps of the tables, the records, the bindings and the faces (spec: R70–R72, R97, R100, R110, R114–R116, R119, R131,
R141). -/

namespace Sys2Proof.Machine

/-! ## Records by their names -/

/-- The names of the record at an address. -/
def State.nameAt (s : State) (ix : SegIx) (a : Nat) : Option (Serial × PanelClass × Option Nat) := (s.rec? ix a).map Rec.named

theorem nameAt_eq (s : State) (ix : SegIx) (a : Nat) : s.nameAt ix a = Table.get (s.seg ix).named a :=
  (Table.get_mapVals _ _ _).symm

theorem bindingAt_eq (s : State) (ix : SegIx) (a : Nat) : s.bindingAt ix a = (s.nameAt ix a).map (·.2.2) := by
  rw [State.nameAt, Option.map_map]
  rfl

section Named

variable {s t : State} (h : ∀ ix, (t.seg ix).named = (s.seg ix).named)

include h

theorem nameAt_of_named (ix : SegIx) (a : Nat) : t.nameAt ix a = s.nameAt ix a := by
  rw [nameAt_eq, nameAt_eq, h]

theorem bindingAt_of_named (ix : SegIx) (a : Nat) : t.bindingAt ix a = s.bindingAt ix a := by
  rw [bindingAt_eq, bindingAt_eq, nameAt_of_named h]

theorem rising_of_named (hs : ∀ ix, Table.rising (s.seg ix).recs = true) (ix : SegIx) : Table.rising (t.seg ix).recs = true := by
  rw [← rising_mapVals Rec.named]
  exact (congrArg Table.rising (h ix)).trans ((rising_mapVals Rec.named _).trans (hs ix))

theorem bound_of_named : t.bound = s.bound := by
  refine State.bound_congr (fun ix => ?_)
  have hview (g : Seg) : g.bound = g.named.map (fun e => (e.2.2.2, e.2.2.1)) := by
    simp only [Seg.bound, Seg.named, Table.mapVals, List.map_map]
    rfl
  rw [hview, hview, h]

theorem recordsGood_of_named (hs : RecordsGood s) : RecordsGood t := by
  obtain ⟨hrising, hone⟩ := (recordsGood_iff s).1 hs
  refine (recordsGood_iff t).2 ⟨rising_of_named h hrising, fun ix a jx b n hx hy => ?_⟩
  rw [bindingAt_of_named h] at hx hy
  exact hone ix a jx b n hx hy

end Named

theorem SegWork.faces {s t : State} (h : SegWork s t) (hs : FacesNow s) : FacesNow t := by
  have hview : faceView t = faceView s := by
    simp only [faceView, h.sessions, h.lu, h.clock, h.text, h.nu, h.ps]
  exact hs.congr hview (by rw [h.nu]) (by rw [h.ps]) (bound_of_named h.named) h.fr

/-- A slot is held exactly when a record is bound to it. -/
theorem holder_isSome_iff (s : State) (hs : RecordsGood s) (n : Nat) :
    (s.holder n).isSome = true ↔ ∃ ix a, s.bindingAt ix a = some (some n) := by
  constructor
  · intro hh
    obtain ⟨h, hh⟩ := Option.isSome_iff_exists.1 hh
    obtain ⟨hx, hb⟩ := rec_of_holder hs hh
    exact ⟨h.seg, h.address, by rw [State.bindingAt, hx]; exact congrArg some hb⟩
  · rintro ⟨ix, a, hb⟩
    obtain ⟨x, hx, hb⟩ := Option.map_eq_some_iff.1 hb
    rw [holder_of_bound hs hx hb]
    rfl

theorem holderClass_iff (s : State) (hs : RecordsGood s) (n : Nat) (c : PanelClass) :
    s.holderClass n = some c ↔ ∃ ix a serial, s.nameAt ix a = some (serial, c, some n) := by
  constructor
  · intro hh
    obtain ⟨h, hh, hc⟩ := Option.map_eq_some_iff.1 hh
    obtain ⟨hx, hb⟩ := rec_of_holder hs hh
    refine ⟨h.seg, h.address, h.rec_.serial, ?_⟩
    rw [State.nameAt, hx, ← hc, ← hb]
    rfl
  · rintro ⟨ix, a, serial, hname⟩
    obtain ⟨x, hx, hname⟩ := Option.map_eq_some_iff.1 hname
    simp only [Rec.named, Prod.mk.injEq] at hname
    obtain ⟨-, hc, hb⟩ := hname
    rw [State.holderClass, holder_of_bound hs hx hb]
    exact congrArg some hc

theorem nameAt_putRec (s : State) (ix jx : SegIx) (a b : Nat) (y : Rec) :
    (s.putRec ix a y).nameAt jx b = if jx = ix ∧ b = a then some y.named else s.nameAt jx b := by
  rw [State.nameAt, rec_putRec]
  split_ifs <;> rfl

/-- A record put anywhere with no binding, or bound to a slot that no other record holds. -/
theorem RecordsGood.putBound {s : State} (hs : RecordsGood s) {ix : SegIx} {a : Nat} {y : Rec}
    (hy : ∀ n jx b, y.binding = some n → s.bindingAt jx b = some (some n) → jx = ix ∧ b = a) : RecordsGood (s.putRec ix a y) := by
  obtain ⟨hrising, hone⟩ := (recordsGood_iff s).1 hs
  refine (recordsGood_iff _).2 ⟨fun jx => rising_putRec hrising ix a y jx, fun jx b kx c n hx hz => ?_⟩
  rw [bindingAt_putRec] at hx hz
  split_ifs at hx hz with hb hc hc
  · exact ⟨hb.1.trans hc.1.symm, hb.2.trans hc.2.symm⟩
  · exact absurd (hy n kx c (Option.some.inj hx) hz) hc
  · exact absurd (hy n jx b (Option.some.inj hz) hx) hb
  · exact hone jx b kx c n hx hz

/-! ## FR's part -/

theorem Follows.withFr {s t : State} (h : Follows s t) (fr : Resolver) : Follows { s with fr } t := ⟨h.kept, h.grow, h.good⟩

/-- FR's own tables aside, a recomputation is segment work. -/
theorem recomputeSlot_segWork (slot : Nat) (s : State) :
    SegWork { s with fr := (recomputeSlot slot s).fr } (recomputeSlot slot s) :=
  .of_follows ((recomputeSlot_work slot s).follows.withFr _) (recomputeSlot_work slot s).sessions rfl

theorem recomputeSlot_named (slot : Nat) (s : State) (ix : SegIx) : ((recomputeSlot slot s).seg ix).named = (s.seg ix).named :=
  (recomputeSlot_segWork slot s).named ix

theorem recomputeSlot_fr_unbound {s : State} {slot : Nat} (h : Table.get s.ps.panels slot = none ∨ s.holder slot = none) :
    (recomputeSlot slot s).fr = (s.dropFace slot).fr := by
  unfold recomputeSlot
  cases hp : Table.get s.ps.panels slot with
  | none => rfl
  | some p =>
    cases hh : s.holder slot with
    | none => rfl
    | some q =>
      rw [hp, hh] at h
      exact absurd h (by simp)

/-- FR's tables keep their form. -/
def FrRising (fr : Resolver) : Prop := Table.rising fr.faces = true ∧ Table.rising fr.pages = true

theorem recomputeSlot_frRising {s : State} (h : FrRising s.fr) (slot : Nat) : FrRising (recomputeSlot slot s).fr := by
  obtain ⟨hfaces, hpages⟩ := h
  cases hp : Table.get s.ps.panels slot with
  | none =>
    rw [recomputeSlot_fr_unbound (.inl hp)]
    exact ⟨Table.rising_filter hfaces _, hpages⟩
  | some p =>
    cases hc : s.holderClass slot with
    | none =>
      rw [recomputeSlot_fr_unbound (.inr (Option.map_eq_none_iff.1 hc))]
      exact ⟨Table.rising_filter hfaces _, hpages⟩
    | some cls =>
      have hfr := recomputeSlot_fr_bound hp hc
      simp only at hfr
      rw [hfr]
      refine ⟨Table.rising_put hfaces _ _, ?_⟩
      unfold State.storeFace
      simp only
      split
      · exact Table.rising_put hpages _ _
      · exact hpages

/-- After a recomputation a face stands for a slot only if it did or the slot is held. -/
theorem recomputeSlot_faceHeld {s : State} {slot n : Nat} (h : (Table.get (recomputeSlot slot s).fr.faces n).isSome = true) :
    (n ≠ slot ∧ (Table.get s.fr.faces n).isSome = true) ∨ (n = slot ∧ (s.holder slot).isSome = true) := by
  by_cases hn : n = slot
  · subst hn
    refine .inr ⟨rfl, ?_⟩
    by_contra hno
    rw [Bool.not_eq_true, Option.isSome_eq_false_iff, Option.isNone_iff_eq_none] at hno
    rw [recomputeSlot_fr_unbound (.inr hno), State.dropFace, Table.get_del_same] at h
    cases h
  · rw [(recomputeSlot_fr_other s hn).1] at h
    exact .inl ⟨hn, h⟩

theorem resolverLoses_frRising {s : State} (h : FrRising s.fr) (slot : Nat) : FrRising (resolverLoses slot s).fr := by
  obtain ⟨hfaces, hpages⟩ := h
  rw [resolverLoses_eq]
  refine ⟨Table.rising_filter hfaces _, ?_⟩
  unfold resolverLoses resetPage
  split
  · exact Table.rising_put hpages _ _
  · exact hpages

theorem resolverLoses_faces (slot : Nat) (s : State) : (resolverLoses slot s).fr.faces = Table.del s.fr.faces slot := by
  rw [resolverLoses_eq]

theorem resolverLoses_fr_other (s : State) {slot n : Nat} (h : n ≠ slot) :
    Table.get (resolverLoses slot s).fr.faces n = Table.get s.fr.faces n
      ∧ Table.get (resolverLoses slot s).fr.pages n = Table.get s.fr.pages n := by
  refine ⟨by rw [resolverLoses_faces, Table.get_del_other _ h], ?_⟩
  rw [resolverLoses, pages_resetPage, if_neg h]
  rfl

theorem resolverLoses_segWork (slot : Nat) (s : State) : SegWork { s with fr := (resolverLoses slot s).fr } (resolverLoses slot s) :=
  .of_follows ((resolverLoses_follows slot s).withFr _) (by rw [resolverLoses_eq]) rfl

theorem rec_setSeg (s : State) (ix jx : SegIx) (g : Seg) (b : Nat) :
    (s.setSeg ix g).rec? jx b = if jx = ix then Table.get g.recs b else s.rec? jx b := by
  unfold State.rec?
  split_ifs with h
  · rw [h, seg_setSeg_same]
  · rw [seg_setSeg_other s g h]

theorem rec_markDrop (ix jx : SegIx) (a b : Nat) (s : State) : (markDrop ix a s).rec? jx b = s.rec? jx b := by
  rw [markDrop, rec_setSeg]
  by_cases h : jx = ix
  · rw [if_pos h, h]
    rfl
  · rw [if_neg h]

theorem rec_deleteRecord (ix jx : SegIx) (a b : Nat) (s : State) :
    (deleteRecord ix a s).rec? jx b = if jx = ix ∧ b = a then none else s.rec? jx b := by
  cases hx : s.rec? ix a with
  | none =>
    have hstands : deleteRecord ix a s = s := by simp only [deleteRecord, hx]
    rw [hstands]
    split_ifs with h
    · rw [h.1, h.2]
      exact hx
    · rfl
  | some x =>
    obtain ⟨fr, nu, heq, -⟩ := deleteRecord_eq hx
    rw [heq]
    refine (rec_setSeg s ix jx _ b).trans ?_
    by_cases hj : jx = ix
    · subst hj
      rw [if_pos rfl]
      refine (Table.get_del _ _ _).trans ?_
      simp only [true_and]
      rfl
    · rw [if_neg hj, if_neg (fun h => hj h.1)]

/-! ## The steps -/

/-- One step of work on the buses. `vacant` is what the caller knows of the addresses at which records are created. -/
inductive BusStep (vacant : Prop) (s : State) : State → Prop where
  | work {t : State} : SegWork s t → BusStep vacant s t
  | recompute (slot : Nat) : BusStep vacant s (recomputeSlot slot s)
  | renew {ix : SegIx} {a : Nat} {x y : Rec} : s.rec? ix a = some x → x.binding = none → y.binding = none →
      BusStep vacant s (s.putRec ix a y)
  | reclass {ix : SegIx} {a slot : Nat} {x y : Rec} : s.rec? ix a = some x → x.binding = some slot → y.binding = some slot →
      y.serial = x.serial → BusStep vacant s (recomputeSlot slot (raise .panel (s.putRec ix a y)))
  | create {ix : SegIx} {a : Nat} {y : Rec} : (vacant → s.rec? ix a = none) → y.binding = none → BusStep vacant s (s.putRec ix a y)
  | bind {ix : SegIx} {a slot : Nat} {x : Rec} {p : PanelSlot} : s.rec? ix a = some x → s.holder slot = none →
      (slot, p) ∈ s.ps.panels → p.serial = x.serial → BusStep vacant s (bindRecord ix a slot s)
  | delete (ix : SegIx) (a : Nat) : BusStep vacant s (deleteRecord ix a s)

/-- Several such steps. -/
abbrev BusSteps (vacant : Prop) : State → State → Prop := Relation.ReflTransGen (BusStep vacant)

section Steps

variable {vacant : Prop} {s t : State} {ix : SegIx} {a : Nat}

theorem SegWork.steps (h : SegWork s t) : BusSteps vacant s t := .single (.work h)

theorem createRecord_steps {serial : Serial} (cls : PanelClass) (shown : Option Half) (hnew : vacant → s.rec? ix a = none) :
    BusSteps vacant s (createRecord ix a serial cls shown s) := by
  have hcreated : BusStep vacant s (s.putRec ix a (Rec.fresh serial cls shown)) := .create hnew rfl
  have hevaluated (u : State) : BusSteps vacant u (evaluate ix a u) := (evaluate_segWork ix a u).steps
  have hraised (f : Flag) (u : State) : BusSteps vacant u (raise f u) := (SegWork.raise f u).steps
  unfold createRecord
  simp only
  split
  · exact (Relation.ReflTransGen.single hcreated).trans ((hraised .stray _).trans (hevaluated _))
  next slot hslot =>
    split
    next hfree =>
      obtain ⟨e, he, rfl⟩ := Option.map_eq_some_iff.1 hslot
      have hmem := List.mem_of_find?_eq_some he
      have hserial : e.2.serial = serial := by simpa using List.find?_some he
      exact (Relation.ReflTransGen.single hcreated).trans
        ((Relation.ReflTransGen.single (.bind (rec_putRec_same s ix a _) hfree hmem hserial)).trans (hevaluated _))
    · exact (Relation.ReflTransGen.single hcreated).trans ((hraised .stray _).trans ((hraised .panel _).trans (hevaluated _)))

theorem recordReturns_steps {x : Rec} (c : PanelClass) (shown : Option Half) (hx : s.rec? ix a = some x) :
    BusSteps vacant s (recordReturns ix a x c shown s) := by
  unfold recordReturns
  simp only
  refine Relation.ReflTransGen.trans ?_ (evaluate_segWork ix a _).steps
  split
  next slot hb =>
    split_ifs with hc
    · have hnamed : (x.returned c shown).named = x.named := by
        rw [hc]
        rfl
      exact ((SegWork.raise .panel _).after (putRec_work hx hnamed)).steps
    · exact .single (.reclass hx hb hb rfl)
  next hb => exact (Relation.ReflTransGen.single (.renew hx hb hb)).trans (SegWork.raise .panel _).steps

theorem recordReplaced_steps : BusSteps vacant s (recordReplaced ix a s) :=
  (Relation.ReflTransGen.single (.delete ix a)).trans ((SegWork.raise .panel _).after (markDrop_segWork ix _ a)).steps

theorem endProbe_steps (ix : SegIx) (heard : Heard) (s : State) : BusSteps vacant s (endProbe ix heard s) := by
  have houtcome (a : Nat) : BusSteps vacant s (probeOutcome ix a heard s) := by
    unfold probeOutcome
    split
    · exact .refl
    next hx =>
      split
      · refine SegWork.steps ?_
        exact putRec_work hx rfl
      · refine SegWork.steps ?_
        exact putRec_work hx rfl
      · split_ifs
        · split
          · exact recordReturns_steps _ _ hx
          · exact recordReplaced_steps
        · exact recordReplaced_steps
  unfold endProbe
  split
  · exact (houtcome _).trans ((endExchange_segWork ix _).after (movePointer_segWork ix _ _)).steps
  · exact .refl

theorem endDrop_steps (ix : SegIx) (s : State) : BusSteps vacant s (endDrop ix s) := by
  unfold endDrop
  split
  · refine ((endExchange_segWork ix _).after ?_).steps
    exact .setSeg rfl
  · exact (Relation.ReflTransGen.single (.delete ix _)).trans (rollAdvance_segWork ix _).steps
  · exact (endExchange_segWork ix s).steps
  · exact .refl

theorem endRollIdent_steps (ix : SegIx) (heard : Heard) (s : State)
    (hnew : vacant → ∀ a, (s.seg ix).bus = some (.rollIdent a) → s.rec? ix a = none) : BusSteps vacant s (endRollIdent ix heard s) := by
  have hdropped (a : Nat) : BusSteps vacant s (follow ix (.rollDrop a) (raise .panel s)) :=
    ((follow_segWork ix _ _).after (SegWork.raise .panel s)).steps
  unfold endRollIdent
  split
  next hbus =>
    split
    · split
      · exact (createRecord_steps _ _ (fun h => hnew h _ hbus)).trans (rollAdvance_segWork ix _).steps
      · exact hdropped _
    · exact hdropped _
    · exact (rollAdvance_segWork ix s).steps
  · exact .refl

/-- A record created where a GIVE was accepted, perhaps after a lost holder elsewhere was deleted (R141). -/
theorem endGive_steps (ix : SegIx) (heard : Heard) (s : State)
    (hnew : vacant → ∀ serial a, (s.seg ix).bus = some (.give serial a) → s.rec? ix a = none) :
    BusSteps vacant s (endGive ix heard s) := by
  have hfollows (e : Exchange) (u : State) : BusSteps vacant u (follow ix e (raise .panel u)) :=
    ((follow_segWork ix _ e).after (SegWork.raise .panel u)).steps
  have henrolled (a : Nat) (serial : Serial) (c : PanelClass) (u : State) (hu : vacant → u.rec? ix a = none) :
      BusSteps vacant u (enrolRecord ix a serial c u) :=
    (createRecord_steps c none hu).trans ((endExchange_segWork ix _).after (countEnrolled_segWork ix _)).steps
  have hdisplaced (p : Place) : BusSteps vacant s (raise .panel (displace p s)) :=
    (Relation.ReflTransGen.single (.delete p.seg p.address)).trans ((SegWork.raise .panel _).after (markDrop_segWork p.seg _ _)).steps
  have hgone (p : Place) (a : Nat) (ha : s.rec? ix a = none) : (raise .panel (displace p s)).rec? ix a = none := by
    rw [rec_raise, displace, rec_markDrop, rec_deleteRecord]
    split_ifs
    · rfl
    · exact ha
  unfold endGive
  split
  next serial a hbus =>
    split
    · split
      next c _ =>
        unfold giveAccepted
        split
        · exact henrolled a serial c s (fun h => hnew h _ _ hbus)
        · split_ifs
          · exact (hdisplaced _).trans (henrolled a serial c _ (fun h => hgone _ a (hnew h _ _ hbus)))
          · exact hfollows _ s
      · exact hfollows _ s
    · exact (follow_segWork ix s _).steps
    · exact (follow_segWork ix s _).steps
  · exact .refl

end Steps

end Sys2Proof.Machine
end

section
/-! PROOFS. What the steps on the sign buses keep: the other blocks, the form of the tables, the bindings and the faces (spec:
R70–R72, R97, R100, R110, R114–R116). -/

namespace Sys2Proof.Machine

/-! ## The other blocks -/

/-- `t` is `s` after work on the buses: the records, the segments, FR and the pins aside, every block stands. -/
structure BusWork (s t : State) : Prop where
  lu : t.lu = s.lu
  clock : t.clock = s.clock
  sessions : t.sessions = s.sessions
  text : t.text = s.text
  ps : t.ps = s.ps
  notices : t.nu.notices = s.nu.notices
  held : t.nu.held = s.nu.held
  timer : t.nu.timer = s.nu.timer
  flags : FlagsGood s → FlagsGood t

namespace BusWork

variable {s t u : State}

theorem refl (s : State) : BusWork s s := ⟨rfl, rfl, rfl, rfl, rfl, rfl, rfl, rfl, id⟩

theorem trans (h : BusWork s t) (h' : BusWork t u) : BusWork s u :=
  ⟨h'.lu.trans h.lu, h'.clock.trans h.clock, h'.sessions.trans h.sessions, h'.text.trans h.text, h'.ps.trans h.ps,
    h'.notices.trans h.notices, h'.held.trans h.held, h'.timer.trans h.timer, fun hf => h'.flags (h.flags hf)⟩

theorem of_seg (h : SegWork s t) : BusWork s t :=
  ⟨h.lu, h.clock, h.sessions, h.text, h.ps, by rw [h.nu], by rw [h.nu], by rw [h.nu], h.flags⟩

theorem recomputeSlot (slot : Nat) (s : State) : BusWork s (recomputeSlot slot s) :=
  BusWork.trans (t := { s with fr := (Machine.recomputeSlot slot s).fr }) ⟨rfl, rfl, rfl, rfl, rfl, rfl, rfl, rfl, id⟩
    (.of_seg (recomputeSlot_segWork slot s))

theorem resolverLoses (slot : Nat) (s : State) : BusWork s (resolverLoses slot s) :=
  BusWork.trans (t := { s with fr := (Machine.resolverLoses slot s).fr }) ⟨rfl, rfl, rfl, rfl, rfl, rfl, rfl, rfl, id⟩
    (.of_seg (resolverLoses_segWork slot s))

theorem setSeg (ix : SegIx) (g : Seg) (s : State) : BusWork s (s.setSeg ix g) := ⟨rfl, rfl, rfl, rfl, rfl, rfl, rfl, rfl, id⟩

theorem putRec (ix : SegIx) (a : Nat) (x : Rec) (s : State) : BusWork s (s.putRec ix a x) := setSeg ix _ s

theorem raise (f : Flag) (s : State) : BusWork s (raise f s) := .of_seg (.raise f s)

theorem loseBinding (slot : Nat) (s : State) : BusWork s (loseBinding slot s) := ⟨rfl, rfl, rfl, rfl, rfl, rfl, rfl, rfl, id⟩

end BusWork

/-! ## Binding, straying and deleting -/

section Records

variable {s : State} {ix : SegIx} {a slot : Nat} {x : Rec}

theorem deleteRecord_none (hx : s.rec? ix a = none) : deleteRecord ix a s = s := by
  simp only [deleteRecord, hx]

theorem deleteRecord_unbound (hx : s.rec? ix a = some x) (hb : x.binding = none) :
    deleteRecord ix a s = s.setSeg ix ((s.seg ix).delete a x) := by
  simp only [deleteRecord, hx, hb]

theorem deleteRecord_bound (hx : s.rec? ix a = some x) (hb : x.binding = some slot) :
    deleteRecord ix a s = loseBinding slot (resolverLoses slot (s.setSeg ix ((s.seg ix).delete a x))) := by
  simp only [deleteRecord, hx, hb]

theorem BusWork.deleteRecord (ix : SegIx) (a : Nat) (s : State) : BusWork s (deleteRecord ix a s) := by
  cases hx : s.rec? ix a with
  | none =>
    rw [deleteRecord_none hx]
    exact .refl s
  | some x =>
    cases hb : x.binding with
    | none =>
      rw [deleteRecord_unbound hx hb]
      exact .setSeg ix _ s
    | some slot =>
      rw [deleteRecord_bound hx hb]
      exact ((BusWork.setSeg ix _ s).trans (.resolverLoses slot _)).trans (.loseBinding slot _)

theorem BusWork.bindRecord (ix : SegIx) (a slot : Nat) (s : State) : BusWork s (bindRecord ix a slot s) := by
  cases hx : s.rec? ix a with
  | none =>
    have hstands : Machine.bindRecord ix a slot s = s := by simp only [Machine.bindRecord, hx]
    rw [hstands]
    exact .refl s
  | some x =>
    rw [bindRecord_eq slot hx]
    exact ((BusWork.putRec ix a _ s).trans (.resolverLoses slot _)).trans (.recomputeSlot slot _)

theorem BusWork.makeStray (ix : SegIx) (a : Nat) (s : State) : BusWork s (makeStray ix a s) := by
  unfold Machine.makeStray
  split
  · exact .refl s
  · split
    · exact .refl s
    · exact ((((BusWork.putRec ix a _ s).trans (.raise .stray _)).trans (.resolverLoses _ _)).trans (.loseBinding _ _)).trans
        (.of_seg (wantedFaceChange_segWork ix a _ _ _))

/-- Where the record stood the segment is without it; nothing else of the segments changes. -/
theorem seg_deleteRecord (hx : s.rec? ix a = some x) (jx : SegIx) :
    (deleteRecord ix a s).seg jx = if jx = ix then (s.seg ix).delete a x else s.seg jx := by
  obtain ⟨fr, nu, heq, -⟩ := deleteRecord_eq hx
  rw [heq]
  show (s.setSeg ix ((s.seg ix).delete a x)).seg jx = _
  split_ifs with hj
  · rw [hj, seg_setSeg_same]
  · rw [seg_setSeg_other s _ hj]

theorem named_bindRecord (hx : s.rec? ix a = some x) (slot : Nat) (jx : SegIx) : ((bindRecord ix a slot s).seg jx).named
    = ((s.putRec ix a { x with binding := some slot }).seg jx).named := by
  rw [bindRecord_eq slot hx, recomputeSlot_named, (resolverLoses_segWork slot _).named]
  rfl

theorem RecordsGood.bindRecord (hs : RecordsGood s) (hx : s.rec? ix a = some x) (hfree : s.holder slot = none) :
    RecordsGood (bindRecord ix a slot s) := by
  refine recordsGood_of_named (fun jx => named_bindRecord hx slot jx) (hs.putBound (fun n jx b hn hb => ?_))
  cases hn
  obtain ⟨y, hy, hb⟩ := Option.map_eq_some_iff.1 hb
  exact absurd hb (binding_ne_of_unheld hfree hy)

theorem RecordsGood.deleteRecord (hs : RecordsGood s) (ix : SegIx) (a : Nat) : RecordsGood (deleteRecord ix a s) := by
  cases hx : s.rec? ix a with
  | none =>
    rw [deleteRecord_none hx]
    exact hs
  | some x =>
    obtain ⟨hrising, hone⟩ := (recordsGood_iff s).1 hs
    refine (recordsGood_iff _).2 ⟨fun jx => ?_, fun jx b kx c n hy hz => ?_⟩
    · rw [seg_deleteRecord hx]
      split_ifs
      · exact Table.rising_filter (hrising ix) _
      · exact hrising jx
    · rw [State.bindingAt, rec_deleteRecord] at hy hz
      split_ifs at hy hz
      · cases hy
      · cases hy
      · cases hz
      · exact hone jx b kx c n hy hz

end Records

/-! ## The form of the tables -/

/-- The tables that bus work touches keep their form: FR's and the pins. -/
def BusTables (s : State) : Prop := FrRising s.fr ∧ Table.rising s.nu.pins = true

theorem BusTables.of_seg {s t : State} (hs : BusTables s) (h : SegWork s t) : BusTables t := by
  rw [BusTables, h.fr, h.nu]
  exact hs

theorem BusTables.recomputeSlot {s : State} (hs : BusTables s) (slot : Nat) : BusTables (recomputeSlot slot s) :=
  ⟨recomputeSlot_frRising hs.1 slot, (recomputeSlot_segWork slot s).nu ▸ hs.2⟩

theorem BusTables.resolverLoses {s : State} (hs : BusTables s) (slot : Nat) : BusTables (resolverLoses slot s) :=
  ⟨resolverLoses_frRising hs.1 slot, (resolverLoses_segWork slot s).nu ▸ hs.2⟩

theorem BusTables.loseBinding {s : State} (hs : BusTables s) (slot : Nat) : BusTables (loseBinding slot s) :=
  ⟨hs.1, Table.rising_filter hs.2 _⟩

theorem tablesGood_iff (s : State) : TablesGood s ↔ (Table.rising s.lu.sections = true ∧ Table.rising s.lu.walls = true
    ∧ Table.rising s.lu.combos = true) ∧ Table.rising s.sessions = true ∧ Table.rising s.nu.notices = true
    ∧ Table.rising s.ps.panels = true ∧ BusTables s := by
  unfold TablesGood BusTables FrRising
  tauto

theorem TablesGood.of_bus {s t : State} (hs : TablesGood s) (h : BusWork s t) (ht : BusTables s → BusTables t) : TablesGood t := by
  rw [tablesGood_iff] at hs ⊢
  rw [h.lu, h.sessions, h.notices, h.ps]
  obtain ⟨hlu, hsessions, hnotices, hpanels, hbus⟩ := hs
  exact ⟨hlu, hsessions, hnotices, hpanels, ht hbus⟩

/-! ## Bindings -/

/-- A slot is held by a record. -/
def State.holds (s : State) (n : Nat) : Prop := ∃ ix a, s.bindingAt ix a = some (some n)

/-- `BindingsGood` by the names of the records. -/
theorem bindingsGood_iff {s : State} (hs : RecordsGood s) : BindingsGood s ↔
    (∀ n m p q, Table.get s.ps.panels n = some p → Table.get s.ps.panels m = some q → p.serial = q.serial → n = m)
    ∧ (∀ ix a serial c n, s.nameAt ix a = some (serial, c, some n) → ∃ p, Table.get s.ps.panels n = some p ∧ p.serial = serial)
    ∧ s.nu.pins.length ≤ 16 ∧ (∀ n, (Table.get s.nu.pins n).isSome = true → s.holds n)
    ∧ ∀ n, (Table.get s.fr.faces n).isSome = true → s.holds n := by
  have hheld (n : Nat) : (s.holder n).isSome = true ↔ s.holds n := holder_isSome_iff s hs n
  constructor
  · rintro ⟨hserials, hbound, ⟨hcount, hpins⟩, hfaces⟩
    refine ⟨hserials, fun ix a serial c n hname => ?_, hcount, fun n hn => (hheld n).1 (hpins n hn), fun n hn => (hheld n).1 (hfaces n hn)⟩
    obtain ⟨x, hx, hname⟩ := Option.map_eq_some_iff.1 hname
    simp only [Rec.named, Prod.mk.injEq] at hname
    obtain ⟨hserial, -, hb⟩ := hname
    obtain ⟨p, hp, hps⟩ := hbound ix a x n hx hb
    exact ⟨p, hp, hps.trans hserial⟩
  · rintro ⟨hserials, hbound, hcount, hpins, hfaces⟩
    refine ⟨hserials, fun ix a x n hx hb => ?_, ⟨hcount, fun n hn => (hheld n).2 (hpins n hn)⟩, fun n hn => (hheld n).2 (hfaces n hn)⟩
    exact hbound ix a x.serial x.cls n (by rw [State.nameAt, hx, ← hb]; rfl)

theorem holds_of_named {s t : State} (h : ∀ ix, (t.seg ix).named = (s.seg ix).named) {n : Nat} : t.holds n ↔ s.holds n := by
  unfold State.holds
  simp only [bindingAt_of_named h]

/-- Records that keep their names and slots that keep theirs. -/
theorem BindingsGood.of_named {s t : State} (hg : BindingsGood s) (hs : RecordsGood s) (h : ∀ ix, (t.seg ix).named = (s.seg ix).named)
    (hpanels : t.ps.panels = s.ps.panels) (hpins : t.nu.pins = s.nu.pins)
    (hfaces : ∀ n, (Table.get t.fr.faces n).isSome = true → (Table.get s.fr.faces n).isSome = true ∨ s.holds n) : BindingsGood t := by
  rw [bindingsGood_iff hs] at hg
  obtain ⟨hserials, hbound, hcount, hpinned, hfaced⟩ := hg
  rw [bindingsGood_iff (recordsGood_of_named h hs), hpanels, hpins]
  refine ⟨hserials, fun ix a serial c n hname => hbound ix a serial c n (by rw [← nameAt_of_named h]; exact hname), hcount,
    fun n hn => (holds_of_named h).2 (hpinned n hn), fun n hn => (holds_of_named h).2 ?_⟩
  rcases hfaces n hn with hstood | hheld
  · exact hfaced n hstood
  · exact hheld

theorem BindingsGood.of_seg {s t : State} (hg : BindingsGood s) (hs : RecordsGood s) (h : SegWork s t) : BindingsGood t :=
  hg.of_named hs h.named (by rw [h.ps]) (by rw [h.nu]) (fun n hn => .inl (by rw [← h.fr]; exact hn))

theorem BindingsGood.recomputeSlot {s : State} (hg : BindingsGood s) (hs : RecordsGood s) (slot : Nat) :
    BindingsGood (recomputeSlot slot s) := by
  have hwork := recomputeSlot_segWork slot s
  refine hg.of_named hs hwork.named (by rw [hwork.ps]) (by rw [hwork.nu]) (fun n hn => ?_)
  rcases recomputeSlot_faceHeld hn with ⟨-, hstood⟩ | ⟨rfl, hheld⟩
  · exact .inl hstood
  · exact .inr ((holder_isSome_iff s hs n).1 hheld)

/-- A record replaced by one of the same serial and binding. -/
theorem BindingsGood.putRec {s : State} (hg : BindingsGood s) (hs : RecordsGood s) {ix : SegIx} {a : Nat} {x y : Rec}
    (hx : s.rec? ix a = some x) (hb : y.binding = x.binding) (hserial : x.binding ≠ none → y.serial = x.serial) :
    BindingsGood (s.putRec ix a y) := by
  rw [bindingsGood_iff hs] at hg
  obtain ⟨hserials, hbound, hcount, hpinned, hfaced⟩ := hg
  rw [bindingsGood_iff (hs.putRec hx hb)]
  have hbinding (jx : SegIx) (b : Nat) : (s.putRec ix a y).bindingAt jx b = s.bindingAt jx b := by
    rw [bindingAt_putRec]
    split_ifs with h
    · rw [h.1, h.2, hb, State.bindingAt, hx]
      rfl
    · rfl
  have hholds (n : Nat) : (s.putRec ix a y).holds n ↔ s.holds n := by
    unfold State.holds
    simp only [hbinding]
  refine ⟨hserials, fun jx b serial c n hname => ?_, hcount, fun n hn => (hholds n).2 (hpinned n hn), fun n hn => (hholds n).2 (hfaced n hn)⟩
  rw [nameAt_putRec] at hname
  split_ifs at hname with h
  · simp only [Option.some.injEq, Rec.named, Prod.mk.injEq] at hname
    obtain ⟨hys, -, hyb⟩ := hname
    have hxb : x.binding = some n := hb.symm.trans hyb
    refine hbound ix a serial x.cls n ?_
    rw [State.nameAt, hx, ← hys, hserial (by rw [hxb]; nofun), ← hxb]
    rfl
  · exact hbound jx b serial c n hname

/-- A record created unbound at a free address. -/
theorem BindingsGood.create {s : State} (hg : BindingsGood s) (hs : RecordsGood s) {ix : SegIx} {a : Nat} {y : Rec}
    (hnew : s.rec? ix a = none) (hy : y.binding = none) : BindingsGood (s.putRec ix a y) := by
  rw [bindingsGood_iff hs] at hg
  obtain ⟨hserials, hbound, hcount, hpinned, hfaced⟩ := hg
  rw [bindingsGood_iff (hs.putBound (fun n jx b hn => by rw [hy] at hn; cases hn))]
  have hholds {n : Nat} : s.holds n → (s.putRec ix a y).holds n := by
    rintro ⟨jx, b, hb⟩
    refine ⟨jx, b, ?_⟩
    rw [bindingAt_putRec, if_neg]
    · exact hb
    · rintro ⟨rfl, rfl⟩
      rw [State.bindingAt, hnew] at hb
      cases hb
  refine ⟨hserials, fun jx b serial c n hname => ?_, hcount, fun n hn => hholds (hpinned n hn), fun n hn => hholds (hfaced n hn)⟩
  rw [nameAt_putRec] at hname
  split_ifs at hname
  · rw [Option.some.injEq, Rec.named, hy] at hname
    cases hname
  · exact hbound jx b serial c n hname

/-- A record bound to a free slot of its own serial. -/
theorem BindingsGood.bindRecord {s : State} (hg : BindingsGood s) (hs : RecordsGood s) {ix : SegIx} {a slot : Nat} {x : Rec} {p : PanelSlot}
    (hx : s.rec? ix a = some x) (hfree : s.holder slot = none) (hp : Table.get s.ps.panels slot = some p) (hserial : p.serial = x.serial) :
    BindingsGood (bindRecord ix a slot s) := by
  have ht := hs.bindRecord hx hfree
  rw [bindingsGood_iff hs] at hg
  obtain ⟨hserials, hbound, hcount, hpinned, hfaced⟩ := hg
  have hunbound : x.binding = none := by
    cases hb : x.binding with
    | none => rfl
    | some m =>
      obtain ⟨q, hq, hqs⟩ := hbound ix a x.serial x.cls m (by rw [State.nameAt, hx, ← hb]; rfl)
      have hm : slot = m := hserials slot m p q hp hq (hserial.trans hqs.symm)
      exact absurd (hm ▸ hb) (binding_ne_of_unheld hfree hx)
  have hwork := BusWork.bindRecord ix a slot s
  have hbinding (jx : SegIx) (b : Nat) : (Machine.bindRecord ix a slot s).bindingAt jx b
      = if jx = ix ∧ b = a then some (some slot) else s.bindingAt jx b := bindRecord_bindingAt slot (by rw [hx]; rfl) jx b
  have hnow : (Machine.bindRecord ix a slot s).holds slot := ⟨ix, a, by rw [hbinding, if_pos ⟨rfl, rfl⟩]⟩
  have hholds {n : Nat} : s.holds n → (Machine.bindRecord ix a slot s).holds n := by
    rintro ⟨jx, b, hb⟩
    refine ⟨jx, b, ?_⟩
    rw [hbinding, if_neg]
    · exact hb
    · rintro ⟨rfl, rfl⟩
      rw [State.bindingAt, hx] at hb
      exact absurd (hunbound.symm.trans (Option.some.inj hb)) nofun
  have hpins : (Machine.bindRecord ix a slot s).nu.pins = s.nu.pins := by
    rw [bindRecord_eq slot hx, (recomputeSlot_segWork slot _).nu]
    exact congrArg NoticeUnit.pins (resolverLoses_segWork slot _).nu
  rw [bindingsGood_iff ht, hwork.ps, hpins]
  refine ⟨hserials, fun jx b serial c n hname => ?_, hcount, fun n hn => hholds (hpinned n hn), fun n hn => ?_⟩
  · rw [nameAt_of_named (fun jx => named_bindRecord hx slot jx), nameAt_putRec] at hname
    split_ifs at hname
    · simp only [Option.some.injEq, Rec.named, Prod.mk.injEq] at hname
      obtain ⟨hxs, -, rfl⟩ := hname
      exact ⟨p, hp, hserial.trans hxs⟩
    · exact hbound jx b serial c n hname
  · rw [bindRecord_eq slot hx] at hn
    rcases recomputeSlot_faceHeld hn with ⟨hne, hstood⟩ | ⟨rfl, -⟩
    · rw [(resolverLoses_fr_other _ hne).1] at hstood
      exact hholds (hfaced n hstood)
    · exact hnow

/-- A record deleted takes its slot's pin and face with it. -/
theorem BindingsGood.deleteRecord {s : State} (hg : BindingsGood s) (hs : RecordsGood s) (ix : SegIx) (a : Nat) :
    BindingsGood (deleteRecord ix a s) := by
  cases hx : s.rec? ix a with
  | none =>
    rw [deleteRecord_none hx]
    exact hg
  | some x =>
    have hwork := BusWork.deleteRecord ix a s
    rw [bindingsGood_iff hs] at hg
    obtain ⟨hserials, hbound, hcount, hpinned, hfaced⟩ := hg
    have hholds {n : Nat} (hn : s.holds n) (hne : x.binding ≠ some n) : (Machine.deleteRecord ix a s).holds n := by
      obtain ⟨jx, b, hb⟩ := hn
      refine ⟨jx, b, ?_⟩
      rw [State.bindingAt, rec_deleteRecord, if_neg]
      · exact hb
      · rintro ⟨rfl, rfl⟩
        rw [State.bindingAt, hx] at hb
        exact hne (Option.some.inj hb)
    have hparts : (Machine.deleteRecord ix a s).nu.pins.length ≤ s.nu.pins.length
        ∧ (∀ n, (Table.get (Machine.deleteRecord ix a s).nu.pins n).isSome = true → (Table.get s.nu.pins n).isSome = true ∧ x.binding ≠ some n)
        ∧ ∀ n, (Table.get (Machine.deleteRecord ix a s).fr.faces n).isSome = true → (Table.get s.fr.faces n).isSome = true ∧ x.binding ≠ some n := by
      cases hb : x.binding with
      | none =>
        rw [deleteRecord_unbound hx hb]
        exact ⟨le_rfl, fun n hn => ⟨hn, nofun⟩, fun n hn => ⟨hn, nofun⟩⟩
      | some slot =>
        rw [deleteRecord_bound hx hb]
        have hnu := (resolverLoses_segWork slot (s.setSeg ix ((s.seg ix).delete a x))).nu
        have hpins : (loseBinding slot (resolverLoses slot (s.setSeg ix ((s.seg ix).delete a x)))).nu.pins = Table.del s.nu.pins slot :=
          congrArg (fun nu : NoticeUnit => Table.del nu.pins slot) hnu
        have hdeleted {α : Type} {t : Table α} {n : Nat} (hn : (Table.get (Table.del t slot) n).isSome = true) :
            (Table.get t n).isSome = true ∧ some slot ≠ some n := by
          rw [Table.get_del] at hn
          split_ifs at hn with hne
          · cases hn
          · exact ⟨hn, fun h => hne (Option.some.inj h).symm⟩
        rw [hpins]
        refine ⟨List.length_filter_le _ _, fun n hn => hdeleted hn, fun n hn => ?_⟩
        rw [loseBinding_fr, resolverLoses_faces] at hn
        exact hdeleted hn
    obtain ⟨hlength, hpins, hfaces⟩ := hparts
    rw [bindingsGood_iff (hs.deleteRecord ix a), hwork.ps]
    refine ⟨hserials, fun jx b serial c n hname => ?_, hlength.trans hcount, fun n hn => ?_, fun n hn => ?_⟩
    · rw [State.nameAt, rec_deleteRecord] at hname
      split_ifs at hname
      · cases hname
      · exact hbound jx b serial c n hname
    · obtain ⟨hstood, hne⟩ := hpins n hn
      exact hholds (hpinned n hstood) hne
    · obtain ⟨hstood, hne⟩ := hfaces n hn
      exact hholds (hfaced n hstood) hne

/-! ## Faces -/

/-- Faces stand when their inputs do and no more slots are held, the slots that change aside. -/
theorem FacesExcept.of_fewer {stale : Nat → Prop} {s t : State} (h : FacesNow s) (hwork : BusWork s t)
    (hclass : ∀ n c, ¬ stale n → t.holderClass n = some c → s.holderClass n = some c)
    (hslot : ∀ n, ¬ stale n → Table.get t.nu.pins n = Table.get s.nu.pins n ∧ Table.get t.fr.faces n = Table.get s.fr.faces n
      ∧ Table.get t.fr.pages n = Table.get s.fr.pages n) : FacesExcept stale t := by
  intro n p c hp hc hstale
  rw [hwork.ps] at hp
  obtain ⟨hpin, hface, hpage⟩ := hslot n hstale
  have hview : faceView t = faceView s := by
    simp only [faceView, hwork.lu, hwork.clock, hwork.sessions, hwork.text, hwork.notices, hwork.ps]
  exact ((facesNow_iff s).1 h n p c hp (hclass n c hstale hc) nofun).congr hview hpin hface (by rw [State.pageIndex, hpage]; rfl)

theorem FacesExcept.recomputed {slot : Nat} {s : State} (h : FacesExcept (fun n => n = slot) s) : FacesNow (recomputeSlot slot s) :=
  (facesNow_iff _).2 ((recomputeSlot_faces h slot).mono (fun _ hn => hn.2 hn.1))

/-- A record put in place: the slot it is bound to aside, no more slots are held. -/
theorem holderClass_putRec {s : State} (hs : RecordsGood s) {ix : SegIx} {a : Nat} {y : Rec} (ht : RecordsGood (s.putRec ix a y))
    {n : Nat} {c : PanelClass} (hn : y.binding ≠ some n) (hc : (s.putRec ix a y).holderClass n = some c) : s.holderClass n = some c := by
  obtain ⟨jx, b, serial, hname⟩ := (holderClass_iff _ ht n c).1 hc
  refine (holderClass_iff s hs n c).2 ⟨jx, b, serial, ?_⟩
  rw [nameAt_putRec] at hname
  split_ifs at hname
  · simp only [Option.some.injEq, Rec.named, Prod.mk.injEq] at hname
    exact absurd hname.2.2 hn
  · exact hname

theorem FacesNow.create {s : State} (h : FacesNow s) (hs : RecordsGood s) (ix : SegIx) (a : Nat) {y : Rec} (hy : y.binding = none) :
    FacesNow (s.putRec ix a y) := by
  have ht : RecordsGood (s.putRec ix a y) := hs.putBound (fun n jx b hn => by rw [hy] at hn; cases hn)
  refine (facesNow_iff _).2 (.of_fewer h (.putRec ix a y s) (fun n c _ hc => ?_) (fun n _ => ⟨rfl, rfl, rfl⟩))
  exact holderClass_putRec hs ht (by rw [hy]; nofun) hc

theorem FacesNow.reclass {s : State} (h : FacesNow s) (hs : RecordsGood s) {ix : SegIx} {a slot : Nat} {x y : Rec} (hx : s.rec? ix a = some x)
    (hb : x.binding = some slot) (hy : y.binding = some slot) : FacesNow (Machine.recomputeSlot slot (Machine.raise .panel (s.putRec ix a y))) := by
  have ht : RecordsGood (s.putRec ix a y) := hs.putRec hx (hy.trans hb.symm)
  refine FacesExcept.recomputed (.of_fewer h ((BusWork.putRec ix a y s).trans (.raise .panel _)) (fun n c hn hc => ?_) (fun n _ => ⟨rfl, rfl, rfl⟩))
  exact holderClass_putRec hs ht (fun hyn => hn (Option.some.inj (hyn.symm.trans hy))) hc

theorem FacesNow.bindRecord {s : State} (h : FacesNow s) (hs : RecordsGood s) {ix : SegIx} {a slot : Nat} {x : Rec} (hx : s.rec? ix a = some x)
    (hfree : s.holder slot = none) : FacesNow (bindRecord ix a slot s) := by
  have ht : RecordsGood (s.putRec ix a { x with binding := some slot }) := hs.putBound (fun n jx b hn hb => by
    cases hn
    obtain ⟨y, hy, hb⟩ := Option.map_eq_some_iff.1 hb
    exact absurd hb (binding_ne_of_unheld hfree hy))
  rw [bindRecord_eq slot hx]
  generalize hu : s.putRec ix a { x with binding := some slot } = u at ht
  have hwork : BusWork s u := hu ▸ .putRec ix a _ s
  have hlost := resolverLoses_segWork slot u
  refine FacesExcept.recomputed (.of_fewer h (hwork.trans (.resolverLoses slot u)) (fun n c hn hc => ?_) (fun n hn => ?_))
  · have hcu : u.holderClass n = some c := by
      rw [← hc]
      exact (holderClass_of_bound (bound_of_named hlost.named) n).symm
    subst hu
    exact holderClass_putRec hs ht (fun hne => hn (Option.some.inj hne).symm) hcu
  · obtain ⟨hfaces, hpages⟩ := resolverLoses_fr_other u hn
    refine ⟨congrArg (fun nu : NoticeUnit => Table.get nu.pins n) ?_, hfaces.trans ?_, hpages.trans ?_⟩
    · rw [hlost.nu, ← hu]
      rfl
    · rw [← hu]
      rfl
    · rw [← hu]
      rfl

theorem FacesNow.deleteRecord {s : State} (h : FacesNow s) (hs : RecordsGood s) (ix : SegIx) (a : Nat) : FacesNow (deleteRecord ix a s) := by
  cases hx : s.rec? ix a with
  | none =>
    rw [deleteRecord_none hx]
    exact h
  | some x =>
    have ht := hs.deleteRecord ix a
    have hfewer {n : Nat} {c : PanelClass} (hc : (Machine.deleteRecord ix a s).holderClass n = some c) :
        s.holderClass n = some c ∧ x.binding ≠ some n := by
      obtain ⟨jx, b, serial, hname⟩ := (holderClass_iff _ ht n c).1 hc
      rw [State.nameAt, rec_deleteRecord] at hname
      split_ifs at hname with hplace
      · cases hname
      · refine ⟨(holderClass_iff s hs n c).2 ⟨jx, b, serial, hname⟩, fun hb => hplace ?_⟩
        obtain ⟨y, hy, hname⟩ := Option.map_eq_some_iff.1 hname
        exact hs.2 _ _ _ _ _ _ _ hy hx (congrArg (·.2.2) hname) hb
    have hslots : FacesExcept (fun n => x.binding = some n) (Machine.deleteRecord ix a s) := by
      refine .of_fewer h (.deleteRecord ix a s) (fun n c _ hc => (hfewer hc).1) (fun n hn => ?_)
      cases hb : x.binding with
      | none =>
        rw [deleteRecord_unbound hx hb]
        exact ⟨rfl, rfl, rfl⟩
      | some slot =>
        rw [hb] at hn
        have hne : n ≠ slot := fun heq => hn (congrArg some heq.symm)
        rw [deleteRecord_bound hx hb]
        obtain ⟨hfaces, hpages⟩ := resolverLoses_fr_other (s.setSeg ix ((s.seg ix).delete a x)) hne
        refine ⟨?_, hfaces, hpages⟩
        have hnu := (resolverLoses_segWork slot (s.setSeg ix ((s.seg ix).delete a x))).nu
        exact (congrArg (fun nu : NoticeUnit => Table.get (Table.del nu.pins slot) n) hnu).trans (Table.get_del_other _ hne)
    refine (facesNow_iff _).2 (fun n p c hp hc _ => ?_)
    exact hslots n p c hp hc (hfewer hc).2

/-! ## The steps together -/

section Steps

variable {vacant : Prop} {s t : State}

theorem BusStep.busWork (h : BusStep vacant s t) : BusWork s t := by
  cases h with
  | work hw => exact .of_seg hw
  | recompute slot => exact .recomputeSlot slot s
  | renew => exact .putRec _ _ _ s
  | reclass => exact ((BusWork.putRec _ _ _ s).trans (.raise .panel _)).trans (.recomputeSlot _ _)
  | create => exact .putRec _ _ _ s
  | bind => exact .bindRecord _ _ _ s
  | delete ix a => exact .deleteRecord ix a s

theorem BusStep.busTables (h : BusStep vacant s t) (hs : BusTables s) : BusTables t := by
  cases h with
  | work hw => exact hs.of_seg hw
  | recompute slot => exact hs.recomputeSlot slot
  | renew => exact hs
  | reclass => exact BusTables.recomputeSlot (s := raise .panel (s.putRec _ _ _)) hs _
  | create => exact hs
  | bind hx hfree _ _ =>
    rw [bindRecord_eq _ hx]
    exact (BusTables.resolverLoses (s := s.putRec _ _ _) hs _).recomputeSlot _
  | delete ix a =>
    cases hx : s.rec? ix a with
    | none =>
      rw [deleteRecord_none hx]
      exact hs
    | some x =>
      cases hb : x.binding with
      | none =>
        rw [deleteRecord_unbound hx hb]
        exact hs
      | some slot =>
        rw [deleteRecord_bound hx hb]
        exact (BusTables.resolverLoses (s := s.setSeg ix _) hs slot).loseBinding slot

theorem BusStep.recordsGood (h : BusStep vacant s t) (hs : RecordsGood s) : RecordsGood t := by
  cases h with
  | work hw => exact recordsGood_of_named hw.named hs
  | recompute slot => exact recordsGood_of_named (recomputeSlot_named slot s) hs
  | renew hx hb hy => exact hs.putRec hx (hy.trans hb.symm)
  | reclass hx hb hy _ =>
    exact recordsGood_of_named (recomputeSlot_named _ _) (s := raise .panel (s.putRec _ _ _)) (hs.putRec hx (hy.trans hb.symm))
  | create _ hy => exact hs.putBound (fun n jx b hn => by rw [hy] at hn; cases hn)
  | bind hx hfree _ _ => exact hs.bindRecord hx hfree
  | delete ix a => exact hs.deleteRecord ix a

theorem BusStep.facesNow (h : BusStep vacant s t) (hs : RecordsGood s) (hf : FacesNow s) : FacesNow t := by
  cases h with
  | work hw => exact hw.faces hf
  | recompute slot => exact hf.recomputeSlot slot
  | renew _ _ hy => exact hf.create hs _ _ hy
  | reclass hx hb hy _ => exact hf.reclass hs hx hb hy
  | create _ hy => exact hf.create hs _ _ hy
  | bind hx hfree _ _ => exact hf.bindRecord hs hx hfree
  | delete ix a => exact hf.deleteRecord hs ix a

theorem BusStep.bindingsGood (h : BusStep vacant s t) (hv : vacant) (htables : TablesGood s) (hs : RecordsGood s) (hg : BindingsGood s) :
    BindingsGood t := by
  cases h with
  | work hw => exact hg.of_seg hs hw
  | recompute slot => exact hg.recomputeSlot hs slot
  | renew hx hb hy => exact hg.putRec hs hx (hy.trans hb.symm) (fun hne => absurd hb hne)
  | reclass hx hb hy hserial =>
    have hput := hg.putRec hs hx (hy.trans hb.symm) (fun _ => hserial)
    exact ((hput.of_seg (hs.putRec hx (hy.trans hb.symm)) (.raise .panel _))).recomputeSlot (hs.putRec hx (hy.trans hb.symm)) _
  | create hnew hy => exact hg.create hs (hnew hv) hy
  | bind hx hfree hp hserial =>
    obtain ⟨-, -, -, -, -, -, hpanels, -⟩ := htables
    exact hg.bindRecord hs hx hfree (Table.get_of_mem hpanels hp) hserial
  | delete ix a => exact hg.deleteRecord hs ix a

theorem BusSteps.busWork (h : BusSteps vacant s t) : BusWork s t := by
  induction h with
  | refl => exact .refl s
  | tail _ hstep ih => exact ih.trans hstep.busWork

theorem BusSteps.tables (h : BusSteps vacant s t) (hs : TablesGood s) : TablesGood t := by
  induction h with
  | refl => exact hs
  | tail _ hstep ih => exact ih.of_bus hstep.busWork hstep.busTables

theorem BusSteps.records (h : BusSteps vacant s t) (hs : RecordsGood s) : RecordsGood t := by
  induction h with
  | refl => exact hs
  | tail _ hstep ih => exact hstep.recordsGood ih

theorem BusSteps.faces (h : BusSteps vacant s t) (hs : RecordsGood s) (hf : FacesNow s) : FacesNow t := by
  induction h with
  | refl => exact hf
  | tail hsteps hstep ih => exact hstep.facesNow (BusSteps.records hsteps hs) ih

theorem BusSteps.bindings (h : BusSteps vacant s t) (hv : vacant) (htables : TablesGood s) (hs : RecordsGood s) (hg : BindingsGood s) :
    BindingsGood t := by
  induction h with
  | refl => exact hg
  | tail hsteps hstep ih => exact hstep.bindingsGood hv (BusSteps.tables hsteps htables) (BusSteps.records hsteps hs) ih

end Steps

end Sys2Proof.Machine
end

section
/-! PROOFS. Every deed on the sign buses is made of those steps (spec: R117–R145, R156–R170). -/

namespace Sys2Proof.Machine

variable {s t : State}

theorem get_none_of_below {g : Seg} {a : Nat} (h : ∀ e, e ∈ g.recs → e.1 < a) : Table.get g.recs a = none := by
  by_contra hsome
  obtain ⟨x, hx⟩ := Option.ne_none_iff_exists'.1 hsome
  exact absurd (h _ (mem_of_get hx)) (Nat.lt_irrefl a)

/-- Roll call asks an address at which no record stands yet (R129). -/
theorem SegGood.rolls {g : Seg} (h : SegGood g) {a : Nat} (hbus : g.bus = some (.rollIdent a)) : Table.get g.recs a = none := by
  obtain ⟨hmode, ha⟩ := h.exchange _ hbus
  rw [ha]
  exact get_none_of_below (h.rolled hmode)

theorem BusRequest.steps {vacant : Prop} (h : BusRequest s t) : BusSteps vacant s t := by
  cases h with
  | nothing => exact .refl
  | mask m => exact SegWork.steps ⟨rfl, rfl, rfl, rfl, rfl, rfl, rfl, fun hf => ⟨hf.1, rfl⟩, fun _ => rfl⟩
  | flags =>
    refine SegWork.steps ⟨rfl, rfl, rfl, rfl, rfl, rfl, rfl, fun _ => ⟨?_, rfl⟩, fun _ => rfl⟩
    show (s.li.attention &&& ~~~ s.li.attention) &&& 0xF000 = 0
    simp only [BitVec.and_not_self, BitVec.ofNat_eq_ofNat, BitVec.zero_and]
  | enrol _ =>
    refine ((judgeDrain_segWork _ _).after ?_).steps
    exact .setSeg rfl
  | stopEnrol _ _ => exact (stopEnrolment_segWork _ s).steps
  | forget _ _ _ _ _ _ => exact (Relation.ReflTransGen.single (.delete _ _)).trans (markDrop_segWork _ _ _).steps
  | refresh hx _ => exact (forceFull_segWork hx).steps

theorem BusDeed.steps (h : BusDeed s t) : BusSteps (SegmentsGood s) s t := by
  cases h with
  | request hr => exact hr.steps
  | choose ix => exact (chooseIfQuiet_segWork ix s).steps
  | poll ix heard => exact (endPoll_segWork ix s heard).steps
  | probe ix heard => exact endProbe_steps ix heard s
  | chunk ix heard => exact (endLoad_segWork ix s heard).steps
  | shown ix heard => exact (endShow_segWork ix s heard).steps
  | due ix a => exact (pollDue_segWork ix s a).steps
  | completion ix heard => exact (endCompletion_segWork ix s heard).steps
  | final ix a => exact (finalComes_segWork ix s a).steps
  | dropped ix => exact endDrop_steps ix s
  | ident ix heard => exact endRollIdent_steps ix heard s (fun hgood a hbus => (hgood ix).1.rolls hbus)
  | drained ix => exact (judgeDrain_segWork ix s).steps
  | key ix => exact (endKey_segWork ix s).steps
  | ask ix heard => exact (endAsk_segWork ix s heard).steps
  | give ix heard =>
    refine endGive_steps ix heard s (fun hgood serial a hbus => ?_)
    obtain ⟨-, -, -, hfree⟩ := (hgood ix).1.exchange _ hbus
    exact hfree

theorem BusDeed.busWork (h : BusDeed s t) : BusWork s t := h.steps.busWork

end Sys2Proof.Machine
end

section
/-! PROOFS. Clock, hold timer, options, plan state, text pool, attention set and space list stay good (spec: R15–R17, R20–R28, R55,
R101–R104, R183, R191–R201). -/

namespace Sys2Proof.Machine

/-! ## What stands -/

/-- `t` is `s` as far as the blocks beside sessions, notices, faces and segments go. -/
structure BlocksKept (s t : State) : Prop where
  lu : t.lu = s.lu
  clock : t.clock = s.clock
  text : t.text = s.text
  ps : t.ps = s.ps
  held : t.nu.held = s.nu.held
  timer : t.nu.timer = s.nu.timer
  flags : FlagsGood s → FlagsGood t

namespace BlocksKept

variable {s t u : State}

theorem refl (s : State) : BlocksKept s s := ⟨rfl, rfl, rfl, rfl, rfl, rfl, id⟩

theorem trans (h : BlocksKept s t) (h' : BlocksKept t u) : BlocksKept s u :=
  ⟨h'.lu.trans h.lu, h'.clock.trans h.clock, h'.text.trans h.text, h'.ps.trans h.ps, h'.held.trans h.held, h'.timer.trans h.timer,
    fun hf => h'.flags (h.flags hf)⟩

theorem of_bus (h : BusWork s t) : BlocksKept s t := ⟨h.lu, h.clock, h.text, h.ps, h.held, h.timer, h.flags⟩

theorem of_through {f : Rec → Rec} (h : FollowsThrough f s t) : BlocksKept s t :=
  ⟨h.lu, h.clock, h.text, h.ps, by rw [h.nu], by rw [h.nu], h.good⟩

theorem of_follows (h : Follows s t) : BlocksKept s t := ⟨h.lu, h.clock, h.text, h.ps, by rw [h.nu], by rw [h.nu], h.good⟩

theorem of_quiet (h : Quiet s t) : BlocksKept s t := ⟨h.lu, h.clock, h.text, h.ps, by rw [h.nu], by rw [h.nu], h.flags⟩

theorem withSessions (s : State) (sessions : Table Session) : BlocksKept s { s with sessions } := ⟨rfl, rfl, rfl, rfl, rfl, rfl, id⟩

theorem settled (mark : Bool) (day minute : Nat) (s : State) : BlocksKept s (settled mark day minute s) :=
  ⟨rfl, rfl, rfl, rfl, rfl, rfl, id⟩

theorem clockChange (mark : Bool) (s : State) : BlocksKept s (clockChange mark s) :=
  (settled mark _ _ s).trans (of_follows (clockChange_settles mark s).1)

theorem turnover {day minute : Nat} {dayToo : Bool} (hday : s.clock.day = day) : BlocksKept s (turnover day minute dayToo s) :=
  ((of_follows (raiseIf_follows dayToo .clock s)).trans (settled dayToo day minute _)).trans (of_through (turnover_settles s hday).1)

end BlocksKept

/-! ## Options in range -/

theorem optionValues_get {o : Options} {n : Nat} (hn : n < 15) : (optionValues o)[n]? = some (o.value n) := by
  obtain ⟨v, hv⟩ : ∃ v, (optionValues o)[n]? = some v := ⟨_, List.getElem?_eq_getElem (by simpa [optionValues] using hn)⟩
  rw [value_of_optionValues hn hv]
  exact hv

theorem optionRange_le : ∀ n, n < 15 → (optionRange n).1 ≤ (optionRange n).2 ∧ (n = 11 ∨ 0 ≤ (optionRange n).1) := by decide

theorem optionInRange_iff {n : Nat} (hn : n < 15) (v : Int) :
    optionInRange n v = true ↔ (n = 6 ∧ v = -1) ∨ ((optionRange n).1 ≤ v ∧ v ≤ (optionRange n).2) := by
  obtain ⟨hle, -⟩ := optionRange_le n hn
  unfold optionInRange appliedValue
  rw [decide_eq_true_iff, clampTo_eq hle]
  split_ifs with h
  · simp only [h, and_self, true_or]
  · simp only [h, false_or]
    omega

/-- What is applied is in range (R202). -/
theorem appliedValue_inRange {n : Nat} (hn : n < 15) (v : Int) : optionInRange n (appliedValue n v) = true := by
  obtain ⟨hle, -⟩ := optionRange_le n hn
  rw [optionInRange_iff hn]
  unfold appliedValue
  rw [clampTo_eq hle]
  split_ifs with h
  · exact .inl ⟨h.1, rfl⟩
  · exact .inr (by omega)

theorem OptionsGood.put {o : Options} (h : OptionsGood o) {n : Nat} (hn : n < 15) {v : Int} (hv : optionInRange n v = true) :
    OptionsGood (o.put n v) := by
  intro m hm
  have hsign : 0 ≤ v ∨ n = 11 ∨ (n = 6 ∧ v = -1) := by
    obtain ⟨-, hsign⟩ := optionRange_le n hn
    rcases (optionInRange_iff hn v).1 hv with hoff | hin
    · exact .inr (.inr hoff)
    · omega
  have hvalue : some ((o.put n v).value m) = if n = m then some v else some (o.value m) := by
    rw [← optionValues_get hm, optionValues_put o hn hsign, List.getElem?_set, optionValues_get hm]
    split_ifs with heq hlen
    · rfl
    · exact absurd (by simpa [optionValues] using hn) hlen
    · rfl
  split_ifs at hvalue with heq
  · rw [Option.some.inj hvalue, ← heq]
    exact hv
  · rw [Option.some.inj hvalue]
    exact h m hm

theorem optionsGood_withText {o : Options} (h : OptionsGood o) (r : TextRef) : OptionsGood { o with privateText := r } := by
  intro n hn
  have hsame : ({ o with privateText := r } : Options).value n = o.value n := by
    refine Option.some.inj ?_
    rw [← optionValues_get hn, ← optionValues_get hn]
    rfl
  rw [hsame]
  exact h n hn

theorem OptionChange.good {o o' : Options} {n : Nat} (h : OptionChange o n o') (ho : OptionsGood o) : OptionsGood o' := by
  cases h with
  | value v hn => exact ho.put hn (appliedValue_inRange hn v)
  | text r => exact optionsGood_withText ho r

theorem readOptionValues_good (k n : Nat) (hn : n + k ≤ 15) (bs : List Byte) {acc o : Options} {rest : List Byte} (hacc : OptionsGood acc)
    (h : readOptionValues k n bs acc = some (o, rest)) : OptionsGood o := by
  induction k generalizing n bs acc with
  | zero =>
    rw [readOptionValues] at h
    cases h
    exact hacc
  | succ k ih =>
    match bs with
    | a :: b :: bs =>
      simp only [readOptionValues] at h
      split_ifs at h with hrange
      exact ih (n + 1) (by omega) bs (hacc.put (by omega) hrange) h
    | [] => cases h
    | [_] => cases h

theorem readOptions_good {bs : List Byte} {o : Options} (h : readOptions bs = some o) : OptionsGood o := by
  obtain ⟨-, -, hdefault, -⟩ := resetIsGood
  unfold readOptions at h
  split at h
  next o' p off l ho' =>
    split_ifs at h
    cases h
    exact optionsGood_withText (readOptionValues_good 15 0 le_rfl bs hdefault ho') _
  next => cases h

/-- What the checks of R193 and R194 leave: a revision, options in range, and a full text. -/
theorem readImage_good {f : Flash} {revision : Nat} {i : Image} (h : readImage f = some (revision, i)) :
    1 ≤ revision ∧ revision ≤ 65535 ∧ OptionsGood i.options ∧ i.text.length = 4096 := by
  unfold readImage at h
  split at h
  next r r' _ _ _ _ _ _ _ _ _ =>
    simp only at h
    split_ifs at h with hchecks hcrc
    obtain ⟨i', hbody, hpair⟩ := Option.map_eq_some_iff.1 h
    cases hpair
    obtain ⟨-, -, hrevision, -⟩ := hchecks
    have hmax := (half r r').isLt
    refine ⟨Nat.one_le_iff_ne_zero.2 hrevision, Nat.lt_succ_iff.1 hmax, ?_⟩
    unfold readBody at hbody
    split at hbody
    · unfold readBlocks at hbody
      split at hbody
      next hoptions =>
        simp only at hbody
        split_ifs at hbody with hgood
        cases hbody
        rw [Bool.and_eq_true] at hgood
        exact ⟨readOptions_good hoptions, of_decide_eq_true hgood.2⟩
      · cases hbody
    · cases hbody
  · cases h

/-! ## The blocks together -/

/-- The blocks are good. -/
def BlocksGood (s : State) : Prop :=
  ClockGood s.clock ∧ HoldGood s ∧ OptionsGood s.ps.options ∧ PlanGood s.ps ∧ TextGood s ∧ FlagsGood s

theorem BlocksKept.hold {s t : State} (h : BlocksKept s t) (hs : HoldGood s) : HoldGood t := by
  unfold HoldGood
  rw [h.held, h.timer]
  exact hs

theorem BlocksKept.good {s t : State} (h : BlocksKept s t) (hs : BlocksGood s) : BlocksGood t := by
  obtain ⟨hclock, hhold, hoptions, hplan, htext, hflags⟩ := hs
  exact ⟨h.clock ▸ hclock, h.hold hhold, h.ps ▸ hoptions, h.ps ▸ hplan, (congrArg TextMem.wf h.text).trans htext, h.flags hflags⟩

theorem BlocksKept.spaces {s t : State} (h : BlocksKept s t) (hs : SpacesGood s) : SpacesGood t := by
  unfold SpacesGood
  rw [h.lu]
  exact hs

theorem rederive_kept (s : State) : BlocksKept { s with lu := s.lu.derived } (rederive s) := .of_follows (rederive_follows s)

theorem rederive_spaces (s : State) : SpacesGood (rederive s) := (rederive_kept s).spaces rfl

/-! ## The clock -/

theorem atEnd_good {c : Clock} (h : c.atEnd = true) : c.day = 15 ∧ c.minute = 1439 ∧ c.second = 59 := (atEnd_iff c).1 h

theorem expireClock_clock (s : State) : (expireClock s).clock = { s.clock with mode := .expired } := rfl

theorem passMinute_kept {s : State} (hmode : s.clock.mode = .running) : BlocksKept
    { s with clock := { mode := .running
                        day := if s.clock.minute = 1439 then s.clock.day + 1 else s.clock.day
                        minute := if s.clock.minute = 1439 then 0 else s.clock.minute + 1, second := 0 } } (passMinute s) := by
  rw [passMinute_eq hmode]
  exact .turnover rfl

theorem ClockGood.passMinute {s : State} (h : ClockGood s.clock) (hmode : s.clock.mode = .running) (hend : s.clock.atEnd = false)
    (hsec : s.clock.second = 59) : ClockGood (passMinute s).clock := by
  obtain ⟨hday, hminute, -, -, -⟩ := h
  have hlast : ¬ (s.clock.day = 15 ∧ s.clock.minute = 1439) := fun hl => by
    rw [(atEnd_iff s.clock).2 ⟨hl.1, hl.2, hsec⟩] at hend
    cases hend
  rw [(passMinute_kept hmode).clock]
  refine ⟨?_, ?_, Nat.zero_le _, nofun, nofun⟩
  · simp only
    split_ifs <;> omega
  · simp only
    split_ifs <;> omega

theorem ClockGood.expire {s : State} (hend : s.clock.atEnd = true) : ClockGood (expireClock s).clock := by
  obtain ⟨hday, hminute, hsecond⟩ := atEnd_good hend
  rw [expireClock_clock]
  refine ⟨?_, ?_, ?_, nofun, fun _ => ⟨hday, hminute, hsecond⟩⟩
  · simp only [hday, le_refl]
  · simp only [hminute, le_refl]
  · simp only [hsecond, le_refl]

/-- A tick of the clock: nothing, the end of time, a new minute, or the next second (R22, R25). -/
theorem tickClock_cases (s : State) : tickClock s = s ∨ (s.clock.mode = .running ∧ s.clock.atEnd = true ∧ tickClock s = expireClock s)
    ∨ (s.clock.mode = .running ∧ s.clock.atEnd = false ∧ s.clock.second = 59 ∧ tickClock s = passMinute s)
    ∨ (s.clock.mode = .running ∧ s.clock.second ≠ 59 ∧ tickClock s = s.setSecond (s.clock.second + 1)) := by
  unfold tickClock
  split_ifs with hmode hend hsec
  · exact .inr (.inl ⟨hmode, hend, rfl⟩)
  · exact .inr (.inr (.inl ⟨hmode, Bool.not_eq_true _ ▸ hend, hsec, rfl⟩))
  · exact .inr (.inr (.inr ⟨hmode, hsec, rfl⟩))
  · exact .inl rfl

/-- Beside the clock a tick leaves the blocks. -/
theorem tickClock_kept (s : State) : BlocksKept { s with clock := (tickClock s).clock } (tickClock s) := by
  rcases tickClock_cases s with heq | ⟨-, -, heq⟩ | ⟨hmode, -, -, heq⟩ | ⟨-, -, heq⟩
  · rw [heq]
    exact .refl s
  · rw [heq]
    exact .of_follows (raise_follows .clock { s with clock := { s.clock with mode := .expired } })
  · have hkept := passMinute_kept hmode
    rw [heq, hkept.clock]
    exact hkept
  · rw [heq]
    exact .refl _

theorem ClockGood.tick {s : State} (h : ClockGood s.clock) : ClockGood (tickClock s).clock := by
  rcases tickClock_cases s with heq | ⟨-, hend, heq⟩ | ⟨hmode, hend, hsec, heq⟩ | ⟨hmode, hsec, heq⟩
  · rw [heq]
    exact h
  · rw [heq]
    exact .expire hend
  · rw [heq]
    exact h.passMinute hmode hend hsec
  · rw [heq, setSecond_clock]
    obtain ⟨hday, hminute, hsecond, -, -⟩ := h
    refine ⟨hday, hminute, ?_, fun hm => ?_, fun hm => ?_⟩
    · simp only
      omega
    · rw [hmode] at hm
      cases hm
    · rw [hmode] at hm
      cases hm

theorem times_keeps {P : State → Prop} {f : State → State} (hf : ∀ s, P s → P (f s)) (k : Nat) {s : State} (h : P s) : P (times f k s) := by
  induction k generalizing s with
  | zero => exact h
  | succ k ih => exact ih (hf s h)

theorem times_tick_kept (k : Nat) (s : State) : BlocksKept { s with clock := (times tickClock k s).clock } (times tickClock k s) := by
  induction k generalizing s with
  | zero => exact .refl s
  | succ k ih =>
    have htick := tickClock_kept s
    have hrest := ih (tickClock s)
    exact ⟨hrest.lu.trans htick.lu, rfl, hrest.text.trans htick.text, hrest.ps.trans htick.ps, hrest.held.trans htick.held,
      hrest.timer.trans htick.timer, fun hf => hrest.flags (htick.flags hf)⟩

theorem moveBack_clock (k : Nat) (s : State) : (moveBack k s).clock = { s.clock with
    day := (s.clock.seconds - k) / 86400, minute := (s.clock.seconds - k) / 60 % 1440, second := (s.clock.seconds - k) % 60 } := by
  unfold moveBack
  simp only
  split_ifs
  · rfl
  · rw [(BlocksKept.clockChange _ _).clock]
    rfl

theorem moveBack_kept (k : Nat) (s : State) : BlocksKept { s with clock := (moveBack k s).clock } (moveBack k s) := by
  rw [moveBack_clock]
  unfold moveBack
  simp only
  split_ifs
  · exact .refl _
  · exact .clockChange false _

theorem ClockGood.moveBack {s : State} (h : ClockGood s.clock) (k : Nat) (hmode : s.clock.mode = .running) :
    ClockGood (moveBack k s).clock := by
  obtain ⟨hday, hminute, hsecond, -, -⟩ := h
  rw [moveBack_clock]
  refine ⟨?_, ?_, ?_, fun hm => ?_, fun hm => ?_⟩
  · simp only [seconds_eq]
    omega
  · simp only
    omega
  · simp only
    omega
  · rw [hmode] at hm
    cases hm
  · rw [hmode] at hm
    cases hm

/-! ## The hold -/

theorem HoldGood.tick {s : State} (h : HoldGood s) : HoldGood (tickHold s) := by
  obtain ⟨hmax, hreleased, hheld⟩ := h
  unfold tickHold
  split_ifs with hh ht
  · exact ⟨Nat.zero_le _, fun _ => rfl, nofun⟩
  · refine ⟨?_, fun hno => ?_, fun _ => ?_⟩
    · simp only
      omega
    · simp only at hno
      rw [hh] at hno
      cases hno
    · simp only
      omega
  · exact ⟨hmax, hreleased, hheld⟩

theorem HoldGood.ends (s : State) : HoldGood (holdRunsOut s) := ⟨Nat.zero_le _, fun _ => rfl, nofun⟩

/-! ## Walls -/

theorem putWall_kept (i : Nat) (w w' : Wall) (s : State) : BlocksKept { s with lu := (putWall i w w' s).lu } (putWall i w w' s) := by
  unfold putWall
  simp only
  split_ifs
  · exact .refl _
  · have h := rederive_kept { s with lu := { s.lu with walls := Table.put s.lu.walls i w' } }
    refine ⟨rfl, h.clock, h.text, h.ps, h.held, h.timer, h.flags⟩

theorem sampleWall_kept (contacts : BitVec 96) (i : Nat) (s : State) :
    BlocksKept { s with lu := (sampleWall contacts i s).lu } (sampleWall contacts i s) := by
  cases hw : Table.get s.lu.walls i with
  | none =>
    have hstands : sampleWall contacts i s = s := by simp only [sampleWall, hw]
    rw [hstands]
    exact .refl s
  | some w =>
    rw [sampleWall_eq hw]
    generalize sampled _ _ _ w = w'
    have hput := putWall_kept i w w' (raiseIf (w'.filtered ≠ w.filtered) .wall s)
    have hraise := BlocksKept.of_follows (raiseIf_follows (w'.filtered ≠ w.filtered) .wall s)
    exact ⟨rfl, hput.clock.trans hraise.clock, hput.text.trans hraise.text, hput.ps.trans hraise.ps, hput.held.trans hraise.held,
      hput.timer.trans hraise.timer, fun hf => hput.flags (hraise.flags hf)⟩

theorem SpacesGood.sampleWall {s : State} (h : SpacesGood s) (contacts : BitVec 96) (i : Nat) : SpacesGood (sampleWall contacts i s) := by
  cases hw : Table.get s.lu.walls i with
  | none =>
    have hstands : Machine.sampleWall contacts i s = s := by simp only [Machine.sampleWall, hw]
    rw [hstands]
    exact h
  | some w =>
    rw [sampleWall_eq hw]
    obtain ⟨ha, hb, -⟩ := sampled_joins s.ps.options.settle s.ps.options.travel
      (readingOf (contacts.getLsbD (2 * i)) (contacts.getLsbD (2 * i + 1))) w
    refine putWall_derived ?_ ha hb ?_
    · rw [raiseIf_lu]
      exact hw
    · rw [raiseIf_lu]
      exact h

end Sys2Proof.Machine
end

section
/-! PROOFS. Every deed keeps the blocks and the space list good (spec: R4, R17, R20–R30, R55–R65, R101–R106, R191–R202). -/

namespace Sys2Proof.Machine

variable {s t : State}

/-! ## Requests -/

theorem optionChanged_kept (n : Nat) (s : State) : BlocksKept s (optionChanged n s) :=
  optionChanged_keeps (P := BlocksKept s) (fun _ h => h.trans (.of_follows (reevaluateSessions_follows _)))
    (fun _ h => h.trans (.of_follows (recomputeAll_follows _))) (fun _ h => h.trans (.of_bus (.of_seg (judgeColdAll_segWork _)))) n s (.refl s)

theorem applyOption_kept (n : Nat) (o : Options) (s : State) : BlocksKept (s.setOptions o) (applyOption n o s) := by
  by_cases h : o = s.ps.options
  · rw [applyOption_same n s h, h]
    exact .refl s
  · rw [applyOption_changed n s h]
    exact optionChanged_kept n _

theorem BusWork.bindSlot (slot : Nat) (serial : Serial) (s : State) : BusWork s (bindSlot slot serial s) := by
  unfold Machine.bindSlot
  split
  · exact .refl s
  · exact (BusWork.of_seg (.raiseIf _ .panel s)).trans (.bindRecord _ _ _ _)

theorem BusWork.strayHolder (slot : Nat) (s : State) : BusWork s (strayHolder slot s) := by
  unfold Machine.strayHolder
  split
  · exact .makeStray _ _ s
  · exact .refl s

theorem BusWork.workBinding (slot : Nat) (before : Option Serial) (serial : Serial) (s : State) :
    BusWork s (workBinding slot before serial s) := by
  rw [workBinding_eq]
  split_ifs
  · exact .recomputeSlot slot s
  · exact (BusWork.strayHolder slot s).trans (.bindSlot slot serial _)

theorem BusWork.setPages (slot : Nat) (role : Role) (s : State) : BusWork s (setPages slot role s) := by
  unfold Machine.setPages
  split <;> exact ⟨rfl, rfl, rfl, rfl, rfl, rfl, rfl, rfl, id⟩

theorem BusWork.discardPages (slot : Nat) (s : State) : BusWork s (discardPages slot s) := ⟨rfl, rfl, rfl, rfl, rfl, rfl, rfl, rfl, id⟩

/-- Beside the block that a request is for, the blocks stand. -/
theorem BlockRequest.kept (h : BlockRequest s t) : BlocksKept { s with
    lu := t.lu, clock := t.clock, text := t.text, ps := t.ps, nu := { s.nu with held := t.nu.held, timer := t.nu.timer } } t := by
  have hflags {u : State} (hu : BlocksKept u t) (hs : FlagsGood s → FlagsGood u) : BlocksKept { s with
      lu := t.lu, clock := t.clock, text := t.text, ps := t.ps, nu := { s.nu with held := t.nu.held, timer := t.nu.timer } } t :=
    ⟨rfl, rfl, rfl, rfl, rfl, rfl, fun hf => hu.flags (hs hf)⟩
  cases h with
  | option _ => exact hflags (applyOption_kept _ _ s) id
  | save _ => exact hflags (.refl _) id
  | layout _ => exact hflags (rederive_kept _) id
  | wall _ _ _ => exact hflags (putWall_kept _ _ _ s) id
  | clock purge _ => exact hflags (.clockChange purge _) id
  | ticks k => exact hflags (times_tick_kept k s) id
  | back k _ => exact hflags (moveBack_kept k s) id
  | session _ _ _ => exact hflags (.of_follows (reevaluateOne_follows _ _ _ s)) id
  | drop n => exact hflags (.of_follows (recomputeAll_follows _)) id
  | text _ => exact hflags (.of_follows (recomputeAll_follows _)) id
  | notices _ _ => exact hflags (.of_follows (recomputeZone_follows _ _)) id
  | pin _ _ _ => exact hflags (.of_bus (.recomputeSlot _ _)) id
  | unpin n => exact hflags (.of_bus (.recomputeSlot n _)) id
  | hold => exact hflags (.refl _) id
  | release => exact hflags (.refl _) id
  | definePanel _ => exact hflags (.of_bus ((BusWork.setPages _ _ _).trans (.workBinding _ _ _ _))) id
  | removePanel n => exact hflags (.of_bus ((BusWork.strayHolder n _).trans (.discardPages n _))) id

theorem BlockRequest.clockGood (h : BlockRequest s t) (hs : ClockGood s.clock) : ClockGood t.clock := by
  cases h with
  | option _ => rw [(applyOption_kept _ _ s).clock]; exact hs
  | save _ => exact hs
  | layout _ => rw [(rederive_kept _).clock]; exact hs
  | wall _ _ _ => rw [(putWall_kept _ _ _ s).clock]; exact hs
  | clock purge hc => rw [(BlocksKept.clockChange purge _).clock]; exact hc
  | ticks k => exact times_keeps (P := fun s => ClockGood s.clock) (fun _ h => h.tick) k hs
  | back k hmode => exact hs.moveBack k hmode
  | session _ _ _ => rw [(reevaluateOne_follows _ _ _ s).clock]; exact hs
  | drop n => rw [(recomputeAll_follows _).clock]; exact hs
  | text _ => rw [pageWrite, (recomputeAll_follows _).clock]; exact hs
  | notices _ _ => rw [changeNotices, (recomputeZone_follows _ _).clock]; exact hs
  | pin _ _ _ => rw [changePins, (BusWork.recomputeSlot _ _).clock]; exact hs
  | unpin n => rw [changePins, (BusWork.recomputeSlot _ _).clock]; exact hs
  | hold => exact hs
  | release => exact hs
  | definePanel _ => rw [((BusWork.setPages _ _ _).trans (.workBinding _ _ _ _)).clock]; exact hs
  | removePanel n => rw [discardPages_clock, (BusWork.strayHolder n _).clock]; exact hs

theorem ready_not_idle (plan : PlanState) (h : plan = .ready ∨ plan = .saving) : ¬ (plan = .loading ∨ plan = .empty) := by
  rcases h with rfl | rfl
  · nofun
  · nofun

theorem BlockRequest.blocksGood (h : BlockRequest s t) (hs : BlocksGood s) : BlocksGood t := by
  have hclock := h.clockGood hs.1
  obtain ⟨-, hhold, hoptions, hplan, htext, hflags⟩ := hs
  have hstands {u : State} (hu : BlocksKept u t) (ho : OptionsGood u.ps.options) (hp : PlanGood u.ps) (hh : HoldGood u) (hx : TextGood u) :
      BlocksGood t :=
    ⟨hclock, hu.hold hh, hu.ps ▸ ho, hu.ps ▸ hp, (congrArg TextMem.wf hu.text).trans hx, h.kept.flags hflags⟩
  cases h with
  | option hc => exact hstands (applyOption_kept _ _ s) (hc.good hoptions) hplan hhold htext
  | save hready =>
    obtain ⟨-, hrevision, -⟩ := hplan
    exact hstands (.refl _) hoptions ⟨fun hp => absurd hp (ready_not_idle _ (.inr rfl)), fun _ => hrevision (.inl hready), Iff.intro (fun _ => rfl) (fun _ => rfl)⟩
      hhold htext
  | layout _ => exact hstands (rederive_kept _) hoptions hplan hhold htext
  | wall _ _ _ => exact hstands (putWall_kept _ _ _ s) hoptions hplan hhold htext
  | clock purge _ => exact hstands (.clockChange purge _) hoptions hplan hhold htext
  | ticks k => exact hstands (times_tick_kept k s) hoptions hplan hhold htext
  | back k _ => exact hstands (moveBack_kept k s) hoptions hplan hhold htext
  | session _ _ _ => exact hstands (.of_follows (reevaluateOne_follows _ _ _ s)) hoptions hplan hhold htext
  | drop n => exact hstands (.of_follows (recomputeAll_follows _)) hoptions hplan hhold htext
  | text hwf => exact hstands (.of_follows (recomputeAll_follows _)) hoptions hplan hhold (hwf htext)
  | notices _ _ => exact hstands (.of_follows (recomputeZone_follows _ _)) hoptions hplan hhold htext
  | pin _ _ _ => exact hstands (.of_bus (.recomputeSlot _ _)) hoptions hplan hhold htext
  | unpin n => exact hstands (.of_bus (.recomputeSlot n _)) hoptions hplan hhold htext
  | hold =>
    have htimeout := (optionInRange_iff (n := 13) (by decide) _).1 (hoptions 13 (by decide))
    have hrange : 10 ≤ s.ps.options.holdTimeout ∧ s.ps.options.holdTimeout ≤ 600 := by
      simpa [Options.value, optionRange] using htimeout
    exact hstands (.refl _) hoptions hplan ⟨hrange.2, nofun, fun _ => le_trans (by decide) hrange.1⟩ htext
  | release => exact hstands (.refl _) hoptions hplan ⟨Nat.zero_le _, fun _ => rfl, nofun⟩ htext
  | definePanel _ => exact hstands (.of_bus ((BusWork.setPages _ _ _).trans (.workBinding _ _ _ _))) hoptions hplan hhold htext
  | removePanel n => exact hstands (.of_bus ((BusWork.strayHolder n _).trans (.discardPages n _))) hoptions hplan hhold htext

theorem BlockRequest.spacesGood (h : BlockRequest s t) (hs : SpacesGood s) : SpacesGood t := by
  cases h with
  | option _ => exact (applyOption_kept _ _ s).spaces hs
  | save _ => exact hs
  | layout _ => exact rederive_spaces _
  | wall hw ha hb => exact putWall_derived hw ha hb hs
  | clock purge _ => exact (BlocksKept.clockChange purge _).spaces hs
  | ticks k => exact (times_tick_kept k s).spaces hs
  | back k _ => exact (moveBack_kept k s).spaces hs
  | session _ _ _ => exact (BlocksKept.of_follows (reevaluateOne_follows _ _ _ s)).spaces hs
  | drop n => exact (BlocksKept.of_follows (recomputeAll_follows _)).spaces hs
  | text _ => exact (BlocksKept.of_follows (recomputeAll_follows _)).spaces hs
  | notices _ _ => exact (BlocksKept.of_follows (recomputeZone_follows _ _)).spaces hs
  | pin _ _ _ => exact (BlocksKept.of_bus (.recomputeSlot _ _)).spaces hs
  | unpin n => exact (BlocksKept.of_bus (.recomputeSlot n _)).spaces hs
  | hold => exact hs
  | release => exact hs
  | definePanel _ => exact (BlocksKept.of_bus ((BusWork.setPages _ _ _).trans (.workBinding _ _ _ _))).spaces hs
  | removePanel n => exact (BlocksKept.of_bus ((BusWork.strayHolder n _).trans (.discardPages n _))).spaces hs

/-! ## Restart, reset, load -/

/-- What a RESTART leaves of the blocks. -/
theorem applyRestart_kept (s : State) : BlocksKept (restarted (restartLink s)) (applyRestart s) :=
  .of_follows (applyRestart_restarts s).1

theorem applyRestart_spaces (s : State) : SpacesGood (applyRestart s) := by
  obtain ⟨-, -, hparts⟩ := applyRestart_restarts s
  have hlu : (applyRestart s).lu.opened.derived = (applyRestart s).lu := hparts .layout
  unfold SpacesGood
  rw [← hlu]
  rfl

theorem resetBlocks_good (cause : ResetCause) (pin : Bool) (s : State) : BlocksGood (resetBlocks cause pin s) ∧ SpacesGood (resetBlocks cause pin s) := by
  obtain ⟨hclock, hhold, hoptions, hplan, htext, hflags, -, -, hspaces, -⟩ := resetIsGood
  refine ⟨⟨hclock, hhold, hoptions, hplan, htext, ?_⟩, hspaces⟩
  refine ⟨hflags.1, ?_⟩
  show (!pin) = attnOf pin 0x0001 0xFFFF
  cases pin with
  | false => decide
  | true => decide

theorem placed_blocks (answers : Bool) (h : BlocksGood s) (hload : s.ps.plan = .loading) : BlocksGood (placed answers s) := by
  obtain ⟨hclock, hhold, hoptions, hplan, htext, hflags⟩ := h
  have hnosave : s.ps.save = none := by
    obtain ⟨-, -, hsave⟩ := hplan
    rw [hload] at hsave
    cases hv : s.ps.save with
    | none => rfl
    | some v =>
      rw [hv] at hsave
      cases hsave.1 rfl
  have hempty : BlocksGood (placeNothing s) := by
    refine ⟨hclock, hhold, hoptions, ⟨fun _ => hplan.1 (.inl hload), fun hp => absurd (.inr rfl) (ready_not_idle _ hp), ?_⟩, htext, hflags⟩
    show s.ps.save.isSome = true ↔ PlanState.empty = .saving
    rw [hnosave]
    exact ⟨nofun, nofun⟩
  by_cases hgood : answers = false ∨ s.ps.flash.torn = true ∨ readImage s.ps.flash = none
  · rw [placed_nothing hgood]
    exact hempty
  · rw [not_or, not_or, Bool.not_eq_false, Bool.not_eq_true] at hgood
    obtain ⟨hanswers, htorn, hread⟩ := hgood
    obtain ⟨⟨revision, i⟩, hread⟩ := Option.ne_none_iff_exists'.1 hread
    obtain ⟨hlow, hhigh, hrange, hlength⟩ := readImage_good hread
    rw [placed_image hanswers htorn hread]
    refine ⟨hclock, hhold, hrange, ⟨fun hp => absurd hp (ready_not_idle _ (.inl rfl)), fun _ => ⟨hlow, hhigh⟩, ?_⟩, ?_, hflags⟩
    · show s.ps.save.isSome = true ↔ PlanState.ready = .saving
      rw [hnosave]
      exact ⟨nofun, nofun⟩
    · refine TextMem.wf_writeAll htext i.text ?_
      rw [hlength]
      decide

theorem beginRollCalls_kept (s : State) : BlocksKept s (beginRollCalls s) := by
  rw [beginRollCalls_eq]
  exact ⟨rfl, rfl, rfl, rfl, rfl, rfl, id⟩

theorem rederive_blocks (h : BlocksGood s) : BlocksGood (rederive s) :=
  (rederive_kept s).good h

theorem optionChanges_kept (before : Options) (s : State) : BlocksKept s (optionChanges before s) :=
  optionChanges_keeps (P := BlocksKept s) (fun _ h => h.trans (.of_follows (reevaluateSessions_follows _)))
    (fun _ h => h.trans (.of_follows (recomputeAll_follows _))) (fun _ h => h.trans (.of_bus (.of_seg (judgeColdAll_segWork _)))) before s (.refl s)

theorem deliverLoadEnd_keeps {P : State → Prop} (hrederive : ∀ s, P s → P (rederive s)) (hkept : ∀ s t, BlocksKept s t → P s → P t)
    (before : Options) (h : P s) : P (deliverLoadEnd before s) := by
  rw [deliverLoadEnd_eq]
  refine forEach_keeps P _ _ (fun u hu => hkept u _ ⟨rfl, rfl, rfl, rfl, rfl, rfl, id⟩ hu) (fun f hf u hu => ?_) s h
  rcases mem_loadReceivers.1 hf with rfl | rfl | rfl | rfl
  · exact hrederive u hu
  · exact hkept u _ (.of_follows (recomputeAll_follows u)) hu
  · exact hkept u _ (beginRollCalls_kept u) hu
  · exact hkept u _ (optionChanges_kept before u) hu

theorem endLoadImage_blocks (answers : Bool) (h : BlocksGood s) : BlocksGood (endLoadImage answers s) := by
  unfold endLoadImage
  split_ifs with hload
  · exact deliverLoadEnd_keeps (fun _ hu => rederive_blocks hu) (fun _ _ hk hu => hk.good hu) s.ps.options (placed_blocks answers h hload)
  · exact h

theorem endLoadImage_clock (answers : Bool) (s : State) : (endLoadImage answers s).clock = s.clock := by
  unfold endLoadImage
  split_ifs with hload
  · exact deliverLoadEnd_keeps (P := fun u => u.clock = s.clock) (fun u hu => (rederive_kept u).clock.trans hu)
      (fun _ _ hk hu => hk.clock.trans hu) s.ps.options (placed_rest answers s).2.2.2.2.2.1
  · rfl

/-! ## Saving -/

theorem PlanGood.saved (h : PlanGood s.ps) (hsave : s.ps.save.isSome = true) (result : SaveResult) (flash : Flash) :
    PlanGood { s.ps with lastSave := result, plan := .ready, save := none, flash } := by
  obtain ⟨-, hrevision, hrunning⟩ := h
  exact ⟨fun hp => absurd hp (ready_not_idle _ (.inl rfl)), fun _ => hrevision (.inr (hrunning.1 hsave)), ⟨nofun, nofun⟩⟩

theorem PlanGood.nextStage (h : PlanGood s.ps) (hsave : s.ps.save.isSome = true) (v : Save) (flash : Flash) :
    PlanGood { s.ps with save := some v, flash } := by
  obtain ⟨hempty, hrevision, hrunning⟩ := h
  exact ⟨hempty, hrevision, ⟨fun _ => hrunning.1 hsave, fun _ => rfl⟩⟩

theorem BlocksGood.withPlan (h : BlocksGood s) {ps : PlanStore} (hoptions : ps.options = s.ps.options) (hplan : PlanGood ps) :
    BlocksGood { s with ps } := by
  obtain ⟨hclock, hhold, ho, -, htext, hflags⟩ := h
  exact ⟨hclock, hhold, hoptions ▸ ho, hplan, htext, hflags⟩

theorem BlocksGood.raise (h : BlocksGood s) (f : Flag) : BlocksGood (raise f s) := (BlocksKept.of_follows (raise_follows f s)).good h

theorem failSave_good (h : BlocksGood s) (hsave : s.ps.save.isSome = true) (v : Save) : BlocksGood (failSave v s) := by
  refine BlocksGood.raise ?_ .save
  exact h.withPlan rfl (h.2.2.2.1.saved hsave .failed _)

theorem passStage_good (h : BlocksGood s) (hsave : s.ps.save.isSome = true) (v : Save) : BlocksGood (passStage v s) := by
  unfold passStage
  cases v.stage with
  | erase => exact h.withPlan rfl (h.2.2.2.1.nextStage hsave _ _)
  | body => exact h.withPlan rfl (h.2.2.2.1.nextStage hsave _ _)
  | header =>
    refine BlocksGood.raise ?_ .save
    exact h.withPlan rfl (h.2.2.2.1.saved hsave .ok _)

theorem endStage_good (h : BlocksGood s) (stage : SaveStage) (passed : Bool) : BlocksGood (endStage stage passed s) := by
  unfold endStage
  split
  · exact h
  next v hv =>
    have hsave : s.ps.save.isSome = true := by rw [hv]; rfl
    split_ifs
    · exact passStage_good h hsave v
    · exact failSave_good h hsave v
    · exact h

theorem flashTimesOut_good (h : BlocksGood s) : BlocksGood (flashTimesOut s) := by
  unfold flashTimesOut
  split
  · exact h
  next v hv => exact failSave_good h (by rw [hv]; rfl) v

/-- A save leaves all but PS and its flag. -/
theorem failSave_kept (v : Save) (s : State) : BlocksKept { s with ps := (failSave v s).ps } (failSave v s) :=
  .of_follows (raise_follows .save _)

theorem endStage_kept (stage : SaveStage) (passed : Bool) (s : State) : BlocksKept { s with ps := (endStage stage passed s).ps } (endStage stage passed s) := by
  unfold endStage
  split
  · exact .refl s
  next v _ =>
    split_ifs
    · unfold passStage
      cases v.stage with
      | erase => exact .refl _
      | body => exact .refl _
      | header => exact .of_follows (raise_follows .save _)
    · exact failSave_kept v s
    · exact .refl s

theorem flashTimesOut_kept (s : State) : BlocksKept { s with ps := (flashTimesOut s).ps } (flashTimesOut s) := by
  unfold flashTimesOut
  split
  · exact .refl s
  · exact failSave_kept _ s

/-! ## Every deed -/

/-- Steps that leave all but LU leave so together. -/
theorem foldl_kept {f : State → Nat → State} (hf : ∀ i s, BlocksKept { s with lu := (f s i).lu } (f s i)) (keys : List Nat) (s : State) :
    BlocksKept { s with lu := (keys.foldl f s).lu } (keys.foldl f s) := by
  induction keys generalizing s with
  | nil => exact .refl s
  | cons i keys ih =>
    have hone := hf i s
    have hrest := ih (f s i)
    exact ⟨rfl, hrest.clock.trans hone.clock, hrest.text.trans hone.text, hrest.ps.trans hone.ps, hrest.held.trans hone.held,
      hrest.timer.trans hone.timer, fun hg => hrest.flags (hone.flags hg)⟩

theorem scanWalls_kept (contacts : BitVec 96) (s : State) : BlocksKept { s with lu := (scanWalls contacts s).lu } (scanWalls contacts s) := by
  unfold scanWalls
  split_ifs
  · exact .refl s
  · exact foldl_kept (sampleWall_kept contacts) _ s

theorem SpacesGood.scanWalls (h : SpacesGood s) (contacts : BitVec 96) : SpacesGood (scanWalls contacts s) := by
  unfold Machine.scanWalls
  split_ifs
  · exact h
  · exact foldl_keeps (P := SpacesGood) (fun i _ v hv => SpacesGood.sampleWall hv contacts i) h

theorem BlocksGood.tick (h : BlocksGood s) : BlocksGood (tickHold (tickClock s)) := by
  obtain ⟨hclock, hhold, hoptions, hplan, htext, hflags⟩ := h
  have hkept := tickClock_kept s
  have hticked := HoldGood.tick (hkept.hold hhold)
  have hrest {u : State} (hu : u = tickHold (tickClock s)) : u.clock = (tickClock s).clock ∧ u.ps = (tickClock s).ps
      ∧ u.text = (tickClock s).text ∧ (FlagsGood (tickClock s) → FlagsGood u) := by
    subst hu
    unfold tickHold
    split_ifs
    · exact ⟨rfl, rfl, rfl, (raise_follows .hold _).good⟩
    · exact ⟨rfl, rfl, rfl, id⟩
    · exact ⟨rfl, rfl, rfl, id⟩
  obtain ⟨hc, hp, ht, hf⟩ := hrest rfl
  refine ⟨hc ▸ hclock.tick, hticked, ?_, ?_, (congrArg TextMem.wf (ht.trans hkept.text)).trans htext, hf (hkept.flags hflags)⟩
  · rw [hp, hkept.ps]
    exact hoptions
  · rw [hp, hkept.ps]
    exact hplan

theorem commitEdit_good (h : BlocksGood t) (hloading : t.ps.plan ≠ .loading) (hsaving : t.ps.plan ≠ .saving) : BlocksGood (commitEdit t) := by
  obtain ⟨-, -, hrunning⟩ := h.2.2.2.1
  have hedited : editedPlan t.ps.plan = .ready := by
    cases hp : t.ps.plan with
    | loading => exact absurd hp hloading
    | saving => exact absurd hp hsaving
    | empty => rfl
    | ready => rfl
  refine h.withPlan rfl ?_
  rw [hedited]
  refine ⟨fun hp => absurd hp (ready_not_idle _ (.inl rfl)), fun _ => ?_, ?_⟩
  · simp only [nextRevision]
    split_ifs <;> omega
  · show t.ps.save.isSome = true ↔ PlanState.ready = .saving
    exact ⟨fun hs => absurd (hrunning.1 hs) hsaving, nofun⟩

theorem Does.blocksGood (h : Does s t) (hs : BlocksGood s) : BlocksGood t := by
  cases h with
  | bus hb => exact (BlocksKept.of_bus hb.busWork).good hs
  | owner hr => exact hr.blocksGood hs
  | edit hloading hsaving hr hps =>
    obtain ⟨panels, hps⟩ := hps
    exact commitEdit_good (hr.blocksGood hs) (by rw [hps]; exact hloading) (by rw [hps]; exact hsaving)
  | restart =>
    obtain ⟨-, -, hoptions, hplan, htext, -⟩ := hs
    obtain ⟨hclock, hhold, -⟩ := resetIsGood
    exact (applyRestart_kept s).good ⟨hclock, hhold, hoptions, hplan, TextMem.wf_clearSchedule htext, restartLink_flags s⟩
  | reset cause pin => exact (resetBlocks_good cause pin s).1
  | load answers => exact endLoadImage_blocks answers hs
  | tick => exact hs.tick
  | holdEnds =>
    obtain ⟨hclock, -, hoptions, hplan, htext, hflags⟩ := hs
    exact ⟨hclock, .ends s, hoptions, hplan, htext, (raise_follows .hold _).good hflags⟩
  | expire _ hend =>
    obtain ⟨-, hhold, hoptions, hplan, htext, hflags⟩ := hs
    exact ⟨.expire hend, hhold, hoptions, hplan, htext, (raise_follows .clock _).good hflags⟩
  | minute hmode hend hsec =>
    have hclock := hs.1.passMinute hmode hend hsec
    obtain ⟨-, hhold, hoptions, hplan, htext, hflags⟩ := hs
    have hkept := passMinute_kept hmode
    rw [hkept.clock] at hclock
    exact hkept.good ⟨hclock, hhold, hoptions, hplan, htext, hflags⟩
  | scan contacts =>
    obtain ⟨hclock, hhold, hoptions, hplan, htext, hflags⟩ := hs
    exact (scanWalls_kept contacts s).good ⟨hclock, hhold, hoptions, hplan, htext, hflags⟩
  | stage stage passed => exact endStage_good hs stage passed
  | flashTimeout => exact flashTimesOut_good hs

theorem Does.spacesGood (h : Does s t) (hs : SpacesGood s) : SpacesGood t := by
  cases h with
  | bus hb => exact (BlocksKept.of_bus hb.busWork).spaces hs
  | owner hr => exact hr.spacesGood hs
  | edit _ _ hr _ => exact hr.spacesGood hs
  | restart => exact applyRestart_spaces s
  | reset cause pin => exact (resetBlocks_good cause pin s).2
  | load answers =>
    unfold endLoadImage
    split_ifs
    · exact deliverLoadEnd_spaces _ _
    · exact hs
  | tick =>
    have hticked := (tickClock_kept s).spaces hs
    unfold tickHold
    split_ifs
    · exact hticked
    · exact hticked
    · exact hticked
  | holdEnds => exact hs
  | expire _ _ => exact hs
  | minute hmode _ _ => exact (passMinute_kept hmode).spaces hs
  | scan contacts => exact hs.scanWalls contacts
  | stage stage passed => exact (endStage_kept stage passed s).spaces hs
  | flashTimeout => exact (flashTimesOut_kept s).spaces hs

theorem Does.clockGood (h : Does s t) (hs : ClockGood s.clock) : ClockGood t.clock := by
  cases h with
  | bus hb => rw [hb.busWork.clock]; exact hs
  | owner hr => exact hr.clockGood hs
  | edit _ _ hr _ => exact hr.clockGood hs
  | restart => rw [(applyRestart_kept s).clock]; exact resetIsGood.1
  | reset cause pin => exact (resetBlocks_good cause pin s).1.1
  | load answers => rw [endLoadImage_clock]; exact hs
  | tick =>
    have hticked := hs.tick
    unfold tickHold
    split_ifs
    · exact hticked
    · exact hticked
    · exact hticked
  | holdEnds => exact hs
  | expire _ hend => exact .expire hend
  | minute hmode hend hsec => exact hs.passMinute hmode hend hsec
  | scan contacts => rw [(scanWalls_kept contacts s).clock]; exact hs
  | stage stage passed => rw [(endStage_kept stage passed s).clock]; exact hs
  | flashTimeout => rw [(flashTimesOut_kept s).clock]; exact hs

end Sys2Proof.Machine
end

section
/-! PROOFS. The session map stays good: every deed keeps its records in range, apart and current (spec: R31–R52). -/

namespace Sys2Proof.Machine

/-! ## The map -/

/-- Two records do not clash (R39). -/
def Apart (x y : Session) : Prop :=
  x.cancelled = false → y.cancelled = false → x.day = y.day → (∃ i, i ∈ x.sections ∧ i ∈ y.sections) →
    x.effectiveEnd ≤ y.start ∨ y.effectiveEnd ≤ x.start

theorem Apart.symm {x y : Session} (h : Apart x y) : Apart y x := fun hy hx hday ⟨i, hiy, hix⟩ => (h hx hy hday.symm ⟨i, hix, hiy⟩).symm

/-- R31, R32, R39 of a session map: what `SessionsGood` says of it beside that its records are current. -/
structure MapGood (t : Table Session) : Prop where
  rising : Table.rising t = true
  count : t.length ≤ 512
  ranges : ∀ e, e ∈ t → 1 ≤ e.1 ∧ e.1 ≤ 65535 ∧ SessionInRange e.2
  apart : ∀ e f, e ∈ t → f ∈ t → e.1 ≠ f.1 → Apart e.2 f.2

theorem SessionsGood.map {s : State} (h : SessionsGood s) : MapGood s.sessions := ⟨h.rising, h.count, h.ranges, h.clash⟩

theorem MapGood.sessions {s : State} (h : MapGood s.sessions) (hc : AllCurrent s) : SessionsGood s :=
  ⟨h.rising, h.count, h.ranges, hc, h.apart⟩

/-- The map's laws read what the requests store alone. -/
theorem MapGood.of_stored {t t' : Table Session} (h : MapGood t) (heq : Table.mapVals Session.stored t' = Table.mapVals Session.stored t) :
    MapGood t' where
  rising := by rw [← rising_mapVals Session.stored, heq, rising_mapVals]; exact h.rising
  count := by
    have hlength := congrArg List.length heq
    simp only [Table.mapVals, List.length_map] at hlength
    rw [hlength]
    exact h.count
  ranges e he := by
    obtain ⟨e', he', hkey, hstored⟩ := mem_sessions_of_stored heq he
    obtain ⟨hlow, hhigh, hrange⟩ := h.ranges e' he'
    have hrange' : SessionInRange e'.2.stored := hrange
    rw [hstored] at hrange'
    exact ⟨hkey ▸ hlow, hkey ▸ hhigh, hrange'⟩
  apart e f he hf hne := by
    obtain ⟨e', he', hkey, hstored⟩ := mem_sessions_of_stored heq he
    obtain ⟨f', hf', hkey', hstored'⟩ := mem_sessions_of_stored heq hf
    have hapart : Apart e'.2.stored f'.2.stored := h.apart e' f' he' hf' (hkey ▸ hkey' ▸ hne)
    rw [hstored, hstored'] at hapart
    exact hapart

theorem MapGood.sublist {t t' : Table Session} (h : MapGood t) (hsub : t'.Sublist t) : MapGood t' where
  rising := (rising_iff_keys t').2 (((rising_iff_keys t).1 h.rising).sublist (hsub.map Prod.fst))
  count := hsub.length_le.trans h.count
  ranges e he := h.ranges e (hsub.subset he)
  apart e f he hf hne := h.apart e f (hsub.subset he) (hsub.subset hf) hne

theorem length_put {α : Type} (t : Table α) (n : Nat) (x : α) :
    (Table.put t n x).length = if (Table.get t n).isNone then t.length + 1 else t.length := by
  induction t with
  | nil => rfl
  | cons e t ih =>
    obtain ⟨k, v⟩ := e
    unfold Table.put
    by_cases hk : n = k
    · simp [Table.get, hk]
    · by_cases hlt : n < k ∧ (Table.get t n).isNone = true
      · simp [Table.get, hk, Ne.symm hk, hlt]
      · simp only [if_neg hk, if_neg hlt, List.length_cons, ih, Table.get, if_neg (Ne.symm hk)]
        split <;> rfl

theorem MapGood.put {t : Table Session} (h : MapGood t) {n : Nat} {x : Session} (hlow : 1 ≤ n) (hhigh : n ≤ 65535) (hx : SessionInRange x)
    (hfull : (Table.get t n).isNone = true → t.length < 512) (hapart : ∀ e, e ∈ t → e.1 ≠ n → Apart x e.2) : MapGood (Table.put t n x) where
  rising := Table.rising_put h.rising n x
  count := by
    rw [length_put]
    split_ifs with hnew
    · exact hfull hnew
    · exact h.count
  ranges e he := by
    rcases Table.mem_put he with rfl | he
    · exact ⟨hlow, hhigh, hx⟩
    · exact h.ranges e he
  apart e f he hf hne := by
    rcases Table.mem_put he with rfl | he
    · rcases Table.mem_put hf with rfl | hf
      · exact absurd rfl hne
      · exact hapart f hf (Ne.symm hne)
    · rcases Table.mem_put hf with rfl | hf
      · exact (hapart e he hne).symm
      · exact h.apart e f he hf hne

/-! ## The records the requests leave -/

/-- No clash found is no clash (R39, R40). -/
theorem apart_of_no_clash {t : Table Session} {n : Nat} {x : Session} {e : Nat × Session} (he : e ∈ t) (hne : e.1 ≠ n)
    (h : x.cancelled = false → clashes t n x.day x.sections x.start x.effectiveEnd = false) : Apart x e.2 := by
  intro hx hc hday hshare
  by_contra hover
  rw [not_or, Nat.not_le, Nat.not_le] at hover
  have hclash := (clashes_iff t n x.day x.sections x.start x.effectiveEnd).2 ⟨e, he, hne, hc, hday.symm, hshare, hover.2, hover.1⟩
  rw [h hx] at hclash
  cases hclash

/-- A record LIVE or in OVERRUN has begun and has not ended (R34). -/
theorem running_between {c : Clock} {lead : Nat} {x : Session} (h : phaseAt c lead x = .live ∨ phaseAt c lead x = .overrun) :
    x.start ≤ c.minute ∧ c.minute < x.effectiveEnd := by
  unfold phaseAt at h
  split_ifs at h <;> simp at h <;> omega

theorem recordOf_inRange {p : StoreSpec} (h : storeOutOfRange p = false) : SessionInRange (recordOf p) := by
  obtain ⟨-, hday, -, hstart, hstop, hone, htwelve, hsections, hrepeat, -, -, hlead, htrack⟩ := (storeOutOfRange_iff p).1 h
  have hperm := sortNat_perm (p.sections.map (·.toNat))
  have hdistinct : (sortNat (p.sections.map (·.toNat))).Nodup := hperm.nodup_iff.2 ((hasRepeat_iff _).1 hrepeat)
  refine ⟨hday, hstart, hstop, Nat.zero_le _, ?_, ?_, ?_, fun i hi => hsections i (hperm.mem_iff.1 hi), fun n hn => ?_, htrack, nofun⟩
  · exact hperm.length_eq ▸ hone
  · exact hperm.length_eq ▸ htwelve
  · exact ((sortNat_sorted _).and hdistinct).imp (fun hxy => lt_of_le_of_ne hxy.1 hxy.2)
  · unfold recordOf at hn
    simp only at hn
    split_ifs at hn with hnone
    cases hn
    exact hlead.resolve_left hnone

theorem SessionChange.good {s : State} {n : Nat} {x : Session} {changed : Bool} (h : SessionChange s n x changed) (hs : SessionsGood s) :
    SessionInRange x ∧ ((Table.get s.sessions n).isNone = true → s.sessions.length < 512)
      ∧ ∀ e, e ∈ s.sessions → e.1 ≠ n → Apart x e.2 := by
  have hheld {y : Session} (hy : Table.get s.sessions n = some y) : (Table.get s.sessions n).isNone = true → s.sessions.length < 512 := by
    rw [hy]
    nofun
  cases h with
  | @store p hrange hclash hfull =>
    obtain ⟨-, -, -, -, hstop, -⟩ := (storeOutOfRange_iff p).1 hrange
    have hend : (recordOf p).effectiveEnd = (recordOf p).stop := Nat.min_eq_left hstop
    exact ⟨recordOf_inRange hrange, hfull, fun e he hne => apart_of_no_clash he hne (hend ▸ hclash)⟩
  | @cancel _ y hy =>
    exact ⟨(hs.ranges _ (mem_of_get hy)).2.2, hheld hy, fun e _ _ hc => nomatch hc⟩
  | @restore _ y hy hclash =>
    exact ⟨(hs.ranges _ (mem_of_get hy)).2.2, hheld hy, fun e he hne => apart_of_no_clash he hne (fun _ => hclash)⟩
  | @extend _ k y hy hearly =>
    obtain ⟨-, -, hday, hstart, hstop, hext, hone, htwelve, hrising, hsections, hlead, htrack, -⟩ := hs.ranges _ (mem_of_get hy)
    obtain ⟨-, hfits, -⟩ := grant_spec s.sessions n y k
    have hcap : y.stop + (y.extension + grant s.sessions n y k) ≤ 1440 ∧ y.extension + grant s.sessions n y k ≤ 180 := by
      rcases hfits with hzero | ⟨hcap, hmidnight, -⟩
      · simp only at hstop hext
        omega
      · omega
    obtain ⟨hstop', hext'⟩ := hcap
    have hend : y.effectiveEnd = y.stop + y.extension := by
      unfold Session.effectiveEnd
      rw [hearly]
      exact Nat.min_eq_left hstop
    have hend' : ({ y with extension := y.extension + grant s.sessions n y k } : Session).effectiveEnd
        = y.stop + (y.extension + grant s.sessions n y k) := by
      unfold Session.effectiveEnd
      rw [hearly]
      exact Nat.min_eq_left hstop'
    refine ⟨⟨hday, hstart, hstop', hext', hone, htwelve, hrising, hsections, hlead, htrack, ?_⟩, hheld hy, fun e he hne hc he' hsame hshare => ?_⟩
    · rw [hearly]
      nofun
    · rw [hend']
      rcases hs.clash (n, y) e (mem_of_get hy) he hne.symm hc he' hsame hshare with hbefore | hafter
      · refine .inl ?_
        simp only [hend] at hbefore
        rcases hfits with hzero | ⟨-, -, hnext⟩
        · omega
        · have hlimits : Limits s.sessions n y e := ⟨he, hne, he', hsame.symm, hshare, by simp only at hstart; omega⟩
          have := hnext e hlimits
          omega
      · exact .inr hafter
  | @finish _ e y hy hphase he =>
    obtain ⟨-, -, hday, hstart, hstop, hext, hone, htwelve, hrising, hsections, hlead, htrack, -⟩ := hs.ranges _ (mem_of_get hy)
    obtain ⟨hcurrent, -⟩ := hs.current _ (mem_of_get hy)
    rw [hcurrent] at hphase
    obtain ⟨hbegun, hend⟩ := running_between hphase
    simp only at hbegun hend
    have hearlier : y.start < e ∧ e ≤ y.effectiveEnd := by
      subst he
      split_ifs <;> omega
    refine ⟨⟨hday, hstart, hstop, hext, hone, htwelve, hrising, hsections, hlead, htrack, fun d hd => ?_⟩, hheld hy, fun f hf hne hc hf' hsame hshare => ?_⟩
    · cases hd
      exact hearlier.1
    · rcases hs.clash (n, y) f (mem_of_get hy) hf hne.symm hc hf' hsame hshare with hbefore | hafter
      · exact .inl (hearlier.2.trans hbefore)
      · exact .inr hafter

/-! ## What leaves the map good -/

/-- After deliveries the map holds what it held, evaluated anew. -/
theorem SessionsGood.of_follows {s t : State} (h : SessionsGood s) (hf : Follows s t) (hc : AllCurrent t) : SessionsGood t :=
  (h.map.of_stored hf.stored).sessions hc

theorem SessionsGood.congr {s t : State} (h : SessionsGood s) (hsessions : t.sessions = s.sessions) (hclock : t.clock = s.clock)
    (hlead : t.ps.options.doorLead = s.ps.options.doorLead) (hspaces : t.lu.spaces = s.lu.spaces) : SessionsGood t :=
  (hsessions ▸ h.map).sessions (h.current.congr hsessions hclock hlead hspaces)

theorem SessionsGood.of_bus {s t : State} (h : SessionsGood s) (hw : BusWork s t) : SessionsGood t :=
  h.congr hw.sessions hw.clock (by rw [hw.ps]) (by rw [hw.lu])

theorem SessionsGood.of_work {s t : State} (h : SessionsGood s) (hw : FaceWork s t) : SessionsGood t :=
  h.of_follows hw.follows (hw.current h.current)

theorem SessionsGood.raiseIf {s : State} (h : SessionsGood s) (c : Bool) (f : Flag) : SessionsGood (raiseIf c f s) :=
  h.of_bus (.of_seg (.raiseIf c f s))

theorem SessionsGood.none {s : State} (h : s.sessions = []) : SessionsGood s where
  rising := by rw [h]; rfl
  count := by rw [h]; exact Nat.zero_le _
  ranges e he := by rw [h] at he; cases he
  current e he := by rw [h] at he; cases he
  clash e f he := by rw [h] at he; cases he

/-- Phases read whether the clock is set, its day and its minute. -/
theorem phaseAt_shown (c : Clock) (lead : Nat) (x : Session) : phaseAt c.shown lead x = phaseAt c lead x := by
  unfold phaseAt
  simp only [shown_mode_unset]
  rfl

theorem SessionsGood.of_shown {s t : State} (h : SessionsGood s) (hsessions : t.sessions = s.sessions) (hclock : t.clock.shown = s.clock.shown)
    (hlead : t.ps.options.doorLead = s.ps.options.doorLead) (hspaces : t.lu.spaces = s.lu.spaces) : SessionsGood t := by
  refine (hsessions ▸ h.map).sessions (fun e he => ?_)
  obtain ⟨hphase, hrest⟩ := h.current e (hsessions ▸ he)
  refine ⟨?_, ?_⟩
  · rw [hphase, hlead, ← phaseAt_shown t.clock, hclock, phaseAt_shown]
  · rw [hspaces]
    exact hrest

theorem SessionsGood.putWall {s : State} (h : SessionsGood s) (i : Nat) (w w' : Wall) : SessionsGood (putWall i w w' s) :=
  (h.map.of_stored (putWall_follows i w w' s).stored).sessions ((putWall_taken i w w' s).sessions (.inr h.current))

theorem SessionsGood.scanWalls {s : State} (h : SessionsGood s) (contacts : BitVec 96) : SessionsGood (scanWalls contacts s) := by
  unfold Machine.scanWalls
  split_ifs
  · exact h
  · refine foldl_keeps (P := SessionsGood) (fun i _ v hv => ?_) h
    unfold sampleWall
    split
    · exact hv
    · exact (hv.raiseIf _ _).putWall _ _ _

theorem SessionsGood.clockChange {s : State} (h : MapGood s.sessions) (purge : Bool) : SessionsGood (clockChange purge s) :=
  (MapGood.of_stored (h.sublist List.filter_sublist) (clockChange_settles purge s).1.stored).sessions (clockChange_current purge s)

theorem SessionsGood.turnover {s : State} (h : MapGood s.sessions) {day : Nat} (minute : Nat) (dayToo : Bool) (hday : s.clock.day = day) :
    SessionsGood (turnover day minute dayToo s) := by
  refine MapGood.sessions (MapGood.of_stored (h.sublist ?_) (turnover_settles s hday).1.stored) (turnover_current s)
  simp only [settled, (SegWork.raiseIf dayToo .clock s).sessions]
  exact List.filter_sublist

theorem SessionsGood.passMinute {s : State} (h : SessionsGood s) : SessionsGood (passMinute s) := by
  unfold Machine.passMinute
  split_ifs
  · exact .turnover (by exact h.map) 0 true rfl
  · exact .turnover (by exact h.map) (s.clock.minute + 1) false rfl

theorem SessionsGood.tickClock {s : State} (h : SessionsGood s) : SessionsGood (tickClock s) := by
  rcases tickClock_cases s with heq | ⟨hmode, -, heq⟩ | ⟨-, -, -, heq⟩ | ⟨-, -, heq⟩
  · rw [heq]
    exact h
  · rw [heq]
    exact h.of_shown rfl (by rw [expireClock_clock]; simp [Clock.shown, hmode]) rfl rfl
  · rw [heq]
    exact h.passMinute
  · rw [heq]
    exact h.of_shown rfl rfl rfl rfl

theorem SessionsGood.moveBack {s : State} (h : SessionsGood s) (hc : ClockGood s.clock) (k : Nat) : SessionsGood (moveBack k s) := by
  obtain ⟨-, hminute, hsecond, -⟩ := hc
  unfold Machine.moveBack
  simp only
  split_ifs with hsame
  · refine h.of_shown rfl ?_ rfl rfl
    rw [seconds_eq] at hsame ⊢
    have hday : ((s.clock.day * 1440 + s.clock.minute) * 60 + s.clock.second - k) / 86400 = s.clock.day := by omega
    have hmin : ((s.clock.day * 1440 + s.clock.minute) * 60 + s.clock.second - k) / 60 % 1440 = s.clock.minute := by omega
    rw [hday, hmin]
    rfl
  · exact .clockChange (by exact h.map) false

theorem SessionsGood.reevaluateOne {s : State} (h : SessionsGood s) {n : Nat} {x : Session} {changed : Bool} (hlow : 1 ≤ n) (hhigh : n ≤ 65535)
    (hx : SessionChange s n x changed) : SessionsGood (reevaluateOne changed n x s) := by
  obtain ⟨hrange, hfull, hapart⟩ := hx.good h
  have hfollows := reevaluateOne_follows changed n x s
  refine MapGood.sessions ?_ (fun e he => ?_)
  · rw [reevaluateOne_sessions]
    exact h.map.put hlow hhigh hrange hfull hapart
  · rw [reevaluateOne_sessions] at he
    rcases Table.mem_put he with rfl | he
    · exact reevaluateOne_current changed n x s
    · unfold Current
      rw [hfollows.clock, hfollows.ps, hfollows.lu]
      exact h.current e he

theorem doorLead_put {n : Nat} (h : n ≠ 2) (o : Options) (v : Int) : (o.put n v).doorLead = o.doorLead := by
  unfold Options.put
  split
  case h_3 => exact absurd rfl h
  all_goals rfl

theorem SessionsGood.applyOption {s : State} (h : SessionsGood s) {n : Nat} {o : Options} (ho : OptionChange s.ps.options n o) :
    SessionsGood (applyOption n o s) := by
  by_cases hsame : o = s.ps.options
  · rw [applyOption_same n s hsame]
    exact h
  · rw [applyOption_changed n s hsame]
    by_cases hlead : n = 2
    · subst hlead
      exact (h.map.of_stored (t' := (reevaluateSessions (s.setOptions o)).sessions) (reevaluateSessions_follows (s.setOptions o)).stored).sessions
        (reevaluateAll_current false _)
    · have hset : SessionsGood (s.setOptions o) := by
        refine h.congr rfl rfl ?_ rfl
        cases ho with
        | value v _ => exact doorLead_put hlead _ _
        | text _ => rfl
      exact optionChanged_keeps (P := SessionsGood) (fun v hv => hv.of_follows (reevaluateSessions_follows v) (reevaluateAll_current false v))
        (fun v hv => hv.of_work (recomputeAll_work v)) (fun v hv => hv.of_bus (.of_seg (judgeColdAll_segWork v))) n _ hset

/-! ## Every deed -/

theorem BlockRequest.sessionsGood {s t : State} (h : BlockRequest s t) (hc : ClockGood s.clock) (hs : SessionsGood s) : SessionsGood t := by
  cases h with
  | option ho => exact hs.applyOption ho
  | save _ => exact hs.congr rfl rfl rfl rfl
  | @layout sections walls combos _ =>
    have hspaces : ({ s.lu with sections, walls, combos } : Layout).spaces = s.lu.spaces := rfl
    exact MapGood.sessions (hs.map.of_stored (rederive_follows { s with lu := { s.lu with sections, walls, combos } }).stored)
      ((rederive_tables_taken s hspaces).sessions (.inr hs.current))
  | wall _ _ _ => exact hs.putWall _ _ _
  | clock purge _ => exact .clockChange (by exact hs.map) purge
  | ticks k => exact times_keeps (P := SessionsGood) (fun _ h => h.tickClock) k hs
  | back k _ => exact hs.moveBack hc k
  | session hlow hhigh hx => exact hs.reevaluateOne hlow hhigh hx
  | drop n =>
    have hdel : SessionsGood { s with sessions := Table.del s.sessions n } :=
      (hs.map.sublist List.filter_sublist).sessions (fun e he => hs.current e (List.mem_of_mem_filter he))
    exact hdel.of_work (recomputeAll_work _)
  | @text m _ => exact (hs.congr (t := { s with text := m }) rfl rfl rfl rfl).of_work (recomputeAll_work _)
  | @notices zone m _ _ => exact (hs.congr (t := { s with nu := { s.nu with notices := m } }) rfl rfl rfl rfl).of_work (recomputeZone_work zone _)
  | @pin n _ pin _ _ => exact (hs.congr (t := { s with nu := { s.nu with pins := Table.put s.nu.pins n pin } }) rfl rfl rfl rfl).of_work (recomputeSlot_work n _)
  | unpin n => exact (hs.congr (t := { s with nu := { s.nu with pins := Table.del s.nu.pins n } }) rfl rfl rfl rfl).of_work (recomputeSlot_work n _)
  | hold => exact hs.congr rfl rfl rfl rfl
  | release => exact hs.congr rfl rfl rfl rfl
  | @definePanel n p _ =>
    exact (hs.congr (t := { s with ps := { s.ps with panels := Table.put s.ps.panels n p } }) rfl rfl rfl rfl).of_bus
      ((BusWork.setPages _ _ _).trans (.workBinding _ _ _ _))
  | removePanel n =>
    exact (hs.congr (t := { s with ps := { s.ps with panels := Table.del s.ps.panels n } }) rfl rfl rfl rfl).of_bus
      ((BusWork.strayHolder n _).trans (.discardPages n _))

theorem endLoadImage_sessions (answers : Bool) {s : State} (hs : SessionsGood s) : SessionsGood (endLoadImage answers s) := by
  unfold endLoadImage
  split_ifs
  · obtain ⟨-, -, -, -, -, hclock, hsessions, -, hspaces⟩ := placed_rest answers s
    have hmap : MapGood (placed answers s).sessions := hsessions ▸ hs.map
    have hstored : MapGood (deliverLoadEnd s.ps.options (placed answers s)).sessions := by
      rw [deliverLoadEnd_eq]
      refine forEach_keeps (fun u => MapGood u.sessions) _ _ (fun u hu => hu) (fun f hf u hu => ?_) _ hmap
      rcases mem_loadReceivers.1 hf with rfl | rfl | rfl | rfl
      · exact hu.of_stored (rederive_follows u).stored
      · exact hu.of_stored (recomputeAll_follows u).stored
      · rw [beginRollCalls_eq]
        exact hu
      · exact optionChanges_keeps (P := fun v => MapGood v.sessions) (fun v hv => hv.of_stored (reevaluateSessions_follows v).stored)
          (fun v hv => hv.of_stored (recomputeAll_follows v).stored) (fun v hv => (judgeColdAll_segWork v).sessions ▸ hv) s.ps.options u hu
    exact hstored.sessions (deliverLoadEnd_current (fun hlead => hs.current.congr hsessions hclock hlead hspaces))
  · exact hs

theorem applyRestart_sessions (s : State) : SessionsGood (applyRestart s) := by
  obtain ⟨-, -, hparts⟩ := applyRestart_restarts s
  exact .none (hparts .sessions)

theorem endStage_sessions (stage : SaveStage) (passed : Bool) {s : State} (hs : SessionsGood s) : SessionsGood (endStage stage passed s) := by
  unfold endStage
  split
  · exact hs
  next v _ =>
    split_ifs
    · unfold passStage
      cases v.stage with
      | erase => exact hs.congr rfl rfl rfl rfl
      | body => exact hs.congr rfl rfl rfl rfl
      | header => exact hs.congr rfl rfl rfl rfl
    · exact hs.congr rfl rfl rfl rfl
    · exact hs

theorem flashTimesOut_sessions {s : State} (hs : SessionsGood s) : SessionsGood (flashTimesOut s) := by
  unfold flashTimesOut
  split
  · exact hs
  · exact hs.congr rfl rfl rfl rfl

theorem Does.sessionsGood {s t : State} (h : Does s t) (hc : ClockGood s.clock) (hs : SessionsGood s) : SessionsGood t := by
  cases h with
  | bus hb => exact hs.of_bus hb.busWork
  | owner hr => exact hr.sessionsGood hc hs
  | edit _ _ hr _ => exact (hr.sessionsGood hc hs).congr rfl rfl rfl rfl
  | restart => exact applyRestart_sessions s
  | reset cause pin => exact .none rfl
  | load answers => exact endLoadImage_sessions answers hs
  | tick =>
    have hticked := hs.tickClock
    unfold tickHold
    split_ifs
    · exact hticked.congr rfl rfl rfl rfl
    · exact hticked.congr rfl rfl rfl rfl
    · exact hticked
  | holdEnds => exact hs.congr rfl rfl rfl rfl
  | expire hmode _ => exact hs.of_shown rfl (by rw [expireClock_clock]; simp [Clock.shown, hmode]) rfl rfl
  | minute _ _ _ => exact hs.passMinute
  | scan contacts => exact hs.scanWalls contacts
  | stage stage passed => exact endStage_sessions stage passed hs
  | flashTimeout => exact flashTimesOut_sessions hs

/-- Settles O58: each part is kept by what does not touch the blocks and by every deed. -/
theorem everyStepKeepsTheBlocksGood : Obligations.EveryStepKeepsTheBlocksGood := by
  refine ⟨fun s t hs h => ?_, fun s t hs h => ?_, fun s t hs h => ?_⟩
  · exact step_keeps (P := BlocksGood) (fun _ _ hq => (BlocksKept.of_quiet hq).good) (fun _ _ hd => hd.blocksGood) h hs
  · exact step_keeps (P := SpacesGood) (fun _ _ hq => (BlocksKept.of_quiet hq).spaces) (fun _ _ hd => hd.spacesGood) h hs
  · refine (step_keeps (P := fun u => ClockGood u.clock ∧ SessionsGood u) (fun u v hq ⟨hc, hg⟩ => ?_) (fun u v hd ⟨hc, hg⟩ => ?_) h hs).2
    · exact ⟨hq.clock ▸ hc, hg.congr hq.sessions hq.clock (by rw [hq.ps]) (by rw [hq.lu])⟩
    · exact ⟨hd.clockGood hc, hd.sessionsGood hc hg⟩

end Sys2Proof.Machine
end

section
/-! PROOFS. What the deliveries of the blocks are made of: slots recomputed, cold flags judged, records marked for maintenance,
and changes beside the segments and the bindings. A predicate closed under these is kept by every delivery (spec: R17, R23,
R27, R38, R71, R121, R171, R189). -/

namespace Sys2Proof.Machine

/-- A change beside the segments, the slots and the faces: no pin is added, and the tables stay in order. -/
structure Aside (s t : State) : Prop where
  sc : t.sc = s.sc
  loading : t.ps.plan = .loading → s.ps.plan = .loading
  panels : t.ps.panels = s.ps.panels
  tables : TablesGood s → TablesGood t
  pins : ∀ n, (Table.get t.nu.pins n).isSome = true → (Table.get s.nu.pins n).isSome = true
  fewer : t.nu.pins.length ≤ s.nu.pins.length
  faces : t.fr.faces = s.fr.faces

namespace Aside

variable {s t u : State}

theorem trans (h : Aside s t) (h' : Aside t u) : Aside s u :=
  ⟨h'.sc.trans h.sc, h.loading ∘ h'.loading, h'.panels.trans h.panels, h'.tables ∘ h.tables, fun n hn => h.pins n (h'.pins n hn),
    h'.fewer.trans h.fewer, h'.faces.trans h.faces⟩

theorem of_blocks (hsc : t.sc = s.sc) (hps : t.ps.panels = s.ps.panels) (hloading : t.ps.plan = .loading → s.ps.plan = .loading)
    (hlu : t.lu.sections = s.lu.sections ∧ t.lu.walls = s.lu.walls ∧ t.lu.combos = s.lu.combos) (hsessions : t.sessions = s.sessions)
    (hnu : t.nu.notices = s.nu.notices ∧ t.nu.pins = s.nu.pins) (hfr : t.fr = s.fr) : Aside s t where
  sc := hsc
  loading := hloading
  panels := hps
  tables := by
    obtain ⟨hsections, hwalls, hcombos⟩ := hlu
    obtain ⟨hnotices, hpins⟩ := hnu
    unfold TablesGood
    rw [hsections, hwalls, hcombos, hsessions, hnotices, hpins, hps, hfr]
    exact id
  pins n hn := hnu.2 ▸ hn
  fewer := hnu.2 ▸ le_rfl
  faces := by rw [hfr]

theorem raise (f : Flag) (s : State) : Aside s (raise f s) := of_blocks rfl rfl id ⟨rfl, rfl, rfl⟩ rfl ⟨rfl, rfl⟩ rfl

theorem raiseIf (c : Bool) (f : Flag) (s : State) : Aside s (raiseIf c f s) := by
  unfold Machine.raiseIf
  split_ifs
  · exact raise f s
  · exact of_blocks rfl rfl id ⟨rfl, rfl, rfl⟩ rfl ⟨rfl, rfl⟩ rfl

theorem withSessions {sessions : Table Session} (h : Table.rising s.sessions = true → Table.rising sessions = true) :
    Aside s { s with sessions } :=
  ⟨rfl, id, rfl, fun ⟨h1, h2, h3, h4, hrest⟩ => ⟨h1, h2, h3, h h4, hrest⟩, fun _ => id, le_rfl, rfl⟩

theorem withLayout {lu : Layout} (hsections : Table.rising s.lu.sections = true → Table.rising lu.sections = true)
    (hwalls : Table.rising s.lu.walls = true → Table.rising lu.walls = true)
    (hcombos : Table.rising s.lu.combos = true → Table.rising lu.combos = true) : Aside s { s with lu } :=
  ⟨rfl, id, rfl, fun ⟨h1, h2, h3, hrest⟩ => ⟨hsections h1, hwalls h2, hcombos h3, hrest⟩, fun _ => id, le_rfl, rfl⟩

theorem withNotices {notices : Table Notice} (h : Table.rising s.nu.notices = true → Table.rising notices = true) :
    Aside s { s with nu := { s.nu with notices } } :=
  ⟨rfl, id, rfl, fun ⟨h1, h2, h3, h4, h5, hrest⟩ => ⟨h1, h2, h3, h4, h h5, hrest⟩, fun _ => id, le_rfl, rfl⟩

theorem withPages {pages : Table Nat} (h : Table.rising s.fr.pages = true → Table.rising pages = true) :
    Aside s { s with fr := { s.fr with pages } } :=
  ⟨rfl, id, rfl, fun ⟨h1, h2, h3, h4, h5, h6, h7, h8, h9⟩ => ⟨h1, h2, h3, h4, h5, h6, h7, h8, h h9⟩, fun _ => id, le_rfl, rfl⟩

theorem loseBinding (slot : Nat) (s : State) : Aside s (loseBinding slot s) where
  sc := rfl
  loading := id
  panels := rfl
  tables := fun ⟨h1, h2, h3, h4, h5, h6, hrest⟩ => ⟨h1, h2, h3, h4, h5, Table.rising_filter h6 _, hrest⟩
  pins n hn := by
    rw [Machine.loseBinding, Table.get_del] at hn
    split_ifs at hn
    · cases hn
    · exact hn
  fewer := List.length_filter_le _ _
  faces := rfl

theorem resetNotices (s : State) : Aside s { s with nu := NoticeUnit.atReset } where
  sc := rfl
  loading := id
  panels := rfl
  tables := fun ⟨h1, h2, h3, h4, _, _, hrest⟩ => ⟨h1, h2, h3, h4, rfl, rfl, hrest⟩
  pins _ hn := nomatch hn
  fewer := Nat.zero_le _
  faces := rfl

end Aside

/-- A predicate kept by what the deliveries are made of. -/
structure Deliveries (P : State → Prop) : Prop where
  aside : ∀ s t, Aside s t → P s → P t
  slot : ∀ n s, P s → P (recomputeSlot n s)
  cold : ∀ ix a s, P s → P (judgeColdAt ix a s)
  quiet : ∀ ix a s, P s → P (markMaintenance ix a s)

namespace Deliveries

variable {P : State → Prop} (h : Deliveries P) {s : State}

include h

theorem dropOrder (hs : P s) : P s.dropOrder := h.aside s _ (.of_blocks rfl rfl id ⟨rfl, rfl, rfl⟩ rfl ⟨rfl, rfl⟩ rfl) hs

theorem forEach {α : Type} {l : List α} {f : α → State → State} (hf : ∀ x ∈ l, ∀ s, P s → P (f x s)) (hs : P s) : P (forEach l f s) :=
  forEach_keeps P l f (fun _ hv => h.dropOrder hv) hf s hs

theorem deliver {l : List (State → State)} (hl : ∀ f ∈ l, ∀ s, P s → P (f s)) (hs : P s) : P (deliver l s) := h.forEach hl hs

theorem recomputeAll (hs : P s) : P (recomputeAll s) := h.forEach (fun n _ u hu => h.slot n u hu) hs

theorem recomputeZone (zone : Nat) (hs : P s) : P (recomputeZone zone s) := h.forEach (fun n _ u hu => h.slot n u hu) hs

theorem raiseIf (c : Bool) (f : Flag) (hs : P s) : P (raiseIf c f s) := h.aside s _ (.raiseIf c f s) hs

theorem updateSessions (hs : P s) : P (updateSessions s) := by
  refine h.raiseIf _ _ (h.aside s _ (.withSessions fun hr => ?_) hs)
  rw [rising_mapVals, rising_mapVals]
  exact hr

theorem reevaluateAll (changed : Bool) (hs : P s) : P (reevaluateAll changed s) := by
  unfold Machine.reevaluateAll
  split
  · exact h.recomputeAll (h.updateSessions hs)
  · exact h.updateSessions hs

theorem withoutEarlier (day : Nat) (hs : P s) : P (s.withoutEarlier day) := h.aside s _ (.withSessions fun hr => Table.rising_filter hr _) hs

theorem purge (day : Nat) (hs : P s) : P (purge day s) := by
  unfold Machine.purge
  split
  · exact h.recomputeAll (h.withoutEarlier day hs)
  · exact h.withoutEarlier day hs

theorem sessionsClockChange (mark : Bool) (hs : P s) : P (sessionsClockChange mark s) := by
  unfold Machine.sessionsClockChange
  split
  · exact h.reevaluateAll _ (h.withoutEarlier _ hs)
  · exact h.reevaluateAll false hs

theorem expireNotices (day minute : Nat) (hs : P s) : P (expireNotices day minute s) := by
  unfold Machine.expireNotices
  simp only
  split_ifs
  · exact hs
  · exact h.forEach (fun zone _ u hu => h.recomputeZone zone hu)
      (h.aside _ _ (.raise .expire _) (h.aside s _ (.withNotices fun hr => Table.rising_filter hr _) hs))

theorem clockChange (mark : Bool) (hs : P s) : P (clockChange mark s) := by
  rw [clockChange_eq]
  refine h.deliver (fun f hf u hu => ?_) hs
  rcases mem_clockReceivers.1 hf with rfl | rfl | rfl
  · exact h.sessionsClockChange mark hu
  · exact h.expireNotices _ _ hu
  · exact h.recomputeAll hu

theorem resolverMinute (minute : Nat) (hs : P s) : P (resolverMinute minute s) := by
  refine h.recomputeAll ?_
  unfold carouselStep
  split_ifs
  · refine h.aside s _ (.withPages fun hr => ?_) hs
    rw [rising_iff_keys] at hr ⊢
    have hkeys : Table.keys (s.fr.pages.map (fun e => (e.1, stepPage s.fr.faces e.1 e.2))) = Table.keys s.fr.pages := by
      simp only [Table.keys, List.map_map, Function.comp_def]
    rw [hkeys]
    exact hr
  · exact hs

theorem quietMinute (minute : Nat) (ix : SegIx) (hs : P s) : P (quietMinute minute ix s) := by
  unfold Machine.quietMinute
  split_ifs
  · exact h.forEach (fun a _ u hu => h.quiet ix a u hu) hs
  · exact hs

theorem turnover (day minute : Nat) (dayToo : Bool) (hs : P s) : P (turnover day minute dayToo s) := by
  rw [turnover_eq]
  refine h.deliver (fun f hf u hu => ?_) (h.raiseIf dayToo .clock hs)
  rcases mem_minuteReceivers.1 hf with rfl | rfl | rfl | ⟨ix, rfl⟩ | ⟨-, rfl⟩
  · exact h.recomputeAll (h.updateSessions hu)
  · exact h.expireNotices day minute hu
  · exact h.resolverMinute minute hu
  · exact h.quietMinute minute ix hu
  · exact h.purge day hu

theorem withClock (clock : Clock) (hs : P s) : P { s with clock } := h.aside s _ (.of_blocks rfl rfl id ⟨rfl, rfl, rfl⟩ rfl ⟨rfl, rfl⟩ rfl) hs

theorem expireClock (hs : P s) : P (expireClock s) := h.aside _ _ (.raise .clock _) (h.withClock _ hs)

theorem passMinute (hs : P s) : P (passMinute s) := by
  unfold Machine.passMinute
  split_ifs
  · exact h.turnover _ _ _ (h.withClock _ hs)
  · exact h.turnover _ _ _ (h.withClock _ hs)

theorem tickClock (hs : P s) : P (tickClock s) := by
  rcases tickClock_cases s with heq | ⟨-, -, heq⟩ | ⟨-, -, -, heq⟩ | ⟨-, -, heq⟩
  · rw [heq]
    exact hs
  · rw [heq]
    exact h.expireClock hs
  · rw [heq]
    exact h.passMinute hs
  · rw [heq]
    exact h.withClock _ hs

theorem moveBack (k : Nat) (hs : P s) : P (moveBack k s) := by
  unfold Machine.moveBack
  simp only
  split_ifs
  · exact h.withClock _ hs
  · exact h.clockChange false (h.withClock _ hs)

theorem withHold (held : Bool) (timer : Nat) (hs : P s) : P { s with nu := { s.nu with held, timer } } :=
  h.aside s _ (.of_blocks rfl rfl id ⟨rfl, rfl, rfl⟩ rfl ⟨rfl, rfl⟩ rfl) hs

theorem holdRunsOut (hs : P s) : P (holdRunsOut s) := h.aside _ _ (.raise .hold _) (h.withHold false 0 hs)

theorem tickHold (hs : P s) : P (tickHold s) := by
  unfold Machine.tickHold
  split_ifs
  · exact h.holdRunsOut hs
  · exact h.withHold s.nu.held _ hs
  · exact hs

theorem reevaluateOne (changed : Bool) (n : Nat) (x : Session) (hs : P s) : P (reevaluateOne changed n x s) := by
  have hput : P (Machine.raiseIf (s.evalSession x).warns .layout
      { s with sessions := Table.put s.sessions n (s.evalSession x).judgeWarning }) :=
    h.raiseIf _ _ (h.aside s _ (.withSessions fun hr => Table.rising_put hr _ _) hs)
  unfold Machine.reevaluateOne
  simp only
  split
  · exact h.recomputeAll hput
  · exact hput

theorem rederive (hs : P s) : P (rederive s) := by
  rw [rederive_eq]
  split_ifs
  · exact hs
  · refine h.deliver (fun f hf u hu => ?_) (h.aside s _ (.withLayout id id id) hs)
    rcases mem_spaceReceivers.1 hf with rfl | rfl
    · exact h.reevaluateAll false hu
    · exact h.recomputeAll hu

theorem putWall (i : Nat) (w w' : Wall) (hs : P s) : P (putWall i w w' s) := by
  have hput : P { s with lu := { s.lu with walls := Table.put s.lu.walls i w' } } :=
    h.aside s _ (.withLayout id (fun hr => Table.rising_put hr _ _) id) hs
  unfold Machine.putWall
  simp only
  split_ifs
  · exact hput
  · exact h.rederive hput

theorem scanWalls (contacts : BitVec 96) (hs : P s) : P (scanWalls contacts s) := by
  unfold Machine.scanWalls
  split_ifs
  · exact hs
  · refine foldl_keeps (P := P) (fun i _ u hu => ?_) hs
    unfold sampleWall
    split
    · exact hu
    · exact h.putWall _ _ _ (h.raiseIf _ _ hu)

theorem judgeColdAll (hs : P s) : P (judgeColdAll s) :=
  h.forEach (fun ix _ _ hu => h.forEach (fun a _ v hv => h.cold ix a v hv) hu) hs

theorem optionChanged (n : Nat) (hs : P s) : P (optionChanged n s) :=
  optionChanged_keeps (fun _ hv => h.reevaluateAll false hv) (fun _ hv => h.recomputeAll hv) (fun _ hv => h.judgeColdAll hv) n s hs

theorem optionChanges (before : Options) (hs : P s) : P (optionChanges before s) :=
  optionChanges_keeps (fun _ hv => h.reevaluateAll false hv) (fun _ hv => h.recomputeAll hv) (fun _ hv => h.judgeColdAll hv) before s hs

theorem applyOption (n : Nat) (o : Options) (hs : P s) : P (applyOption n o s) := by
  unfold Machine.applyOption
  split_ifs
  · exact hs
  · exact h.optionChanged n (h.aside s _ (.of_blocks rfl rfl id ⟨rfl, rfl, rfl⟩ rfl ⟨rfl, rfl⟩ rfl) hs)

theorem restartBlock (p : RestartPart) (hs : P s) : P (restartBlock p s) := by
  cases p with
  | layout => exact h.rederive (h.aside s _ (.withLayout (fun hr => by rw [rising_mapVals]; exact hr) id id) hs)
  | clock => exact h.clockChange false (h.withClock _ hs)
  | sessions => exact h.recomputeAll (h.aside s _ (.withSessions fun _ => rfl) hs)
  | text => exact h.recomputeAll (h.aside s _ (.of_blocks rfl rfl id ⟨rfl, rfl, rfl⟩ rfl ⟨rfl, rfl⟩ rfl) hs)
  | notices =>
    refine h.deliver (fun f hf u hu => ?_) (h.aside s _ (.resetNotices s) hs)
    rcases List.mem_append.1 hf with hf | hf
    · obtain ⟨zone, -, rfl⟩ := List.mem_map.1 hf
      exact h.recomputeZone zone hu
    · obtain ⟨slot, -, rfl⟩ := List.mem_map.1 hf
      exact h.slot slot u hu
  | resolver => exact h.recomputeAll (h.aside s _ (.withPages fun hr => by rw [rising_mapVals]; exact hr) hs)

theorem applyRestart (hs : P s) : P (applyRestart s) := by
  have hlink : P (restartLink s) := h.aside s _ (.of_blocks rfl rfl id ⟨rfl, rfl, rfl⟩ rfl ⟨rfl, rfl⟩ rfl) hs
  exact foldl_keeps (P := P) (fun p _ _ hu => h.restartBlock p hu) (h.dropOrder (h.dropOrder hlink))

theorem withPlan {ps : PlanStore} (hpanels : ps.panels = s.ps.panels) (hloading : ps.plan = .loading → s.ps.plan = .loading) (hs : P s) :
    P { s with ps } := h.aside s _ (.of_blocks rfl hpanels hloading ⟨rfl, rfl, rfl⟩ rfl ⟨rfl, rfl⟩ rfl) hs

theorem failSave (v : Save) (hs : P s) : P (failSave v s) := by
  refine h.aside _ _ (.raise .save _) ?_
  exact h.withPlan rfl nofun hs

theorem endStage (stage : SaveStage) (passed : Bool) (hs : P s) : P (endStage stage passed s) := by
  unfold Machine.endStage
  split
  · exact hs
  next v _ =>
    split_ifs
    · unfold passStage
      cases v.stage with
      | erase => exact h.withPlan rfl id hs
      | body => exact h.withPlan rfl id hs
      | header =>
        refine h.aside _ _ (.raise .save _) ?_
        exact h.withPlan rfl nofun hs
    · exact h.failSave v hs
    · exact hs

theorem flashTimesOut (hs : P s) : P (flashTimesOut s) := by
  unfold Machine.flashTimesOut
  split
  · exact hs
  · exact h.failSave _ hs

end Deliveries

end Sys2Proof.Machine
end

section
/-! PROOFS. Tables in order, distinct addresses, bindings to slots of the same serial: kept by every deed (spec: R97, R100,
R110–R116). -/

namespace Sys2Proof.Machine

/-! ## Through the deliveries -/

theorem Aside.records {s t : State} (h : Aside s t) (hs : RecordsGood s) : RecordsGood t :=
  recordsGood_of_named (fun ix => by rw [State.seg, State.seg, h.sc]) hs

theorem Aside.bindings {s t : State} (h : Aside s t) (hs : RecordsGood s) (hg : BindingsGood s) : BindingsGood t := by
  have hnamed (ix : SegIx) : (t.seg ix).named = (s.seg ix).named := by rw [State.seg, State.seg, h.sc]
  rw [bindingsGood_iff hs] at hg
  obtain ⟨hserials, hbound, hcount, hpinned, hfaced⟩ := hg
  rw [bindingsGood_iff (h.records hs), h.panels, h.faces]
  exact ⟨hserials, fun ix a serial c n hname => hbound ix a serial c n (by rw [← nameAt_of_named hnamed]; exact hname),
    h.fewer.trans hcount, fun n hn => (holds_of_named hnamed).2 (hpinned n (h.pins n hn)), fun n hn => (holds_of_named hnamed).2 (hfaced n hn)⟩

theorem judgeColdAt_segWork (ix : SegIx) (a : Nat) (s : State) : SegWork s (judgeColdAt ix a s) :=
  .of_records (f := Rec.unjudged) (fun _ => rfl) (judgeColdAt_records ix a s)

theorem markMaintenance_segWork (ix : SegIx) (a : Nat) (s : State) : SegWork s (markMaintenance ix a s) :=
  .of_records (f := Rec.unmarked) (fun _ => rfl) (markMaintenance_work ix a s)

theorem SegWork.tables {s t : State} (h : SegWork s t) (hs : TablesGood s) : TablesGood t := hs.of_bus (.of_seg h) (fun hb => hb.of_seg h)

theorem SegWork.records {s t : State} (h : SegWork s t) (hs : RecordsGood s) : RecordsGood t := recordsGood_of_named h.named hs

theorem deliveries_tables : Deliveries (fun s => TablesGood s ∧ RecordsGood s) where
  aside _ _ h hs := ⟨h.tables hs.1, h.records hs.2⟩
  slot n s hs := ⟨hs.1.of_bus (.recomputeSlot n s) (fun hb => hb.recomputeSlot n), recordsGood_of_named (recomputeSlot_named n s) hs.2⟩
  cold ix a s hs := ⟨(judgeColdAt_segWork ix a s).tables hs.1, (judgeColdAt_segWork ix a s).records hs.2⟩
  quiet ix a s hs := ⟨(markMaintenance_segWork ix a s).tables hs.1, (markMaintenance_segWork ix a s).records hs.2⟩

theorem deliveries_bindings : Deliveries (fun s => RecordsGood s ∧ BindingsGood s) where
  aside _ _ h hs := ⟨h.records hs.1, h.bindings hs.1 hs.2⟩
  slot n s hs := ⟨recordsGood_of_named (recomputeSlot_named n s) hs.1, hs.2.recomputeSlot hs.1 n⟩
  cold ix a s hs := ⟨(judgeColdAt_segWork ix a s).records hs.1, hs.2.of_seg hs.1 (judgeColdAt_segWork ix a s)⟩
  quiet ix a s hs := ⟨(markMaintenance_segWork ix a s).records hs.1, hs.2.of_seg hs.1 (markMaintenance_segWork ix a s)⟩

/-! ## A holder made a stray -/

section Stray

variable {s : State} {ix : SegIx} {a slot : Nat} {x : Rec} (hx : s.rec? ix a = some x) (hb : x.binding = some slot)
include hx hb

theorem makeStray_named (jx : SegIx) : ((makeStray ix a s).seg jx).named = ((s.putRec ix a { x with binding := none }).seg jx).named := by
  rw [makeStray_eq hx hb, (wantedFaceChange_segWork ix a blankDigest .blank _).named jx]
  unfold State.seg
  rw [loseBinding, resolverLoses_eq]
  rfl

theorem makeStray_records (hs : RecordsGood s) : RecordsGood (makeStray ix a s) :=
  recordsGood_of_named (makeStray_named hx hb) (hs.putBound (fun _ _ _ hn => nomatch hn))

theorem makeStray_pins : (makeStray ix a s).nu.pins = Table.del s.nu.pins slot := by
  rw [makeStray_eq hx hb, (wantedFaceChange_segWork ix a blankDigest .blank _).nu, loseBinding, resolverLoses_eq]
  rfl

theorem makeStray_tables (hs : TablesGood s) : TablesGood (makeStray ix a s) := by
  refine hs.of_bus (.makeStray ix a s) (fun ht => ?_)
  rw [makeStray_eq hx hb]
  have hlost : BusTables (raise .stray (s.putRec ix a { x with binding := none })) := ht
  exact ((hlost.resolverLoses slot).loseBinding slot).of_seg (wantedFaceChange_segWork ix a blankDigest .blank _)

end Stray

/-- The laws of the bindings, one slot's records aside. -/
def BindingsExcept (slot : Nat) (s : State) : Prop :=
  (∀ n m p q, Table.get s.ps.panels n = some p → Table.get s.ps.panels m = some q → p.serial = q.serial → n = m)
    ∧ (∀ ix a serial c n, s.nameAt ix a = some (serial, c, some n) → n ≠ slot → ∃ p, Table.get s.ps.panels n = some p ∧ p.serial = serial)
    ∧ s.nu.pins.length ≤ 16 ∧ (∀ n, (Table.get s.nu.pins n).isSome = true → s.holds n)
    ∧ ∀ n, (Table.get s.fr.faces n).isSome = true → s.holds n

theorem Aside.bindingsExcept {slot : Nat} {s t : State} (h : Aside s t) (hg : BindingsExcept slot s) : BindingsExcept slot t := by
  have hnamed (ix : SegIx) : (t.seg ix).named = (s.seg ix).named := by rw [State.seg, State.seg, h.sc]
  obtain ⟨hserials, hbound, hcount, hpinned, hfaced⟩ := hg
  unfold BindingsExcept
  rw [h.panels, h.faces]
  exact ⟨hserials, fun ix a serial c n hname => hbound ix a serial c n (by rw [← nameAt_of_named hnamed]; exact hname),
    h.fewer.trans hcount, fun n hn => (holds_of_named hnamed).2 (hpinned n (h.pins n hn)), fun n hn => (holds_of_named hnamed).2 (hfaced n hn)⟩

theorem bindingAt_of_rec {s : State} {ix : SegIx} {a : Nat} {x : Rec} (hx : s.rec? ix a = some x) : s.bindingAt ix a = some x.binding := by
  rw [State.bindingAt, hx]
  rfl

theorem not_holds_of_unheld {s : State} (hs : RecordsGood s) {slot : Nat} (h : s.holder slot = none) : ¬ s.holds slot := fun hh => by
  have := (holder_isSome_iff s hs slot).2 hh
  rw [h] at this
  cases this

theorem strayHolder_standing {s : State} (hs : RecordsGood s) (slot : Nat) :
    RecordsGood (strayHolder slot s) ∧ (strayHolder slot s).holder slot = none ∧ (TablesGood s → TablesGood (strayHolder slot s)) := by
  unfold strayHolder
  cases hh : s.holder slot with
  | none => exact ⟨hs, hh, id⟩
  | some h =>
    obtain ⟨hx, hb⟩ := rec_of_holder hs hh
    have ht := makeStray_records hx hb hs
    refine ⟨ht, ?_, makeStray_tables hx hb⟩
    by_contra hheld
    obtain ⟨jx, b, hjb⟩ := (holder_isSome_iff _ ht slot).1 (Option.isSome_iff_ne_none.2 hheld)
    rw [makeStray_bindingAt hx hb] at hjb
    split_ifs at hjb with hat
    · cases hjb
    · exact hat (((recordsGood_iff s).1 hs).2 jx b h.seg h.address slot hjb (by rw [bindingAt_of_rec hx, hb]))

theorem strayHolder_bindings {s : State} (hs : RecordsGood s) {slot : Nat} (h : BindingsExcept slot s) :
    BindingsGood (strayHolder slot s) := by
  obtain ⟨ht, -, -⟩ := strayHolder_standing hs slot
  rw [bindingsGood_iff ht]
  unfold strayHolder at ht ⊢
  obtain ⟨hserials, hbound, hcount, hpinned, hfaced⟩ := h
  cases hh : s.holder slot with
  | none =>
    refine ⟨hserials, fun ix a serial c n hname => hbound ix a serial c n hname ?_, hcount, hpinned, hfaced⟩
    rintro rfl
    exact not_holds_of_unheld hs hh ⟨ix, a, by rw [bindingAt_eq, hname]; rfl⟩
  | some h =>
    obtain ⟨hx, hb⟩ := rec_of_holder hs hh
    have hnamed := makeStray_named hx hb
    have hholds {n : Nat} (hne : n ≠ slot) (hn : s.holds n) : (makeStray h.seg h.address s).holds n := by
      obtain ⟨jx, b, hjb⟩ := hn
      refine ⟨jx, b, ?_⟩
      rw [makeStray_bindingAt hx hb, if_neg]
      · exact hjb
      · rintro ⟨rfl, rfl⟩
        rw [bindingAt_of_rec hx, hb] at hjb
        exact hne (Option.some.inj (Option.some.inj hjb)).symm
    simp only
    rw [makeStray_ps, makeStray_pins hx hb, makeStray_fr hx hb, resolverLoses_faces]
    refine ⟨hserials, fun jx b serial c n hname => ?_, (List.length_filter_le _ _).trans hcount, fun n hn => ?_, fun n hn => ?_⟩
    · rw [nameAt_of_named hnamed, nameAt_putRec] at hname
      split_ifs at hname with hat
      · cases hname
      · refine hbound jx b serial c n hname ?_
        rintro rfl
        exact hat (((recordsGood_iff s).1 hs).2 jx b h.seg h.address n (by rw [bindingAt_eq, hname]; rfl) (by rw [bindingAt_of_rec hx, hb]))
    · rw [Table.get_del] at hn
      split_ifs at hn with hne
      · cases hn
      · exact hholds hne (hpinned n hn)
    · rw [Table.get_del] at hn
      split_ifs at hn with hne
      · cases hn
      · exact hholds hne (hfaced n hn)

/-! ## A slot defined or removed -/

theorem bindSlot_steps {vacant : Prop} {s : State} (hs : RecordsGood s) {slot : Nat} {serial : Serial} {p : PanelSlot} (hfree : s.holder slot = none)
    (hp : Table.get s.ps.panels slot = some p) (hserial : p.serial = serial) : BusSteps vacant s (bindSlot slot serial s) := by
  unfold bindSlot
  cases hc : s.carriers serial with
  | nil => exact .refl
  | cons q others =>
    have hq : q ∈ s.carriers serial := by rw [hc]; exact List.mem_cons_self
    obtain ⟨hall, hcarries⟩ := List.mem_filter.1 hq
    have hx := rec_of_mem hs hall
    have hraise : SegWork s (raiseIf (!others.isEmpty) .panel s) := .raiseIf _ .panel s
    have hsc : (raiseIf (!others.isEmpty) .panel s).sc = s.sc := by
      unfold raiseIf
      split_ifs <;> rfl
    refine (SegWork.steps hraise).tail (.bind (x := q.rec_) (p := p) ?_ ?_ ?_ ?_)
    · rw [rec_of_sc hsc]
      exact hx
    · rw [holder_of_sc hsc]
      exact hfree
    · rw [hraise.ps]
      exact mem_of_get hp
    · exact hserial.trans (of_decide_eq_true hcarries).symm

theorem setPages_aside (slot : Nat) (role : Role) (s : State) : Aside s (setPages slot role s) := by
  unfold setPages
  split
  · exact .withPages (fun hr => Table.rising_put hr _ _)
  · exact .withPages (fun hr => Table.rising_filter hr _)

theorem discardPages_aside (slot : Nat) (s : State) : Aside s (discardPages slot s) := .withPages (fun hr => Table.rising_filter hr _)

theorem workBinding_steps {vacant : Prop} {s : State} (hs : RecordsGood s) {slot : Nat} {before : Option Serial} {serial : Serial} {p : PanelSlot}
    (hp : Table.get s.ps.panels slot = some p) (hserial : p.serial = serial) :
    workBinding slot before serial s = recomputeSlot slot s ∧ (s.holder slot).isSome = true ∧ before = some serial
      ∨ ¬ ((s.holder slot).isSome = true ∧ before = some serial) ∧ BusSteps vacant (strayHolder slot s) (workBinding slot before serial s) := by
  rw [workBinding_eq]
  split_ifs with h
  · exact .inl ⟨rfl, h⟩
  · obtain ⟨hrecords, hfree, -⟩ := strayHolder_standing hs slot
    exact .inr ⟨h, bindSlot_steps hrecords hfree (by rw [strayHolder_ps]; exact hp) hserial⟩

section Define

variable {s : State} {n : Nat} {p : PanelSlot} (hother : s.ps.panels.any (fun e => e.1 ≠ n && e.2.serial = p.serial) = false)

theorem withPanel_tables (hs : TablesGood s) {panels : Table PanelSlot} (h : Table.rising s.ps.panels = true → Table.rising panels = true) :
    TablesGood { s with ps := { s.ps with panels } } := by
  obtain ⟨h1, h2, h3, h4, h5, h6, h7, hrest⟩ := hs
  exact ⟨h1, h2, h3, h4, h5, h6, h h7, hrest⟩

theorem definePanel_tables (hs : TablesGood s ∧ RecordsGood s) :
    let t := workBinding n ((Table.get s.ps.panels n).map (·.serial)) p.serial
      (setPages n p.role { s with ps := { s.ps with panels := Table.put s.ps.panels n p } })
    TablesGood t ∧ RecordsGood t := by
  obtain ⟨htables, hrecords⟩ := hs
  have hset := setPages_aside n p.role { s with ps := { s.ps with panels := Table.put s.ps.panels n p } }
  have hset_tables := hset.tables (withPanel_tables htables (fun hr => Table.rising_put hr _ _))
  have hset_records : RecordsGood (setPages n p.role { s with ps := { s.ps with panels := Table.put s.ps.panels n p } }) := hset.records hrecords
  have hp : Table.get (setPages n p.role { s with ps := { s.ps with panels := Table.put s.ps.panels n p } }).ps.panels n = some p := by
    rw [hset.panels]
    exact Table.get_put_same _ _ _
  rcases workBinding_steps (vacant := True) (before := (Table.get s.ps.panels n).map (·.serial)) hset_records hp rfl with ⟨heq, -⟩ | ⟨-, hsteps⟩
  · rw [heq]
    exact deliveries_tables.slot n _ ⟨hset_tables, hset_records⟩
  · obtain ⟨hstray_records, -, hstray_tables⟩ := strayHolder_standing hset_records n
    exact ⟨hsteps.tables (hstray_tables hset_tables), hsteps.records hstray_records⟩

theorem removePanel_tables (n : Nat) (hs : TablesGood s ∧ RecordsGood s) :
    let t := discardPages n (strayHolder n { s with ps := { s.ps with panels := Table.del s.ps.panels n } })
    TablesGood t ∧ RecordsGood t := by
  obtain ⟨htables, hrecords⟩ := hs
  have hremoved := withPanel_tables htables (panels := Table.del s.ps.panels n) (fun hr => Table.rising_filter hr _)
  obtain ⟨hstray_records, -, hstray_tables⟩ :=
    strayHolder_standing (s := { s with ps := { s.ps with panels := Table.del s.ps.panels n } }) hrecords n
  have haside := discardPages_aside n (strayHolder n { s with ps := { s.ps with panels := Table.del s.ps.panels n } })
  exact ⟨haside.tables (hstray_tables hremoved), haside.records hstray_records⟩

/-- A change of one slot of PS leaves the laws of the other bindings. -/
theorem withPanel_bindings (hs : RecordsGood s) (hg : BindingsGood s) {panels : Table PanelSlot}
    (hsame : ∀ m, m ≠ n → Table.get panels m = Table.get s.ps.panels m)
    (hserials : ∀ m q r, m ≠ n → Table.get panels m = some q → Table.get panels n = some r → q.serial ≠ r.serial) :
    BindingsExcept n { s with ps := { s.ps with panels } } := by
  rw [bindingsGood_iff hs] at hg
  obtain ⟨hdistinct, hbound, hcount, hpinned, hfaced⟩ := hg
  refine ⟨fun m k q r hq hr heq => ?_, fun ix a serial c m hname hne => ?_, hcount, hpinned, hfaced⟩
  · by_cases hm : m = n
    · by_cases hk : k = n
      · exact hm.trans hk.symm
      · exact absurd heq.symm (hserials k r q hk hr (hm ▸ hq))
    · by_cases hk : k = n
      · exact absurd heq (hserials m q r hm hq (hk ▸ hr))
      · refine hdistinct m k q r ?_ ?_ heq
        · rw [← hsame m hm]
          exact hq
        · rw [← hsame k hk]
          exact hr
  · simp only [hsame m hne]
    exact hbound ix a serial c m hname

include hother in
theorem definePanel_bindings (htables : TablesGood s) (hs : RecordsGood s) (hg : BindingsGood s) :
    BindingsGood (workBinding n ((Table.get s.ps.panels n).map (·.serial)) p.serial
      (setPages n p.role { s with ps := { s.ps with panels := Table.put s.ps.panels n p } })) := by
  have hset := setPages_aside n p.role { s with ps := { s.ps with panels := Table.put s.ps.panels n p } }
  have hset_tables := hset.tables (withPanel_tables htables (fun hr => Table.rising_put hr _ _))
  have hset_records : RecordsGood (setPages n p.role { s with ps := { s.ps with panels := Table.put s.ps.panels n p } }) := hset.records hs
  have hexcept : BindingsExcept n { s with ps := { s.ps with panels := Table.put s.ps.panels n p } } := by
    refine withPanel_bindings hs hg (fun m hm => Table.get_put_other _ _ hm) (fun m q r hm hq hr heq => ?_)
    rw [Table.get_put_other _ _ hm] at hq
    rw [Table.get_put_same] at hr
    cases hr
    have hnone := List.any_eq_false.1 hother (m, q) (mem_of_get hq)
    simp [hm, heq] at hnone
  have hp : Table.get (setPages n p.role { s with ps := { s.ps with panels := Table.put s.ps.panels n p } }).ps.panels n = some p := by
    rw [hset.panels]
    exact Table.get_put_same _ _ _
  have hset_except := hset.bindingsExcept hexcept
  rcases workBinding_steps (vacant := True) (before := (Table.get s.ps.panels n).map (·.serial)) hset_records hp rfl with ⟨heq, -, hkept⟩ | ⟨-, hsteps⟩
  · rw [heq]
    refine BindingsGood.recomputeSlot ?_ hset_records n
    rw [bindingsGood_iff hset_records]
    obtain ⟨hserials, hbound, hrest⟩ := hset_except
    refine ⟨hserials, fun ix a serial c m hname => ?_, hrest⟩
    by_cases hm : m = n
    · subst hm
      have hnamed (jx : SegIx) : ((setPages m p.role { s with ps := { s.ps with panels := Table.put s.ps.panels m p } }).seg jx).named = (s.seg jx).named := by
        rw [State.seg, hset.sc]
        rfl
      rw [nameAt_of_named hnamed] at hname
      obtain ⟨q, hq, hqs⟩ := ((bindingsGood_iff hs).1 hg).2.1 ix a serial c m hname
      rw [hq, Option.map_some, Option.some.injEq] at hkept
      exact ⟨p, hp, hkept.symm.trans hqs⟩
    · exact hbound ix a serial c m hname hm
  · obtain ⟨hstray_records, -, hstray_tables⟩ := strayHolder_standing hset_records n
    exact hsteps.bindings trivial (hstray_tables hset_tables) hstray_records (strayHolder_bindings hset_records hset_except)

theorem removePanel_bindings (n : Nat) (hs : RecordsGood s) (hg : BindingsGood s) :
    BindingsGood (discardPages n (strayHolder n { s with ps := { s.ps with panels := Table.del s.ps.panels n } })) := by
  have hexcept : BindingsExcept n { s with ps := { s.ps with panels := Table.del s.ps.panels n } } := by
    refine withPanel_bindings hs hg (fun m hm => Table.get_del_other _ hm) (fun m q r _ _ hr _ => ?_)
    rw [Table.get_del_same] at hr
    cases hr
  obtain ⟨hstray_records, -, -⟩ :=
    strayHolder_standing (s := { s with ps := { s.ps with panels := Table.del s.ps.panels n } }) hs n
  exact (discardPages_aside n _).bindings hstray_records
    (strayHolder_bindings (s := { s with ps := { s.ps with panels := Table.del s.ps.panels n } }) hs hexcept)

end Define

end Sys2Proof.Machine
end

section
/-! PROOFS. Every deed keeps the tables in order and the bindings good (spec: R97–R100, R110–R116, R193–R195). -/

namespace Sys2Proof.Machine

/-! ## The tables of an image -/

theorem rising_toTable {α : Type} (l : List (Nat × α)) : Table.rising (toTable l) = true := by
  have hfold (t : Table α) (ht : Table.rising t = true) : Table.rising (l.foldl (fun t e => Table.put t e.1 e.2) t) = true := by
    induction l generalizing t with
    | nil => exact ht
    | cons e l ih => exact ih _ (Table.rising_put ht _ _)
  exact hfold [] rfl

theorem mem_toTable {α : Type} {l : List (Nat × α)} {e : Nat × α} (h : e ∈ toTable l) : e ∈ l := by
  have hfold (l' : List (Nat × α)) (hl : l' ⊆ l) (t : Table α) (ht : t ⊆ l) : l'.foldl (fun t e => Table.put t e.1 e.2) t ⊆ l := by
    induction l' generalizing t with
    | nil => exact ht
    | cons x l' ih =>
      obtain ⟨hx, hl⟩ := List.cons_subset.1 hl
      refine ih hl _ (fun y hy => ?_)
      rcases Table.mem_put hy with rfl | hy
      · exact hx
      · exact ht hy
  exact hfold l (fun _ => id) [] (List.nil_subset _) h

theorem nodup_of_serialsDistinct {l : List Serial} (h : serialsDistinct l = true) : l.Nodup := by
  induction l with
  | nil => exact List.nodup_nil
  | cons x l ih =>
    rw [serialsDistinct, Bool.and_eq_true, Bool.not_eq_true'] at h
    exact List.nodup_cons.2 ⟨fun hx => by simp [hx] at h, ih h.2⟩

/-- What the checks of R194 leave of the tables: numbers rising, and no serial in two slots. -/
structure ImageOrdered (i : Image) : Prop where
  sections : Table.rising i.sections = true
  walls : Table.rising i.walls = true
  combos : Table.rising i.combos = true
  panels : Table.rising i.panels = true
  serials : ∀ n m p q, Table.get i.panels n = some p → Table.get i.panels m = some q → p.serial = q.serial → n = m

theorem readBlocks_ordered {b1 b2 b3 b4 b5 b6 : List Byte} {i : Image} (h : readBlocks b1 b2 b3 b4 b5 b6 = some i) : ImageOrdered i := by
  unfold readBlocks at h
  split at h
  next secs walls combos panels options _ _ _ _ _ =>
    simp only at h
    split_ifs at h with hgood
    cases h
    refine ⟨rising_toTable _, rising_toTable _, rising_toTable _, rising_toTable _, fun n m p q hp hq heq => ?_⟩
    simp only [Bool.and_eq_true] at hgood
    obtain ⟨⟨-, hpanels⟩, -⟩ := hgood
    unfold panelsGood at hpanels
    rw [Bool.and_eq_true] at hpanels
    have hpair := List.inj_on_of_nodup_map (nodup_of_serialsDistinct hpanels.2) (mem_toTable (mem_of_get hp)) (mem_toTable (mem_of_get hq)) heq
    exact congrArg Prod.fst hpair
  · cases h

theorem readImage_ordered {f : Flash} {revision : Nat} {i : Image} (h : readImage f = some (revision, i)) : ImageOrdered i := by
  unfold readImage at h
  split at h
  · simp only at h
    split_ifs at h
    obtain ⟨i', hbody, hpair⟩ := Option.map_eq_some_iff.1 h
    cases hpair
    unfold readBody at hbody
    split at hbody
    · exact readBlocks_ordered hbody
    · cases hbody
  · cases h

theorem rising_freshPages {panels : Table PanelSlot} (h : Table.rising panels = true) : Table.rising (freshPages panels) = true := by
  rw [Table.rising_iff] at h ⊢
  refine List.Pairwise.filterMap _ (fun x y hxy x' hx y' hy => ?_) h
  have hkey {e : Nat × PanelSlot} {e' : Nat × Nat}
      (he : (match e.2.role with
        | .directory _ _ _ => some (e.1, 0)
        | .door _ => none) = some e') : e'.1 = e.1 := by
    split at he
    · cases he
      rfl
    · cases he
  rw [hkey hx, hkey hy]
  exact hxy

theorem placed_cases (answers : Bool) (s : State) : placed answers s = placeNothing s
    ∨ ∃ revision i, placed answers s = placeImage revision i s ∧ readImage s.ps.flash = some (revision, i) := by
  by_cases hgood : answers = false ∨ s.ps.flash.torn = true ∨ readImage s.ps.flash = none
  · exact .inl (placed_nothing hgood)
  · rw [not_or, not_or, Bool.not_eq_false, Bool.not_eq_true] at hgood
    obtain ⟨hanswers, htorn, hread⟩ := hgood
    obtain ⟨⟨revision, i⟩, hread⟩ := Option.ne_none_iff_exists'.1 hread
    exact .inr ⟨revision, i, placed_image hanswers htorn hread, hread⟩

theorem placed_tables (answers : Bool) {s : State} (hs : TablesGood s) : TablesGood (placed answers s) := by
  rcases placed_cases answers s with heq | ⟨revision, i, heq, hread⟩
  · rw [heq]
    exact hs
  · rw [heq]
    obtain ⟨hsections, hwalls, hcombos, hpanels, -⟩ := readImage_ordered hread
    obtain ⟨-, -, -, hsessions, hnotices, hpins, -, hfaces, -⟩ := hs
    refine ⟨?_, ?_, hcombos, hsessions, hnotices, hpins, hpanels, hfaces,
      rising_freshPages hpanels⟩
    · simpa only [placeImage, rising_mapVals] using hsections
    · simpa only [placeImage, rising_mapVals] using hwalls

/-- No record stands while the plan is LOADING, so a plan put in place binds none (R129). -/
theorem placed_bindings (answers : Bool) {s : State} (hs : RecordsGood s) (hg : BindingsGood s) (hempty : ∀ ix a, s.rec? ix a = none) :
    BindingsGood (placed answers s) := by
  rcases placed_cases answers s with heq | ⟨revision, i, heq, hread⟩
  · rw [heq]
    exact (Aside.of_blocks (s := s) (t := placeNothing s) rfl rfl nofun ⟨rfl, rfl, rfl⟩ rfl ⟨rfl, rfl⟩ rfl).bindings hs hg
  · rw [heq]
    obtain ⟨-, -, hpins, hfaces⟩ := hg
    refine ⟨(readImage_ordered hread).serials, fun ix a x n hx => ?_, hpins, hfaces⟩
    have hnone : (placeImage revision i s).rec? ix a = none := hempty ix a
    rw [hnone] at hx
    cases hx

theorem deliverLoadEnd_delivers {P : State → Prop} (hP : Deliveries P) (hroll : ∀ s, P s → P (beginRollCalls s)) (before : Options) {s : State}
    (hs : P s) : P (deliverLoadEnd before s) := by
  rw [deliverLoadEnd_eq]
  refine hP.deliver (fun f hf u hu => ?_) hs
  rcases mem_loadReceivers.1 hf with rfl | rfl | rfl | rfl
  · exact hP.rederive hu
  · exact hP.recomputeAll hu
  · exact hroll u hu
  · exact hP.optionChanges before hu

theorem endLoadImage_keeps {P : State → Prop} (hP : Deliveries P) (hroll : ∀ s, P s → P (beginRollCalls s)) (answers : Bool) {s : State}
    (hplaced : s.ps.plan = .loading → P s → P (placed answers s)) (hs : P s) : P (endLoadImage answers s) := by
  unfold endLoadImage
  split_ifs with hload
  · exact deliverLoadEnd_delivers hP hroll s.ps.options (hplaced hload hs)
  · exact hs

theorem beginRollCalls_segWork (s : State) : SegWork s (beginRollCalls s) := by
  rw [beginRollCalls_eq]
  refine ⟨rfl, rfl, rfl, rfl, rfl, rfl, rfl, id, fun ix => ?_⟩
  cases ix <;> rfl

/-! ## Every deed -/

/-- What the deliveries keep is kept by every request to another block than the segments that touches no pin and no slot of PS. -/
theorem BlockRequest.keeps {P : State → Prop} (hP : Deliveries P) {s t : State} (h : BlockRequest s t)
    (htables : TablesGood s) (hs : P s)
    (hpin : ∀ n h pin, s.holder n = some h → ((Table.get s.nu.pins n).isNone = true → s.nu.pins.length < 16) →
      P { s with nu := { s.nu with pins := Table.put s.nu.pins n pin } })
    (hdefine : ∀ (n : Nat) (p : PanelSlot), s.ps.panels.any (fun e => e.1 ≠ n && e.2.serial = p.serial) = false →
      P (workBinding n ((Table.get s.ps.panels n).map (·.serial)) p.serial
        (setPages n p.role { s with ps := { s.ps with panels := Table.put s.ps.panels n p } })))
    (hremove : ∀ n, P (discardPages n (strayHolder n { s with ps := { s.ps with panels := Table.del s.ps.panels n } }))) : P t := by
  cases h with
  | option _ => exact hP.applyOption _ _ hs
  | save _ => exact hP.withPlan rfl nofun hs
  | layout hrising =>
    obtain ⟨hsections, hwalls, hcombos⟩ := hrising htables
    exact hP.rederive (hP.aside s _ (.withLayout (fun _ => hsections) (fun _ => hwalls) (fun _ => hcombos)) hs)
  | wall _ _ _ => exact hP.putWall _ _ _ hs
  | clock purge _ => exact hP.clockChange purge (hP.withClock _ hs)
  | ticks k => exact times_keeps (P := P) (fun _ hu => hP.tickClock hu) k hs
  | back k _ => exact hP.moveBack k hs
  | session _ _ _ => exact hP.reevaluateOne _ _ _ hs
  | drop n => exact hP.recomputeAll (hP.aside s _ (.withSessions fun hr => Table.rising_filter hr _) hs)
  | text _ => exact hP.recomputeAll (hP.aside s _ (.of_blocks rfl rfl id ⟨rfl, rfl, rfl⟩ rfl ⟨rfl, rfl⟩ rfl) hs)
  | notices hrising _ => exact hP.recomputeZone _ (hP.aside s _ (.withNotices hrising) hs)
  | pin pin hheld hroom => exact hP.slot _ _ (hpin _ _ pin hheld hroom)
  | unpin n => exact hP.slot _ _ (hP.aside s _ (.loseBinding n s) hs)
  | hold => exact hP.withHold _ _ hs
  | release => exact hP.withHold _ _ hs
  | definePanel hother => exact hdefine _ _ hother
  | removePanel n => exact hremove n

theorem commitEdit_aside (s : State) : Aside s (commitEdit s) := by
  refine .of_blocks rfl rfl (fun h => ?_) ⟨rfl, rfl, rfl⟩ rfl ⟨rfl, rfl⟩ rfl
  unfold commitEdit editedPlan at h
  cases hp : s.ps.plan with
  | loading => rfl
  | saving => rw [hp] at h; cases h
  | empty => rw [hp] at h; cases h
  | ready => rw [hp] at h; cases h

/-- What the deliveries keep is kept by every deed, when the bus, the requests, the reset and the load keep it. -/
theorem Does.keeps {P : State → Prop} (hP : Deliveries P) {s t : State} (h : Does s t) (hs : P s) (hbus : BusDeed s t → P t)
    (hblock : ∀ u, BlockRequest s u → P u) (hreset : ∀ cause pin, P (resetBlocks cause pin s)) (hload : ∀ answers, P (endLoadImage answers s)) : P t := by
  cases h with
  | bus hb => exact hbus hb
  | owner hr => exact hblock _ hr
  | edit _ _ hr _ => exact hP.aside _ _ (commitEdit_aside _) (hblock _ hr)
  | restart => exact hP.applyRestart hs
  | reset cause pin => exact hreset cause pin
  | load answers => exact hload answers
  | tick => exact hP.tickHold (hP.tickClock hs)
  | holdEnds => exact hP.holdRunsOut hs
  | expire _ _ => exact hP.expireClock hs
  | minute _ _ _ => exact hP.passMinute hs
  | scan contacts => exact hP.scanWalls contacts hs
  | stage stage passed => exact hP.endStage stage passed hs
  | flashTimeout => exact hP.flashTimesOut hs

theorem withPin_tables {s : State} {n : Nat} (pin : Pin) (hs : TablesGood s) : TablesGood { s with nu := { s.nu with pins := Table.put s.nu.pins n pin } } := by
  obtain ⟨h1, h2, h3, h4, h5, h6, hrest⟩ := hs
  exact ⟨h1, h2, h3, h4, h5, Table.rising_put h6 _ _, hrest⟩

theorem resetBlocks_tables (cause : ResetCause) (pin : Bool) (s : State) :
    TablesGood (resetBlocks cause pin s) ∧ RecordsGood (resetBlocks cause pin s) ∧ BindingsGood (resetBlocks cause pin s)
      ∧ SegmentsGood (resetBlocks cause pin s) := by
  obtain ⟨-, -, -, -, -, -, htables, hrecords, -, -, hbindings, hsegments, -⟩ := resetIsGood
  exact ⟨htables, hrecords, ⟨hbindings.serials, hbindings.bound, hbindings.pins, hbindings.faces⟩, hsegments⟩

theorem BlockRequest.tables {s t : State} (h : BlockRequest s t) (hs : TablesGood s ∧ RecordsGood s) : TablesGood t ∧ RecordsGood t :=
  h.keeps deliveries_tables hs.1 hs (fun _ _ pin _ _ => ⟨withPin_tables pin hs.1, hs.2⟩) (fun _ _ _ => definePanel_tables hs)
    (fun n => removePanel_tables n hs)

theorem Does.tables {s t : State} (h : Does s t) (hs : TablesGood s ∧ RecordsGood s) : TablesGood t ∧ RecordsGood t := by
  refine h.keeps deliveries_tables hs (fun hb => ⟨hb.steps.tables hs.1, hb.steps.records hs.2⟩) (fun _ hr => hr.tables hs)
    (fun cause pin => ?_) (fun answers => ?_)
  · obtain ⟨htables, hrecords, -⟩ := resetBlocks_tables cause pin s
    exact ⟨htables, hrecords⟩
  · refine endLoadImage_keeps deliveries_tables (fun u hu => ⟨(beginRollCalls_segWork u).tables hu.1, (beginRollCalls_segWork u).records hu.2⟩)
      answers (fun _ hu => ⟨placed_tables answers hu.1, ?_⟩) hs
    obtain ⟨-, -, -, -, -, -, -, hsc, -⟩ := placed_rest answers s
    exact recordsGood_of_named (fun ix => by rw [State.seg, State.seg, hsc]) hu.2

theorem withPin_bindings {s : State} {n : Nat} {h : Place} (pin : Pin) (hg : BindingsGood s) (hheld : s.holder n = some h)
    (hroom : (Table.get s.nu.pins n).isNone = true → s.nu.pins.length < 16) :
    BindingsGood { s with nu := { s.nu with pins := Table.put s.nu.pins n pin } } := by
  obtain ⟨hserials, hbound, ⟨hcount, hpinned⟩, hfaced⟩ := hg
  refine ⟨hserials, hbound, ⟨?_, fun m hm => ?_⟩, hfaced⟩
  · simp only [length_put]
    split_ifs with hnew
    · exact hroom hnew
    · exact hcount
  · show (s.holder m).isSome = true
    by_cases hmn : m = n
    · rw [hmn, hheld]
      rfl
    · rw [Table.get_put_other _ _ hmn] at hm
      exact hpinned m hm

theorem BlockRequest.bindings {s t : State} (h : BlockRequest s t) (ht : TablesGood s) (hs : RecordsGood s) (hg : BindingsGood s) : BindingsGood t := by
  refine (h.keeps deliveries_bindings ht ⟨hs, hg⟩ (fun n h pin hheld hroom => ?_) (fun n p hother => ?_) (fun n => ?_)).2
  · exact ⟨hs, withPin_bindings pin hg hheld hroom⟩
  · exact ⟨(definePanel_tables ⟨ht, hs⟩).2, definePanel_bindings hother ht hs hg⟩
  · exact ⟨(removePanel_tables n ⟨ht, hs⟩).2, removePanel_bindings n hs hg⟩

theorem Does.bindings {s t : State} (h : Does s t) (ht : TablesGood s) (hs : RecordsGood s) (hg : BindingsGood s) (hsegs : SegmentsGood s) :
    BindingsGood t := by
  refine (h.keeps (P := fun u => RecordsGood u ∧ BindingsGood u) deliveries_bindings ⟨hs, hg⟩
    (fun hb => ⟨hb.steps.records hs, hb.steps.bindings hsegs ht hs hg⟩) (fun u hr => ⟨(hr.tables ⟨ht, hs⟩).2, hr.bindings ht hs hg⟩)
    (fun cause pin => ?_) (fun answers => ?_)).2
  · obtain ⟨-, hrecords, hbindings, -⟩ := resetBlocks_tables cause pin s
    exact ⟨hrecords, hbindings⟩
  · refine endLoadImage_keeps deliveries_bindings (fun u hu => ⟨(beginRollCalls_segWork u).records hu.1, hu.2.of_seg hu.1 (beginRollCalls_segWork u)⟩)
      answers (fun hload hu => ⟨?_, placed_bindings answers hs hg (fun ix a => ?_)⟩) ⟨hs, hg⟩
    · obtain ⟨-, -, -, -, -, -, -, hsc, -⟩ := placed_rest answers s
      exact recordsGood_of_named (fun ix => by rw [State.seg, State.seg, hsc]) hs
    · obtain ⟨-, hwaits⟩ := hsegs ix
      obtain ⟨-, -, hrecs⟩ := hwaits hload
      rw [State.rec?, hrecs]
      rfl

end Sys2Proof.Machine
end

section
/-! PROOFS. The laws of one segment, part by part: its queue, its transfer, its reserved draw, and what its bus holds (spec:
R114, R117, R129, R134, R138, R146–R165). -/

namespace Sys2Proof.Machine

/-! ## The queue -/

/-- R146: an entry for each QUEUED record, once, and for no other; the queue stands in its order. -/
def QueueGood (recs : Table Rec) (queue : List Entry) : Prop :=
  (queue.map (·.address)).Nodup ∧ queue.Pairwise (fun x y => y.before x = false)
    ∧ ∀ a, (∃ e, e ∈ queue ∧ e.address = a) ↔ ∃ r, Table.get recs a = some r ∧ r.state = .queued

theorem before_iff (x y : Entry) : x.before y = true
    ↔ classRank x.cls < classRank y.cls ∨ (classRank x.cls = classRank y.cls ∧ x.sequence < y.sequence) := by
  unfold Entry.before
  split_ifs with h
  · simp only [decide_eq_true_eq]
    omega
  · simp only [decide_eq_true_eq]
    omega

theorem not_before_iff (x y : Entry) : x.before y = false
    ↔ classRank y.cls < classRank x.cls ∨ (classRank x.cls = classRank y.cls ∧ y.sequence ≤ x.sequence) := by
  rw [← Bool.not_eq_true, before_iff]
  omega

theorem enterQueue_perm (e : Entry) (q : List Entry) : (enterQueue e q).Perm (e :: q) := by
  induction q with
  | nil => exact .refl _
  | cons x q ih =>
    unfold enterQueue
    split_ifs
    · exact .refl _
    · exact (ih.cons x).trans (.swap _ _ _)

theorem enterQueue_sorted (e : Entry) {q : List Entry} (h : q.Pairwise (fun x y => y.before x = false)) :
    (enterQueue e q).Pairwise (fun x y => y.before x = false) := by
  induction q with
  | nil => exact List.pairwise_singleton _ _
  | cons x q ih =>
    obtain ⟨hx, hq⟩ := List.pairwise_cons.1 h
    unfold enterQueue
    split_ifs with hbefore
    · refine List.pairwise_cons.2 ⟨fun z hz => ?_, h⟩
      rw [not_before_iff]
      rw [before_iff] at hbefore
      rcases List.mem_cons.1 hz with rfl | hz
      · omega
      · have := (not_before_iff z x).1 (hx z hz)
        omega
    · refine List.pairwise_cons.2 ⟨fun z hz => ?_, ih hq⟩
      rcases mem_enterQueue.1 hz with rfl | hz
      · exact Bool.not_eq_true _ ▸ hbefore
      · exact hx z hz

namespace QueueGood

variable {recs recs' : Table Rec} {q : List Entry} (h : QueueGood recs q)
include h

theorem same (hsame : ∀ b, (∃ r, Table.get recs' b = some r ∧ r.state = .queued) ↔ ∃ r, Table.get recs b = some r ∧ r.state = .queued) :
    QueueGood recs' q := by
  obtain ⟨hnodup, hsorted, hqueued⟩ := h
  exact ⟨hnodup, hsorted, fun b => (hqueued b).trans (hsame b).symm⟩

theorem queued_of_mem {e : Entry} (he : e ∈ q) : ∃ r, Table.get recs e.address = some r ∧ r.state = .queued :=
  (h.2.2 e.address).1 ⟨e, he, rfl⟩

/-- Only a QUEUED record has an entry to leave. -/
theorem leaveQueue_eq {a : Nat} (ha : ∀ r, Table.get recs a = some r → r.state ≠ .queued) : leaveQueue a q = q := by
  refine List.filter_eq_self.2 (fun e he => ?_)
  rw [decide_eq_true_eq]
  rintro rfl
  obtain ⟨r, hr, hq⟩ := h.queued_of_mem he
  exact ha r hr hq

theorem leave {a : Nat} (ha : ∀ r, Table.get recs' a = some r → r.state ≠ .queued)
    (hother : ∀ b, b ≠ a → Table.get recs' b = Table.get recs b) : QueueGood recs' (leaveQueue a q) := by
  obtain ⟨hnodup, hsorted, hqueued⟩ := h
  refine ⟨hnodup.sublist (List.filter_sublist.map _), hsorted.sublist List.filter_sublist, fun b => ?_⟩
  by_cases hb : b = a
  · subst hb
    constructor
    · rintro ⟨e, he, rfl⟩
      exact absurd rfl (mem_leaveQueue.1 he).2
    · rintro ⟨r, hr, hq⟩
      exact absurd hq (ha r hr)
  · rw [hother b hb, ← hqueued b]
    constructor
    · rintro ⟨e, he, rfl⟩
      exact ⟨e, (mem_leaveQueue.1 he).1, rfl⟩
    · rintro ⟨e, he, rfl⟩
      exact ⟨e, mem_leaveQueue.2 ⟨he, hb⟩, rfl⟩

theorem enter {a : Nat} {e : Entry} (he : e.address = a) (ha : ∃ r, Table.get recs' a = some r ∧ r.state = .queued)
    (hother : ∀ b, b ≠ a → Table.get recs' b = Table.get recs b) : QueueGood recs' (enterQueue e (leaveQueue a q)) := by
  have hperm := enterQueue_perm e (leaveQueue a q)
  obtain ⟨hnodup, hsorted, hqueued⟩ := h
  refine ⟨(hperm.map _).nodup_iff.2 ?_, enterQueue_sorted e (hsorted.sublist List.filter_sublist), fun b => ?_⟩
  · rw [List.map_cons, List.nodup_cons]
    refine ⟨fun hmem => ?_, hnodup.sublist (List.filter_sublist.map _)⟩
    obtain ⟨x, hx, hxa⟩ := List.mem_map.1 hmem
    exact (mem_leaveQueue.1 hx).2 (hxa.trans he)
  · by_cases hb : b = a
    · subst hb
      exact ⟨fun _ => ha, fun _ => ⟨e, mem_enterQueue.2 (.inl rfl), he⟩⟩
    · rw [hother b hb, ← hqueued b]
      constructor
      · rintro ⟨x, hx, rfl⟩
        rcases mem_enterQueue.1 hx with rfl | hx
        · exact absurd he hb
        · exact ⟨x, (mem_leaveQueue.1 hx).1, rfl⟩
      · rintro ⟨x, hx, rfl⟩
        exact ⟨x, mem_enterQueue.2 (.inr (mem_leaveQueue.2 ⟨hx, hb⟩)), rfl⟩

theorem raise (a : Nat) (c : QueueClass) : QueueGood recs (raiseEntry a c q) := by
  unfold raiseEntry
  cases he : entryOf a q with
  | none => exact h
  | some e =>
    have haddress := entryOf_address he
    obtain ⟨r, hr, hq⟩ := h.queued_of_mem (List.mem_of_find?_eq_some he)
    exact h.enter (e := { e with cls := higher e.cls c }) haddress ⟨r, haddress ▸ hr, hq⟩ (fun _ _ => rfl)

/-- The pass counts are not part of the order. -/
theorem passOver (skipped : List Nat) : QueueGood recs (passOver skipped q) := by
  have hadd (e : Entry) : (if skipped.contains e.address = true then { e with pass := e.pass + 1 } else e).address = e.address := by
    split_ifs <;> rfl
  have hbefore (x y : Entry) : (if skipped.contains x.address = true then { x with pass := x.pass + 1 } else x).before
      (if skipped.contains y.address = true then { y with pass := y.pass + 1 } else y) = x.before y := by
    split_ifs <;> rfl
  obtain ⟨hnodup, hsorted, hqueued⟩ := h
  refine ⟨?_, ?_, fun a => ?_⟩
  · simp only [Machine.passOver, List.map_map, Function.comp_def, hadd]
    exact hnodup
  · simp only [Machine.passOver, List.pairwise_map, hbefore]
    exact hsorted
  · rw [← hqueued a]
    constructor
    · rintro ⟨e, he, rfl⟩
      obtain ⟨e0, he0, rfl⟩ := List.mem_map.1 he
      exact ⟨e0, he0, (hadd e0).symm⟩
    · rintro ⟨e, he, rfl⟩
      exact ⟨_, List.mem_map.2 ⟨e, he, rfl⟩, hadd e⟩

end QueueGood

/-! ## The transfer -/

/-- R151, R156, R160: the transfer in flight is the LOADING record's; a chunk is sent at most three times; a PARTIAL refresh
is below the ghost limit. -/
def TransferGood (recs : Table Rec) (transfer : Option Transfer) : Prop :=
  (∀ a r, Table.get recs a = some r → (r.state = .loading ↔ ∃ v, transfer = some v ∧ v.address = a))
    ∧ ∀ v, transfer = some v → v.sends ≤ 3 ∧ ∃ r, Table.get recs v.address = some r ∧ (v.kind = .part → r.ghost < ghostLimit r.cls)

theorem get_put {α : Type} (t : Table α) (n m : Nat) (x : α) : Table.get (Table.put t n x) m = if m = n then some x else Table.get t m := by
  split_ifs with h
  · rw [h, Table.get_put_same]
  · exact Table.get_put_other t x h

namespace TransferGood

variable {recs : Table Rec} {t : Option Transfer} {a : Nat} {x y : Rec}

theorem put (h : TransferGood recs t) (hx : Table.get recs a = some x) (hstate : y.state = .loading ↔ x.state = .loading)
    (hghost : y.state = .loading → y.ghost = x.ghost ∧ y.cls = x.cls) : TransferGood (Table.put recs a y) t := by
  obtain ⟨hloading, hcarried⟩ := h
  refine ⟨fun b r hr => ?_, fun v hv => ?_⟩
  · rw [get_put] at hr
    split_ifs at hr with hb
    · cases hr
      rw [hstate, hb]
      exact hloading a x hx
    · exact hloading b r hr
  · obtain ⟨hsends, r, hr, hpart⟩ := hcarried v hv
    refine ⟨hsends, ?_⟩
    rw [get_put]
    split_ifs with hb
    · rw [hb, hx] at hr
      cases hr
      obtain ⟨hg, hc⟩ := hghost (hstate.2 ((hloading a x hx).2 ⟨v, hv, hb⟩))
      exact ⟨y, rfl, fun hk => by rw [hg, hc]; exact hpart hk⟩
    · exact ⟨r, hr, hpart⟩

theorem leave (h : TransferGood recs t) (hx : Table.get recs a = some x) (hl : x.state = .loading) (hy : y.state ≠ .loading) :
    TransferGood (Table.put recs a y) none := by
  obtain ⟨hloading, -⟩ := h
  refine ⟨fun b r hr => ?_, nofun⟩
  rw [get_put] at hr
  split_ifs at hr with hb
  · cases hr
    exact ⟨fun h => absurd h hy, fun ⟨_, h, _⟩ => nomatch h⟩
  · refine ⟨fun hrl => ?_, fun ⟨_, h, _⟩ => nomatch h⟩
    obtain ⟨v, hv, hva⟩ := (hloading a x hx).1 hl
    obtain ⟨w, hw, hwb⟩ := (hloading b r hr).1 hrl
    rw [hv] at hw
    cases hw
    exact absurd (hwb.symm.trans hva) hb

theorem enter (h : TransferGood recs none) (hy : y.state = .loading) {v : Transfer} (hv : v.address = a) (hsends : v.sends ≤ 3)
    (hpart : v.kind = .part → y.ghost < ghostLimit y.cls) : TransferGood (Table.put recs a y) (some v) := by
  obtain ⟨hloading, -⟩ := h
  refine ⟨fun b r hr => ?_, fun w hw => ?_⟩
  · rw [get_put] at hr
    split_ifs at hr with hb
    · cases hr
      exact ⟨fun _ => ⟨v, rfl, hv.trans hb.symm⟩, fun _ => hy⟩
    · refine ⟨fun hrl => ?_, fun ⟨w, hw, hwb⟩ => ?_⟩
      · obtain ⟨_, hw, _⟩ := (hloading b r hr).1 hrl
        cases hw
      · cases hw
        exact absurd (hwb.symm.trans hv) hb
  · cases hw
    exact ⟨hsends, y, by rw [get_put, if_pos hv], hpart⟩

theorem update {v w : Transfer} (h : TransferGood recs (some v)) (haddress : w.address = v.address) (hkind : w.kind = v.kind)
    (hsends : w.sends ≤ 3) : TransferGood recs (some w) := by
  obtain ⟨hloading, hcarried⟩ := h
  obtain ⟨-, r, hr, hpart⟩ := hcarried v rfl
  refine ⟨fun b x hx => (hloading b x hx).trans ?_, fun u hu => ?_⟩
  · constructor
    · rintro ⟨u, hu, hub⟩
      cases hu
      exact ⟨w, rfl, haddress.trans hub⟩
    · rintro ⟨u, hu, hub⟩
      cases hu
      exact ⟨v, rfl, haddress.symm.trans hub⟩
  · cases hu
    rw [haddress, hkind]
    exact ⟨hsends, r, hr, hpart⟩

theorem delete (h : TransferGood recs t) (a : Nat) : TransferGood (Table.del recs a) (if t.any (fun v => v.address = a) then none else t) := by
  obtain ⟨hloading, hcarried⟩ := h
  split_ifs with hat
  · refine ⟨fun b r hr => ⟨fun hl => ?_, fun ⟨_, h, _⟩ => nomatch h⟩, nofun⟩
    rw [Table.get_del] at hr
    split_ifs at hr with hb
    obtain ⟨v, hv, hvb⟩ := (hloading b r hr).1 hl
    rw [hv, Option.any_some, decide_eq_true_eq] at hat
    exact absurd (hvb.symm.trans hat) hb
  · refine ⟨fun b r hr => ?_, fun v hv => ?_⟩
    · rw [Table.get_del] at hr
      split_ifs at hr
      exact hloading b r hr
    · obtain ⟨hsends, r, hr, hpart⟩ := hcarried v hv
      rw [hv, Option.any_some, decide_eq_true_eq] at hat
      exact ⟨hsends, r, by rw [Table.get_del, if_neg hat]; exact hr, hpart⟩

theorem create (h : TransferGood recs t) (hnew : Table.get recs a = none) (hy : y.state ≠ .loading) : TransferGood (Table.put recs a y) t := by
  obtain ⟨hloading, hcarried⟩ := h
  have hother (v : Transfer) (hv : t = some v) : v.address ≠ a := by
    rintro rfl
    obtain ⟨-, r, hr, -⟩ := hcarried v hv
    rw [hnew] at hr
    cases hr
  refine ⟨fun b r hr => ?_, fun v hv => ?_⟩
  · rw [get_put] at hr
    split_ifs at hr with hb
    · cases hr
      exact ⟨fun h => absurd h hy, fun ⟨v, hv, hva⟩ => absurd (hva.trans hb) (hother v hv)⟩
    · exact hloading b r hr
  · obtain ⟨hsends, r, hr, hpart⟩ := hcarried v hv
    exact ⟨hsends, r, by rw [get_put, if_neg (hother v hv)]; exact hr, hpart⟩

end TransferGood

/-! ## The reserved draw -/

/-- The draws of the records in flight, summed (R153). -/
def drawSum (recs : Table Rec) : Nat := (recs.map (fun e => e.2.reservedDraw)).sum

theorem drawSum_cons (e : Nat × Rec) (t : Table Rec) : drawSum (e :: t) = e.2.reservedDraw + drawSum t := by
  simp only [drawSum, List.map_cons, List.sum_cons]

theorem drawSum_put {t : Table Rec} {a : Nat} {x : Rec} (y : Rec) (hx : Table.get t a = some x) :
    drawSum (Table.put t a y) + x.reservedDraw = drawSum t + y.reservedDraw := by
  induction t with
  | nil => cases hx
  | cons e t ih =>
    obtain ⟨k, v⟩ := e
    rw [Table.get_cons] at hx
    unfold Table.put
    by_cases hk : k = a
    · rw [if_pos hk, Option.some.injEq] at hx
      rw [if_pos hk.symm, drawSum_cons, drawSum_cons, hx]
      simp only
      omega
    · rw [if_neg hk] at hx
      rw [if_neg (Ne.symm hk), if_neg (by simp [hx]), drawSum_cons, drawSum_cons]
      have := ih hx
      omega

theorem drawSum_create {t : Table Rec} {a : Nat} (y : Rec) (hnew : Table.get t a = none) :
    drawSum (Table.put t a y) = drawSum t + y.reservedDraw := by
  induction t with
  | nil => simp [Table.put, drawSum]
  | cons e t ih =>
    obtain ⟨k, v⟩ := e
    rw [Table.get_cons] at hnew
    split_ifs at hnew with hk
    unfold Table.put
    rw [if_neg (Ne.symm hk)]
    split_ifs
    · rw [drawSum_cons]
      exact Nat.add_comm _ _
    · rw [drawSum_cons, drawSum_cons, ih hnew]
      exact (Nat.add_assoc _ _ _).symm

theorem drawSum_del {t : Table Rec} (ht : Table.rising t = true) {a : Nat} {x : Rec} (hx : Table.get t a = some x) :
    drawSum (Table.del t a) + x.reservedDraw = drawSum t := by
  rw [Table.rising_iff] at ht
  induction t with
  | nil => cases hx
  | cons e t ih =>
    obtain ⟨k, v⟩ := e
    obtain ⟨hfirst, ht⟩ := List.pairwise_cons.1 ht
    rw [Table.get_cons] at hx
    unfold Table.del at ih ⊢
    split_ifs at hx with hk
    · cases hx
      have hrest : t.filter (fun e => decide (e.1 ≠ a)) = t := by
        refine List.filter_eq_self.2 (fun e he => decide_eq_true ?_)
        have := hfirst e he
        simp only at this
        omega
      rw [List.filter_cons_of_neg (by simp [hk]), hrest, drawSum_cons]
      exact Nat.add_comm _ _
    · rw [List.filter_cons_of_pos (by simp [hk]), drawSum_cons, drawSum_cons]
      have := ih ht hx
      omega

end Sys2Proof.Machine
end

section
/-! PROOFS. The laws of a segment under a change of one record (spec: R114–R121, R146–R170). -/

namespace Sys2Proof.Machine

/-! ## The laws in parts -/

/-- What the laws say of one record of a segment in a mode, at a roll-call address. -/
structure EachGood (mode : SegMode) (rollAddr a : Nat) (r : Rec) : Prop where
  address : 1 ≤ a ∧ a ≤ 96
  ghost : r.ghost ≤ ghostLimit r.cls
  part : ∀ f, r.state = .refreshing f → f.kind = .part → r.ghost < ghostLimit r.cls
  quiet : ¬ (mode = .run ∨ mode = .draining) → r.state ≠ .loading ∧ ∀ f, r.state ≠ .refreshing f
  rolled : mode = .starting → a < rollAddr

/-- The laws that do not look at the bus. -/
structure RestGood (g : Seg) : Prop where
  rising : Table.rising g.recs = true
  numbers : (∀ a, a ∈ g.drops → 1 ≤ a ∧ a ≤ 96) ∧ g.drops.Pairwise (· < ·) ∧ (1 ≤ g.pointer ∧ g.pointer ≤ 96)
    ∧ (1 ≤ g.rollAddr ∧ g.rollAddr ≤ 96) ∧ g.sequence < 4294967296
  each : ∀ a r, Table.get g.recs a = some r → EachGood g.mode g.rollAddr a r
  queue : QueueGood g.recs g.queue
  transfer : TransferGood g.recs g.transfer
  reserved : g.reserved = drawSum g.recs
  stack : g.mode ≠ .searching → g.stack = []
  stop : g.stopWaiting = true → g.mode = .keying ∨ g.mode = .searching

/-- A transfer whose chunk may be sent once more (R160, R161). -/
def Settled2 (transfer : Option Transfer) : Prop := ∀ v, transfer = some v → v.sends ≤ 2 ∧ v.abandoned = false

/-- The laws of the exchange in progress. -/
structure BusGood (g : Seg) : Prop where
  exchange : ∀ e, g.bus = some e → e.belongs g
  settled : (∀ a i n d, g.bus ≠ some (.load a i n d)) → Settled2 g.transfer
  stems : StemsGood g.stems

/-- The laws of a segment, its records at distinct addresses. -/
def SegLaws (g : Seg) : Prop := Table.rising g.recs = true ∧ SegGood g

theorem segLaws_iff (g : Seg) : SegLaws g ↔ RestGood g ∧ BusGood g := by
  constructor
  · rintro ⟨hrising, h⟩
    obtain ⟨haddress, hdrops, hdropsRising, hpointer, hpointer', hroll, hroll', hsequence⟩ := h.addresses
    obtain ⟨hghost, hpart, htransferPart⟩ := h.ghosts
    obtain ⟨hstems, hstack, hstop⟩ := h.search
    refine ⟨⟨hrising, ⟨hdrops, hdropsRising, ⟨hpointer, hpointer'⟩, ⟨hroll, hroll'⟩, hsequence⟩, fun a r hr => ?_, h.queue, ⟨h.loading, fun v hv => ?_⟩,
      h.reserved, hstack, hstop⟩, ⟨h.exchange, fun hno v hv => (h.carried v hv).2.2 hno, hstems⟩⟩
    · have hmem := mem_of_get hr
      exact ⟨haddress _ hmem, hghost _ hmem, fun f => hpart _ f hmem, fun hp => h.quiet hp _ hmem, fun hm => h.rolled hm _ hmem⟩
    · obtain ⟨hsome, hsends, -⟩ := h.carried v hv
      obtain ⟨r, hr⟩ := Option.isSome_iff_exists.1 hsome
      exact ⟨hsends, r, hr, fun hk => htransferPart v r hv hk hr⟩
  · rintro ⟨h, hb⟩
    obtain ⟨hdrops, hdropsRising, ⟨hpointer, hpointer'⟩, ⟨hroll, hroll'⟩, hsequence⟩ := h.numbers
    have heach (e : Nat × Rec) (he : e ∈ g.recs) := h.each e.1 e.2 (Table.get_of_mem h.rising he)
    refine ⟨h.rising, ⟨fun e he => (heach e he).address, hdrops, hdropsRising, hpointer, hpointer', hroll, hroll', hsequence⟩, h.queue, h.transfer.1,
      fun v hv => ?_, h.reserved, ⟨fun e he => (heach e he).ghost, fun e f he => (heach e he).part f, fun v r hv hk hr => ?_⟩, hb.exchange,
      fun hp e he => (heach e he).quiet hp, fun hm e he => (heach e he).rolled hm, ⟨hb.stems, h.stack, h.stop⟩⟩
    · obtain ⟨hsends, r, hr, -⟩ := h.transfer.2 v hv
      exact ⟨by rw [hr]; rfl, hsends, fun hno => hb.settled hno v hv⟩
    · obtain ⟨-, r', hr', hpart⟩ := h.transfer.2 v hv
      rw [hr] at hr'
      cases hr'
      exact hpart hk

/-- The laws between two exchanges: nothing is asked of the bus. -/
structure Between (g : Seg) : Prop where
  rest : RestGood g
  settled : Settled2 g.transfer
  stems : StemsGood g.stack

theorem RestGood.withBus {g : Seg} (h : RestGood g) (bus : Option Exchange) : RestGood { g with bus } :=
  ⟨h.rising, h.numbers, h.each, h.queue, h.transfer, h.reserved, h.stack, h.stop⟩

theorem Between.quiet {g : Seg} (h : Between g) (hbus : g.bus = none) : SegLaws g := by
  refine (segLaws_iff g).2 ⟨h.rest, ⟨fun e he => ?_, fun _ => h.settled, ?_⟩⟩
  · rw [hbus] at he
    cases he
  · unfold Seg.stems
    rw [hbus]
    exact h.stems

/-- An exchange other than a LOAD and an ASK leaves the segment so when it ends. -/
theorem SegLaws.between {g : Seg} (h : SegLaws g) (hload : ∀ a i n d, g.bus ≠ some (.load a i n d)) (hask : ∀ stem, g.bus ≠ some (.ask stem)) :
    Between g := by
  obtain ⟨hrest, hb⟩ := (segLaws_iff g).1 h
  refine ⟨hrest, hb.settled hload, ?_⟩
  have hstems := hb.stems
  unfold Seg.stems at hstems
  split at hstems
  next stem hbus => exact absurd hbus (hask stem)
  · exact hstems

/-! ## One record changed -/

theorem RestGood.change {g : Seg} (h : RestGood g) {a : Nat} {x y : Rec} (hx : Table.get g.recs a = some x) {queue : List Entry}
    {transfer : Option Transfer} {reserved sequence : Nat} (hsequence : sequence < 4294967296) (hghost : y.ghost ≤ ghostLimit y.cls)
    (hpart : ∀ f, y.state = .refreshing f → f.kind = .part → y.ghost < ghostLimit y.cls)
    (hquiet : ¬ g.polls → y.state ≠ .loading ∧ ∀ f, y.state ≠ .refreshing f) (hqueue : QueueGood (Table.put g.recs a y) queue)
    (htransfer : TransferGood (Table.put g.recs a y) transfer) (hreserved : reserved + x.reservedDraw = g.reserved + y.reservedDraw) :
    RestGood { g with recs := Table.put g.recs a y, queue, transfer, reserved, sequence } where
  rising := Table.rising_put h.rising a y
  numbers := by
    obtain ⟨hdrops, hdropsRising, hpointer, hroll, -⟩ := h.numbers
    exact ⟨hdrops, hdropsRising, hpointer, hroll, hsequence⟩
  each b r hr := by
    simp only [get_put] at hr
    split_ifs at hr with hb
    · cases hr
      have hold := h.each a x hx
      exact ⟨hb ▸ hold.address, hghost, hpart, hquiet, fun hm => hb ▸ hold.rolled hm⟩
    · exact h.each b r hr
  queue := hqueue
  transfer := htransfer
  reserved := by
    have hput := drawSum_put y hx
    have hsum := h.reserved
    simp only
    omega
  stack := h.stack
  stop := h.stop

/-- The exchange in progress stands when the record it works on keeps what it needs of it. -/
theorem BusGood.change {g g' : Seg} (h : BusGood g) (hbus : g'.bus = g.bus) (hmode : g'.mode = g.mode) (hroll : g'.rollAddr = g.rollAddr)
    (hstack : g'.stack = g.stack)
    (htransfer : g'.transfer = g.transfer ∨ g'.transfer = none ∧ (∀ a i n d, g.bus ≠ some (.load a i n d))
      ∧ ∀ a k d n, g.bus ≠ some (.showFace a k d n))
    (hlost : ∀ a y, Table.get g'.recs a = some y → ∃ x, Table.get g.recs a = some x ∧ (x.state = .lost → y.state = .lost))
    (hflying : ∀ a x f, g.bus = some (.completion a) → Table.get g.recs a = some x → x.state = .refreshing f →
      ∃ y f', Table.get g'.recs a = some y ∧ y.state = .refreshing f') : BusGood g' where
  exchange e he := by
    rw [hbus] at he
    have hold := h.exchange e he
    have hpolls : g.polls → g'.polls := by
      unfold Seg.polls
      rw [hmode]
      exact id
    have hnone {a : Nat} (ha : Table.get g.recs a = none) : Table.get g'.recs a = none := by
      by_contra hsome
      obtain ⟨y, hy⟩ := Option.ne_none_iff_exists'.1 hsome
      obtain ⟨x, hx, -⟩ := hlost a y hy
      rw [ha] at hx
      cases hx
    have hkept (hno : (∃ a i n d, g.bus = some (.load a i n d)) ∨ ∃ a k d n, g.bus = some (.showFace a k d n)) : g'.transfer = g.transfer := by
      rcases htransfer with hsame | ⟨-, hload, hshow⟩
      · exact hsame
      · rcases hno with ⟨a, i, n, d, hb⟩ | ⟨a, k, d, n, hb⟩
        · exact absurd hb (hload a i n d)
        · exact absurd hb (hshow a k d n)
    cases e with
    | poll a => exact hpolls hold
    | probe a =>
      refine ⟨hpolls hold.1, fun y hy => ?_⟩
      obtain ⟨x, hx, hl⟩ := hlost a y hy
      exact hl (hold.2 x hx)
    | load a i n d =>
      unfold Exchange.belongs
      rw [hkept (.inl ⟨a, i, n, d, he⟩)]
      exact ⟨hpolls hold.1, hold.2⟩
    | showFace a k d n =>
      unfold Exchange.belongs
      rw [hkept (.inr ⟨a, k, d, n, he⟩)]
      exact ⟨hpolls hold.1, hold.2⟩
    | completion a =>
      obtain ⟨hp, x, f, hx, hf⟩ := hold
      exact ⟨hpolls hp, hflying a x f he hx hf⟩
    | drop a => exact hpolls hold
    | rollIdent a =>
      unfold Exchange.belongs
      rw [hmode, hroll]
      exact hold
    | rollDrop a =>
      unfold Exchange.belongs
      rw [hmode, hroll]
      exact hold
    | key => exact hmode.trans hold
    | ask stem => exact hmode.trans hold
    | give serial a =>
      obtain ⟨hm, hlow, hhigh, hfree⟩ := hold
      exact ⟨hmode.trans hm, hlow, hhigh, hnone hfree⟩
    | giveDrop a => exact hmode.trans hold
  settled hno := by
    rcases htransfer with hsame | ⟨hgone, -⟩
    · rw [hsame]
      exact h.settled (fun a i n d => hbus ▸ hno a i n d)
    · rw [hgone]
      nofun
  stems := by
    have hstems := h.stems
    unfold Seg.stems at hstems ⊢
    rw [hbus, hstack]
    exact hstems

/-- What a record may change into on any bus: LOST stays LOST, a refresh in flight stays in flight. -/
def StillOn (x y : Rec) : Prop := (x.state = .lost → y.state = .lost) ∧ ∀ f, x.state = .refreshing f → ∃ f', y.state = .refreshing f'

theorem BusGood.put {g g' : Seg} (h : BusGood g) {a : Nat} {x y : Rec} (hx : Table.get g.recs a = some x) (hon : StillOn x y)
    (hrecs : g'.recs = Table.put g.recs a y) (hbus : g'.bus = g.bus) (hmode : g'.mode = g.mode) (hroll : g'.rollAddr = g.rollAddr)
    (hstack : g'.stack = g.stack)
    (htransfer : g'.transfer = g.transfer ∨ g'.transfer = none ∧ (∀ a i n d, g.bus ≠ some (.load a i n d))
      ∧ ∀ a k d n, g.bus ≠ some (.showFace a k d n)) : BusGood g' := by
  refine h.change hbus hmode hroll hstack htransfer (fun b z hz => ?_) (fun b z f _ hz hf => ?_)
  · rw [hrecs, get_put] at hz
    split_ifs at hz with hb
    · cases hz
      exact ⟨x, hb ▸ hx, hon.1⟩
    · exact ⟨z, hz, id⟩
  · rw [hrecs, get_put]
    split_ifs with hb
    · rw [hb, hx] at hz
      cases hz
      obtain ⟨f', hf'⟩ := hon.2 f hf
      exact ⟨y, f', rfl, hf'⟩
    · exact ⟨z, f, hz, hf⟩

/-! ## A record alike -/

/-- The parts of a record that the laws read. -/
def Alike (x y : Rec) : Prop := y.state = x.state ∧ y.ghost = x.ghost ∧ y.cls = x.cls

theorem Alike.draw {x y : Rec} (h : Alike x y) : y.reservedDraw = x.reservedDraw := by
  unfold Rec.reservedDraw
  rw [h.1]

theorem get_put_queued {recs : Table Rec} {a : Nat} {x y : Rec} (hx : Table.get recs a = some x) (h : y.state = .queued ↔ x.state = .queued) (b : Nat) :
    (∃ r, Table.get (Table.put recs a y) b = some r ∧ r.state = .queued) ↔ ∃ r, Table.get recs b = some r ∧ r.state = .queued := by
  rw [get_put]
  split_ifs with hb
  · rw [hb, hx]
    simp only [Option.some.injEq, exists_eq_left', h]
  · exact Iff.rfl

/-- A record replaced in its state's kind: its queue entry, its transfer and its draw stand. -/
theorem RestGood.replace {g : Seg} (h : RestGood g) {a : Nat} {x y : Rec} (hx : Table.get g.recs a = some x)
    (hqueued : y.state = .queued ↔ x.state = .queued) (hloading : y.state = .loading ↔ x.state = .loading) (hdraw : y.reservedDraw = x.reservedDraw)
    (hghost : y.ghost ≤ ghostLimit y.cls) (hpart : ∀ f, y.state = .refreshing f → f.kind = .part → y.ghost < ghostLimit y.cls)
    (hquiet : ¬ g.polls → ∀ f, y.state ≠ .refreshing f) (hsame : y.state = .loading → y.ghost = x.ghost ∧ y.cls = x.cls) :
    RestGood { g with recs := Table.put g.recs a y } := by
  obtain ⟨-, -, -, -, hsequence⟩ := h.numbers
  refine h.change (y := y) (queue := g.queue) (transfer := g.transfer) (reserved := g.reserved) (sequence := g.sequence) hx hsequence hghost hpart
    (fun hp => ⟨fun hl => ?_, hquiet hp⟩) (h.queue.same (get_put_queued hx hqueued)) (h.transfer.put hx hloading hsame) (by rw [hdraw])
  exact ((h.each a x hx).quiet hp).1 (hloading.1 hl)

theorem RestGood.alike {g : Seg} (h : RestGood g) {a : Nat} {x y : Rec} (hx : Table.get g.recs a = some x) (hy : Alike x y) :
    RestGood { g with recs := Table.put g.recs a y } := by
  have hdraw := hy.draw
  obtain ⟨hstate, hghost, hcls⟩ := hy
  have heach := h.each a x hx
  refine h.replace hx (by rw [hstate]) (by rw [hstate]) hdraw ?_ (fun f hf hk => ?_) (fun hp f hf => ?_) (fun _ => ⟨hghost, hcls⟩)
  · rw [hghost, hcls]
    exact heach.ghost
  · rw [hghost, hcls]
    exact heach.part f (hstate ▸ hf) hk
  · exact (heach.quiet hp).2 f (hstate ▸ hf)

theorem Alike.stillOn {x y : Rec} (h : Alike x y) : StillOn x y := ⟨fun hl => h.1.trans hl, fun f hf => ⟨f, h.1.trans hf⟩⟩

theorem SegLaws.alike {g : Seg} (h : SegLaws g) {a : Nat} {x y : Rec} (hx : Table.get g.recs a = some x) (hy : Alike x y) :
    SegLaws { g with recs := Table.put g.recs a y } := by
  obtain ⟨hrest, hb⟩ := (segLaws_iff g).1 h
  exact (segLaws_iff _).2 ⟨hrest.alike hx hy, hb.put hx hy.stillOn rfl rfl rfl rfl rfl (.inl rfl)⟩

theorem Between.alike {g : Seg} (h : Between g) {a : Nat} {x y : Rec} (hx : Table.get g.recs a = some x) (hy : Alike x y) :
    Between { g with recs := Table.put g.recs a y } := ⟨h.rest.alike hx hy, h.settled, h.stems⟩

/-! ## Need evaluated -/

theorem nextSequence_lt (n : Nat) : nextSequence n < 4294967296 := Nat.mod_lt _ (by decide)

/-- A record that leaves the queue, or stays out of it, in a state that is not in flight. -/
theorem RestGood.out {g : Seg} (h : RestGood g) {a : Nat} {x y : Rec} (hx : Table.get g.recs a = some x) {transfer : Option Transfer} {reserved : Nat}
    (hstate : y.state = .online ∨ y.state = .lost) (hghost : y.ghost ≤ ghostLimit y.cls)
    (htransfer : TransferGood (Table.put g.recs a y) transfer) (hreserved : reserved + x.reservedDraw = g.reserved) :
    RestGood { g with recs := Table.put g.recs a y, queue := leaveQueue a g.queue, transfer, reserved } := by
  obtain ⟨-, -, -, -, hsequence⟩ := h.numbers
  have hfree : y.reservedDraw = 0 ∧ y.state ≠ .loading ∧ y.state ≠ .queued ∧ ∀ f, y.state ≠ .refreshing f := by
    unfold Rec.reservedDraw
    rcases hstate with hs | hs
    · rw [hs]
      exact ⟨rfl, nofun, nofun, nofun⟩
    · rw [hs]
      exact ⟨rfl, nofun, nofun, nofun⟩
  obtain ⟨hdraw, hloading, hqueued, hflying⟩ := hfree
  refine h.change (sequence := g.sequence) hx hsequence hghost (fun f hf => absurd hf (hflying f)) (fun _ => ⟨hloading, hflying⟩)
    (h.queue.leave (fun r hr => ?_) (fun b hb => Table.get_put_other _ _ hb)) htransfer (by rw [hdraw, hreserved]; rfl)
  rw [Table.get_put_same] at hr
  cases hr
  exact hqueued

/-- A record that enters the queue from a state other than LOADING and REFRESHING, or leaves LOADING for it. -/
theorem RestGood.enter {g : Seg} (h : RestGood g) {a : Nat} {x y : Rec} (hx : Table.get g.recs a = some x) (hqueued : x.state ≠ .queued)
    {c : QueueClass} {n sequence : Nat} {transfer : Option Transfer} (hsequence : sequence < 4294967296) (hstate : y.state = .queued)
    (hdraw : x.reservedDraw = 0) (hghost : y.ghost ≤ ghostLimit y.cls) (htransfer : TransferGood (Table.put g.recs a y) transfer) :
    RestGood { g with recs := Table.put g.recs a y, queue := enterQueue { address := a, cls := c, sequence := n, pass := 0 } g.queue, transfer, sequence } := by
  have hfree : y.reservedDraw = 0 := by
    unfold Rec.reservedDraw
    rw [hstate]
  have hstill : leaveQueue a g.queue = g.queue := h.queue.leaveQueue_eq (fun r hr => by
    rw [hx] at hr
    cases hr
    exact hqueued)
  have hqueue := h.queue.enter (recs' := Table.put g.recs a y) (a := a) (e := { address := a, cls := c, sequence := n, pass := 0 }) rfl
    ⟨y, Table.get_put_same _ _ _, hstate⟩ (fun b hb => Table.get_put_other _ _ hb)
  rw [hstill] at hqueue
  refine h.change (reserved := g.reserved) hx hsequence hghost (fun f hf => ?_) (fun _ => ⟨?_, fun f hf => ?_⟩) hqueue htransfer (by rw [hdraw, hfree])
  · rw [hstate] at hf
    cases hf
  · rw [hstate]
    nofun
  · rw [hstate] at hf
    cases hf

theorem Seg.evaluate_cases (g : Seg) (a : Nat) (least : QueueClass) : g.evaluate a least = g
    ∨ (∃ x, Table.get g.recs a = some x ∧ x.state = .online ∧ g.evaluate a least = g.enqueue a x (higher least x.derived))
    ∨ (∃ c, g.evaluate a least = { g with queue := raiseEntry a c g.queue })
    ∨ ∃ x, Table.get g.recs a = some x ∧ x.state = .queued ∧ g.evaluate a least = g.setOnline a x := by
  unfold Seg.evaluate
  cases hx : Table.get g.recs a with
  | none => exact .inl rfl
  | some x =>
    simp only
    cases hs : x.state with
    | online =>
      simp only
      split_ifs
      · exact .inr (.inl ⟨x, rfl, hs, rfl⟩)
      · exact .inl rfl
    | queued =>
      simp only
      split_ifs
      · exact .inr (.inr (.inl ⟨_, rfl⟩))
      · exact .inr (.inr (.inr ⟨x, rfl, hs, rfl⟩))
    | loading => exact .inl rfl
    | refreshing _ => exact .inl rfl
    | lost => exact .inl rfl

theorem draw_of_idle {x : Rec} (h : x.state = .online ∨ x.state = .queued ∨ x.state = .lost) : x.reservedDraw = 0 := by
  unfold Rec.reservedDraw
  rcases h with h | h | h <;> rw [h]

theorem RestGood.setOnline {g : Seg} (h : RestGood g) {a : Nat} {x : Rec} (hx : Table.get g.recs a = some x) (hs : x.state = .queued) :
    RestGood (g.setOnline a x) := by
  refine h.out (y := { x with state := .online }) hx (.inl rfl) (h.each a x hx).ghost (h.transfer.put hx ⟨nofun, fun hl => ?_⟩ nofun)
    (by rw [draw_of_idle (.inr (.inl hs))]; rfl)
  rw [hs] at hl
  cases hl

theorem RestGood.evaluate {g : Seg} (h : RestGood g) (a : Nat) (least : QueueClass) : RestGood (g.evaluate a least) := by
  rcases g.evaluate_cases a least with heq | ⟨x, hx, hs, heq⟩ | ⟨c, heq⟩ | ⟨x, hx, hs, heq⟩
  · rw [heq]
    exact h
  · rw [heq]
    refine h.enter (y := { x with state := .queued }) (transfer := g.transfer) hx (by rw [hs]; nofun) (nextSequence_lt g.sequence) rfl
      (draw_of_idle (.inl hs)) (h.each a x hx).ghost (h.transfer.put hx ⟨nofun, fun hl => ?_⟩ nofun)
    rw [hs] at hl
    cases hl
  · rw [heq]
    exact ⟨h.rising, h.numbers, h.each, h.queue.raise a c, h.transfer, h.reserved, h.stack, h.stop⟩
  · rw [heq]
    exact h.setOnline hx hs

theorem stillOn_of_idle {x y : Rec} (h : x.state = .online ∨ x.state = .queued ∨ x.state = .loading) : StillOn x y := by
  refine ⟨fun hl => ?_, fun f hf => ?_⟩
  · rcases h with h | h | h <;> (rw [h] at hl; cases hl)
  · rcases h with h | h | h <;> (rw [h] at hf; cases hf)

theorem BusGood.evaluate {g : Seg} (h : BusGood g) (a : Nat) (least : QueueClass) : BusGood (g.evaluate a least) := by
  rcases g.evaluate_cases a least with heq | ⟨x, hx, hs, heq⟩ | ⟨c, heq⟩ | ⟨x, hx, hs, heq⟩
  · rw [heq]
    exact h
  · rw [heq]
    exact h.put hx (stillOn_of_idle (.inl hs)) rfl rfl rfl rfl rfl (.inl rfl)
  · rw [heq]
    exact ⟨h.exchange, h.settled, h.stems⟩
  · rw [heq]
    exact h.put hx (stillOn_of_idle (.inr (.inl hs))) rfl rfl rfl rfl rfl (.inl rfl)

theorem SegLaws.evaluate {g : Seg} (h : SegLaws g) (a : Nat) (least : QueueClass) : SegLaws (g.evaluate a least) := by
  obtain ⟨hrest, hb⟩ := (segLaws_iff g).1 h
  exact (segLaws_iff _).2 ⟨hrest.evaluate a least, hb.evaluate a least⟩

theorem Seg.evaluate_stack (g : Seg) (a : Nat) (least : QueueClass) : (g.evaluate a least).stack = g.stack := by
  have := congrArg Seg.stack (g.evaluate_beside a least)
  exact this

theorem Between.evaluate {g : Seg} (h : Between g) (a : Nat) (least : QueueClass) : Between (g.evaluate a least) :=
  ⟨h.rest.evaluate a least, by rw [Seg.evaluate_transfer]; exact h.settled, by rw [Seg.evaluate_stack]; exact h.stems⟩

/-! ## A record lost, or out of LOADING -/

theorem RestGood.lose {g : Seg} (h : RestGood g) {a : Nat} {x y : Rec} (hx : Table.get g.recs a = some x) (hs : x.state = .online ∨ x.state = .queued)
    (hghost : y.ghost = x.ghost ∧ y.cls = x.cls) : RestGood (g.setLost a y) := by
  obtain ⟨hghost, hcls⟩ := hghost
  have hdraw : x.reservedDraw = 0 := draw_of_idle (hs.imp id .inl)
  refine h.out (y := { y with state := .lost }) hx (.inr rfl) ?_ (h.transfer.put hx ⟨nofun, fun hl => ?_⟩ nofun) (by rw [hdraw]; rfl)
  · simp only [hghost, hcls]
    exact (h.each a x hx).ghost
  · rcases hs with hs | hs <;> (rw [hs] at hl; cases hl)

theorem Between.lose {g : Seg} (h : Between g) {a : Nat} {x y : Rec} (hx : Table.get g.recs a = some x) (hs : x.state = .online ∨ x.state = .queued)
    (hghost : y.ghost = x.ghost ∧ y.cls = x.cls) : Between (g.setLost a y) := ⟨h.rest.lose hx hs hghost, h.settled, h.stems⟩

/-- A record out of LOADING: LOST, QUEUED again or ONLINE, its transfer gone (R160, R161, R163, R170). -/
def Seg.unload (g : Seg) (missLimit a : Nat) (v : Transfer) (y : Rec) : Seg :=
  if missLimit ≤ y.miss then { g with transfer := none }.setLost a y
  else if y.needs then { g with transfer := none }.requeue a y (higher v.cls y.derived) v.sequence
  else { g with transfer := none }.setOnline a y

theorem seg_loseRecord (ix : SegIx) (a : Nat) (y : Rec) (s : State) :
    (loseRecord ix a y s).seg ix = (s.seg ix).setLost a y ∧ ∀ j, j ≠ ix → (loseRecord ix a y s).seg j = s.seg j :=
  ⟨seg_setSeg_same s ix _, fun _ hj => seg_setSeg_other s _ hj⟩

theorem seg_leaveLoading (ix : SegIx) (a : Nat) (v : Transfer) (y : Rec) (s : State) :
    (leaveLoading ix a v y s).seg ix = (s.seg ix).unload s.missLimit a v y ∧ ∀ j, j ≠ ix → (leaveLoading ix a v y s).seg j = s.seg j := by
  unfold leaveLoading Seg.unload
  have hlimit : (s.setSeg ix { s.seg ix with transfer := none }).missLimit = s.missLimit := rfl
  simp only [hlimit, seg_setSeg_same]
  split_ifs
  · obtain ⟨hsame, hother⟩ := seg_loseRecord ix a y (s.setSeg ix { s.seg ix with transfer := none })
    exact ⟨by rw [hsame, seg_setSeg_same], fun j hj => by rw [hother j hj, seg_setSeg_other _ _ hj]⟩
  · exact ⟨seg_setSeg_same _ ix _, fun j hj => by rw [seg_setSeg_other _ _ hj, seg_setSeg_other _ _ hj]⟩
  · exact ⟨seg_setSeg_same _ ix _, fun j hj => by rw [seg_setSeg_other _ _ hj, seg_setSeg_other _ _ hj]⟩

section Unload

variable {g : Seg} {a : Nat} {x y : Rec} (hx : Table.get g.recs a = some x) (hl : x.state = .loading) (hghost : y.ghost = x.ghost ∧ y.cls = x.cls)
include hx hl hghost

theorem RestGood.unload (h : RestGood g) (missLimit : Nat) (v : Transfer) : RestGood (g.unload missLimit a v y) := by
  obtain ⟨hghost, hcls⟩ := hghost
  obtain ⟨-, -, -, -, hsequence⟩ := h.numbers
  have hdraw : x.reservedDraw = 0 := by
    unfold Rec.reservedDraw
    rw [hl]
  have hlimit : y.ghost ≤ ghostLimit y.cls := by
    rw [hghost, hcls]
    exact (h.each a x hx).ghost
  unfold Seg.unload
  split_ifs
  · exact h.out (y := { y with state := .lost }) hx (.inr rfl) hlimit (h.transfer.leave hx hl nofun) (by rw [hdraw]; rfl)
  · exact h.enter (y := { y with state := .queued }) (sequence := g.sequence) hx (by rw [hl]; nofun) hsequence rfl hdraw hlimit
      (h.transfer.leave hx hl nofun)
  · exact h.out (y := { y with state := .online }) hx (.inl rfl) hlimit (h.transfer.leave hx hl nofun) (by rw [hdraw]; rfl)

end Unload

theorem Seg.unload_fields (g : Seg) (missLimit a : Nat) (v : Transfer) (y : Rec) :
    (∃ state, (g.unload missLimit a v y).recs = Table.put g.recs a { y with state }) ∧ (g.unload missLimit a v y).bus = g.bus
      ∧ (g.unload missLimit a v y).mode = g.mode ∧ (g.unload missLimit a v y).rollAddr = g.rollAddr
      ∧ (g.unload missLimit a v y).stack = g.stack ∧ (g.unload missLimit a v y).transfer = none := by
  unfold Seg.unload
  split_ifs
  · exact ⟨⟨_, rfl⟩, rfl, rfl, rfl, rfl, rfl⟩
  · exact ⟨⟨_, rfl⟩, rfl, rfl, rfl, rfl, rfl⟩
  · exact ⟨⟨_, rfl⟩, rfl, rfl, rfl, rfl, rfl⟩

/-! ## A wanted face -/

/-- A segment whose record takes a wanted face (R72, R148, R161). -/
def Seg.wants (g : Seg) (missLimit a : Nat) (x y : Rec) : Seg :=
  match x.state, g.transfer with
  | .loading, some v =>
    if showing g a then { g with recs := Table.put g.recs a y }
    else if loadRuns g a then { g with recs := Table.put g.recs a y }.abandon v
    else { g with recs := Table.put g.recs a y }.unload missLimit a v y
  | _, _ => { g with recs := Table.put g.recs a y }.evaluate a .maint

theorem seg_wantedFaceChange {ix : SegIx} {a : Nat} {x : Rec} {s : State} (digest : Half) (template : Template) (hx : s.rec? ix a = some x) :
    (wantedFaceChange ix a digest template s).seg ix = (s.seg ix).wants s.missLimit a x (givenFace digest template x)
      ∧ ∀ j, j ≠ ix → (wantedFaceChange ix a digest template s).seg j = s.seg j := by
  have hput (j : SegIx) (hj : j ≠ ix) : (s.putRec ix a (givenFace digest template x)).seg j = s.seg j := seg_setSeg_other _ _ hj
  unfold Seg.wants
  split
  next v hs hv =>
    rw [wantedFaceChange_loading digest template hx hs hv]
    split_ifs
    · exact ⟨seg_setSeg_same _ _ _, hput⟩
    · refine ⟨?_, fun j hj => ?_⟩
      · rw [seg_setSeg_same, seg_putRec_same]
      · rw [seg_setSeg_other _ _ hj, hput j hj]
    · obtain ⟨hsame, hother⟩ := seg_leaveLoading ix a v (givenFace digest template x) (s.putRec ix a (givenFace digest template x))
      refine ⟨?_, fun j hj => ?_⟩
      · rw [hsame, seg_putRec_same]
        rfl
      · rw [hother j hj, hput j hj]
  next hno =>
    have hout : x.state ≠ .loading ∨ (s.seg ix).transfer = none := by
      by_cases hs : x.state = .loading
      · refine .inr ?_
        by_contra hv
        obtain ⟨v, hv⟩ := Option.ne_none_iff_exists'.1 hv
        exact hno v hs hv
      · exact .inl hs
    rw [wantedFaceChange_evaluates digest template hx hout]
    refine ⟨?_, fun j hj => ?_⟩
    · rw [seg_evaluate_same, seg_putRec_same]
    · rw [Machine.evaluate, seg_setSeg_other _ _ hj, hput j hj]

theorem SegLaws.wants {g : Seg} (h : SegLaws g) (missLimit : Nat) {a : Nat} {x y : Rec} (hx : Table.get g.recs a = some x) (hy : Alike x y) :
    SegLaws (g.wants missLimit a x y) := by
  have hput := h.alike hx hy
  unfold Seg.wants
  split
  next v hs hv =>
    have hyl : y.state = .loading := hy.1.trans hs
    obtain ⟨hrest, hb⟩ := (segLaws_iff _).1 hput
    obtain ⟨w, hw, hwa⟩ := (hrest.transfer.1 a y (Table.get_put_same _ _ _)).1 hyl
    rw [hv] at hw
    cases hw
    split_ifs with hshow hload
    · exact hput
    · refine (segLaws_iff _).2 ⟨⟨hrest.rising, hrest.numbers, hrest.each, hrest.queue, ?_, hrest.reserved, hrest.stack, hrest.stop⟩, ⟨fun e he => ?_, fun hno => ?_, hb.stems⟩⟩
      · obtain ⟨hsends, -⟩ := hrest.transfer.2 v hv
        have htransfer := hrest.transfer
        simp only [hv] at htransfer
        exact htransfer.update rfl rfl hsends
      · obtain ⟨i, n, d, hbus⟩ := (loadRuns_iff g a).1 hload
        have hbelongs := hb.exchange e he
        have hbus' : some (Exchange.load a i n d) = some e := hbus.symm.trans he
        cases hbus'
        obtain ⟨hp, u, hu, hbelongs⟩ := hbelongs
        rw [hv] at hu
        cases hu
        exact ⟨hp, _, rfl, hbelongs⟩
      · obtain ⟨i, n, d, hbus⟩ := (loadRuns_iff g a).1 hload
        exact absurd hbus (hno a i n d)
    · obtain ⟨⟨state, hrecs⟩, hbus, hmode, hroll, hstack, htransfer⟩ :=
        Seg.unload_fields { g with recs := Table.put g.recs a y } missLimit a v y
      refine (segLaws_iff _).2 ⟨hrest.unload (Table.get_put_same _ _ _) hyl ⟨rfl, rfl⟩ missLimit v,
        hb.put (x := y) (Table.get_put_same _ _ _) (stillOn_of_idle (.inr (.inr hyl))) hrecs hbus hmode hroll hstack (.inr ⟨htransfer, fun b i n d hl => ?_, fun b k d n hl => ?_⟩)⟩
      · obtain ⟨-, u, hu, hub, -⟩ := hb.exchange _ hl
        rw [hv] at hu
        cases hu
        exact hload ((loadRuns_iff g a).2 ⟨i, n, d, by rw [← hwa, hub]; exact hl⟩)
      · obtain ⟨-, u, hu, hub, -⟩ := hb.exchange _ hl
        rw [hv] at hu
        cases hu
        exact hshow ((showing_iff g a).2 ⟨k, d, n, by rw [← hwa, hub]; exact hl⟩)
  · exact hput.evaluate a .maint

end Sys2Proof.Machine
end

section
/-! PROOFS. The laws of every segment under the deliveries, the requests to PS and the load (spec: R71–R72, R111–R116, R121,
R129, R171). -/

namespace Sys2Proof.Machine

/-- A segment waits for the load (R129). -/
def Waits (g : Seg) : Prop := g.mode = .starting ∧ g.bus = none ∧ g.recs = []

/-- The laws of every segment, the records at distinct addresses. -/
def SegmentsOrdered (s : State) : Prop := (∀ ix, SegLaws (s.seg ix)) ∧ (s.ps.plan = .loading → ∀ ix, Waits (s.seg ix))

theorem SegmentsGood.ordered {s : State} (h : SegmentsGood s) (hs : RecordsGood s) : SegmentsOrdered s :=
  ⟨fun ix => ⟨hs.1 ix, (h ix).1⟩, fun hl ix => (h ix).2 hl⟩

theorem SegmentsOrdered.good {s : State} (h : SegmentsOrdered s) : SegmentsGood s := fun ix => ⟨(h.1 ix).2, fun hl => h.2 hl ix⟩

/-- What happens on one segment. -/
theorem laws_of_seg {s t : State} (h : ∀ j, SegLaws (s.seg j)) (ix : SegIx) (hix : SegLaws (t.seg ix)) (hother : ∀ j, j ≠ ix → t.seg j = s.seg j) :
    ∀ j, SegLaws (t.seg j) := by
  intro j
  by_cases hj : j = ix
  · rw [hj]
    exact hix
  · rw [hother j hj]
    exact h j

theorem laws_setSeg {s : State} (h : ∀ j, SegLaws (s.seg j)) {ix : SegIx} {g : Seg} (hg : SegLaws g) : ∀ j, SegLaws ((s.setSeg ix g).seg j) :=
  laws_of_seg h ix (by rw [seg_setSeg_same]; exact hg) (fun _ hj => seg_setSeg_other s g hj)

theorem laws_of_sc {s t : State} (h : ∀ j, SegLaws (s.seg j)) (hsc : t.sc = s.sc) : ∀ j, SegLaws (t.seg j) := fun j => by
  rw [State.seg, hsc]
  exact h j

theorem laws_putRec {s : State} (h : ∀ j, SegLaws (s.seg j)) {ix : SegIx} {a : Nat} {x y : Rec} (hx : s.rec? ix a = some x) (hy : Alike x y) :
    ∀ j, SegLaws ((s.putRec ix a y).seg j) := laws_setSeg h ((h ix).alike hx hy)

theorem laws_evaluate {s : State} (h : ∀ j, SegLaws (s.seg j)) (ix : SegIx) (a : Nat) : ∀ j, SegLaws ((evaluate ix a s).seg j) :=
  laws_setSeg h ((h ix).evaluate a .maint)

theorem alike_givenFace (digest : Half) (template : Template) (x : Rec) : Alike x (givenFace digest template x) := ⟨rfl, rfl, rfl⟩

theorem laws_wantedFaceChange {s : State} (h : ∀ j, SegLaws (s.seg j)) (ix : SegIx) (a : Nat) (digest : Half) (template : Template) :
    ∀ j, SegLaws ((wantedFaceChange ix a digest template s).seg j) := by
  cases hx : s.rec? ix a with
  | none =>
    have hnone : wantedFaceChange ix a digest template s = s := by
      unfold wantedFaceChange
      rw [hx]
    rw [hnone]
    exact h
  | some x =>
    obtain ⟨hsame, hother⟩ := seg_wantedFaceChange digest template hx
    exact laws_of_seg h ix (by rw [hsame]; exact (h ix).wants s.missLimit hx (alike_givenFace digest template x)) hother

theorem recomputeSlot_sc_cases (slot : Nat) (s : State) : (recomputeSlot slot s).sc = s.sc
    ∨ ∃ h digest template, s.holder slot = some h
      ∧ (recomputeSlot slot s).sc = (wantedFaceChange h.seg h.address digest template s).sc := by
  cases hh : s.holder slot with
  | none =>
    refine .inl ?_
    unfold recomputeSlot
    rw [hh]
    cases Table.get s.ps.panels slot <;> rfl
  | some h =>
    rcases recomputeSlot_delivers hh with hsame | ⟨digest, template, hsc⟩
    · exact .inl hsame
    · exact .inr ⟨h, digest, template, rfl, hsc⟩

theorem laws_recomputeSlot {s : State} (h : ∀ j, SegLaws (s.seg j)) (slot : Nat) : ∀ j, SegLaws ((recomputeSlot slot s).seg j) := by
  rcases recomputeSlot_sc_cases slot s with hsame | ⟨p, digest, template, -, hsc⟩
  · exact laws_of_sc h hsame
  · exact laws_of_sc (laws_wantedFaceChange h p.seg p.address digest template) hsc

theorem alike_floored (floor : Int) (x : Rec) : Alike x (x.floored floor) := ⟨rfl, rfl, rfl⟩

theorem laws_judgeColdAt {s : State} (h : ∀ j, SegLaws (s.seg j)) (ix : SegIx) (a : Nat) : ∀ j, SegLaws ((judgeColdAt ix a s).seg j) := by
  cases hx : s.rec? ix a with
  | none =>
    rw [judgeColdAt_none hx]
    exact h
  | some x =>
    by_cases hsame : decide (x.temp < s.ps.options.refreshFloor) = x.cold
    · rw [judgeColdAt_same hx hsame]
      exact h
    · rw [judgeColdAt_changed hx hsame]
      exact laws_evaluate (laws_of_sc (laws_putRec h hx (alike_floored _ x)) (raiseIf_sc _ _ _)) ix a

theorem laws_markMaintenance {s : State} (h : ∀ j, SegLaws (s.seg j)) (ix : SegIx) (a : Nat) : ∀ j, SegLaws ((markMaintenance ix a s).seg j) := by
  unfold markMaintenance
  split
  · exact h
  next x hx =>
    split_ifs
    · refine laws_evaluate (laws_putRec h hx ?_) ix a
      exact ⟨rfl, rfl, rfl⟩
    · exact h

theorem markMaintenance_empty (ix : SegIx) (a : Nat) (s : State) : EmptyStands s (markMaintenance ix a s) := by
  cases hx : s.rec? ix a with
  | none =>
    unfold markMaintenance
    rw [hx]
    exact .of_sc rfl
  | some x =>
    refine .of_only (a := a) hx ?_
    unfold markMaintenance
    rw [hx]
    simp only
    split_ifs
    · exact (OnlyRecord.putRec ix a _ s).trans (.evaluate ix a _)
    · exact .refl ix a s

theorem SegmentsOrdered.step {s t : State} (h : SegmentsOrdered s) (hlaws : ∀ j, SegLaws (t.seg j)) (hplan : t.ps.plan = .loading → s.ps.plan = .loading)
    (hempty : EmptyStands s t) : SegmentsOrdered t := by
  refine ⟨hlaws, fun hl ix => ?_⟩
  have hwaits := h.2 (hplan hl) ix
  rw [hempty ix hwaits.2.2]
  exact hwaits

theorem deliveries_segments : Deliveries SegmentsOrdered where
  aside _ _ ha hs := hs.step (laws_of_sc hs.1 ha.sc) ha.loading (.of_sc ha.sc)
  slot n s hs := hs.step (laws_recomputeSlot hs.1 n) (by rw [(recomputeSlot_segWork n s).ps]; exact id) (recomputeSlot_empty n s)
  cold ix a s hs := hs.step (laws_judgeColdAt hs.1 ix a) (by rw [(judgeColdAt_segWork ix a s).ps]; exact id) (judgeColdAt_empty ix a s)
  quiet ix a s hs := hs.step (laws_markMaintenance hs.1 ix a) (by rw [(markMaintenance_segWork ix a s).ps]; exact id) (markMaintenance_empty ix a s)

/-! ## Slots of PS -/

theorem makeStray_ordered {s : State} (h : SegmentsOrdered s) (ix : SegIx) (a : Nat) : SegmentsOrdered (makeStray ix a s) := by
  unfold makeStray
  split
  · exact h
  next x hx =>
    split
    · exact h
    next slot hb =>
      have hput : SegmentsOrdered (s.putRec ix a { x with binding := none }) :=
        h.step (laws_putRec h.1 hx ⟨rfl, rfl, rfl⟩) id (.of_only hx (OnlyRecord.putRec ix a _ s))
      have hlost := deliveries_segments.aside _ _ (.raise .stray _) hput
      have hlost : SegmentsOrdered (loseBinding slot (resolverLoses slot (raise .stray (s.putRec ix a { x with binding := none })))) :=
        hlost.step (laws_of_sc hlost.1 (by rw [loseBinding, resolverLoses_eq])) (by rw [loseBinding_ps, resolverLoses_eq]; exact id)
          (.of_sc (by rw [loseBinding, resolverLoses_eq]))
      exact hlost.step (laws_wantedFaceChange hlost.1 ix a blankDigest .blank) (by rw [(wantedFaceChange_segWork ix a _ _ _).ps]; exact id)
        (wantedFaceChange_empty ix a _ _ _)

theorem strayHolder_ordered {s : State} (h : SegmentsOrdered s) (slot : Nat) : SegmentsOrdered (strayHolder slot s) := by
  unfold strayHolder
  split
  · exact makeStray_ordered h _ _
  · exact h

theorem bindRecord_ordered {s : State} (h : SegmentsOrdered s) (ix : SegIx) (a slot : Nat) : SegmentsOrdered (bindRecord ix a slot s) := by
  cases hx : s.rec? ix a with
  | none =>
    unfold bindRecord
    rw [hx]
    exact h
  | some x =>
    rw [bindRecord_eq slot hx]
    have hput : SegmentsOrdered (s.putRec ix a { x with binding := some slot }) :=
      h.step (laws_putRec h.1 hx ⟨rfl, rfl, rfl⟩) id (.of_only hx (OnlyRecord.putRec ix a _ s))
    refine deliveries_segments.slot slot _ ?_
    exact hput.step (laws_of_sc hput.1 (resolverLoses_sc slot _)) (by rw [resolverLoses_eq]; exact id) (.of_sc (resolverLoses_sc slot _))

theorem workBinding_ordered {s : State} (h : SegmentsOrdered s) (slot : Nat) (before : Option Serial) (serial : Serial) :
    SegmentsOrdered (workBinding slot before serial s) := by
  rw [workBinding_eq]
  split_ifs
  · exact deliveries_segments.slot slot s h
  · have hstray := strayHolder_ordered h slot
    unfold bindSlot
    split
    · exact hstray
    · exact bindRecord_ordered (deliveries_segments.raiseIf _ .panel hstray) _ _ _

theorem BlockRequest.ordered {s t : State} (h : BlockRequest s t) (ht : TablesGood s) (hs : SegmentsOrdered s) : SegmentsOrdered t := by
  have hpanels (panels : Table PanelSlot) : SegmentsOrdered { s with ps := { s.ps with panels } } := hs.step hs.1 id (.of_sc rfl)
  refine h.keeps deliveries_segments ht hs (fun n _ pin _ _ => ?_) (fun n p _ => ?_) (fun n => ?_)
  · exact hs.step hs.1 id (.of_sc rfl)
  · exact workBinding_ordered (deliveries_segments.aside _ _ (setPages_aside n p.role _) (hpanels _)) _ _ _
  · exact deliveries_segments.aside _ _ (discardPages_aside n _) (strayHolder_ordered (hpanels _) n)

/-! ## The load -/

/-- An exchange that no transfer and no stem belongs to is started between two exchanges. -/
theorem Between.start {g : Seg} (h : Between g) {e : Exchange} (he : e.belongs g) (hask : ∀ stem, e ≠ .ask stem) : SegLaws { g with bus := some e } := by
  refine (segLaws_iff _).2 ⟨h.rest.withBus _, ⟨fun e' he' => ?_, fun _ => h.settled, ?_⟩⟩
  · cases he'
    cases e <;> exact he
  · unfold Seg.stems
    split
    next stem hbus => exact absurd (Option.some.inj hbus) (hask stem)
    · exact h.stems

theorem SegLaws.between_starting {g : Seg} (h : SegLaws g) (hmode : g.mode = .starting) : Between g := by
  have hno {e : Exchange} (he : g.bus = some e) := h.2.exchange e he
  refine h.between (fun a i n d hbus => ?_) (fun stem hbus => ?_)
  · obtain ⟨hp, -⟩ := hno hbus
    unfold Seg.polls at hp
    rw [hmode] at hp
    rcases hp with hp | hp <;> cases hp
  · have hm : g.mode = .searching := hno hbus
    rw [hmode] at hm
    cases hm

theorem SegLaws.rolled {g : Seg} (h : SegLaws g) : SegLaws g.rolled := by
  unfold Seg.rolled
  split_ifs with hmode
  · exact (h.between_starting hmode).start ⟨hmode, rfl⟩ nofun
  · exact h

theorem beginRollCalls_ordered {s : State} (h : SegmentsOrdered s) (hplan : s.ps.plan ≠ .loading) : SegmentsOrdered (beginRollCalls s) := by
  refine ⟨fun ix => ?_, fun hl => absurd ?_ hplan⟩
  · rw [seg_beginRollCalls]
    exact (h.1 ix).rolled
  · rw [beginRollCalls_eq] at hl
    exact hl

theorem endLoadImage_ordered (answers : Bool) {s : State} (hs : SegmentsOrdered s) : SegmentsOrdered (endLoadImage answers s) := by
  have hP : Deliveries (fun u => SegmentsOrdered u ∧ u.ps.plan ≠ .loading) :=
    ⟨fun _ _ ha hu => ⟨deliveries_segments.aside _ _ ha hu.1, fun hl => hu.2 (ha.loading hl)⟩,
      fun n u hu => ⟨deliveries_segments.slot n u hu.1, by rw [(recomputeSlot_segWork n u).ps]; exact hu.2⟩,
      fun ix a u hu => ⟨deliveries_segments.cold ix a u hu.1, by rw [(judgeColdAt_segWork ix a u).ps]; exact hu.2⟩,
      fun ix a u hu => ⟨deliveries_segments.quiet ix a u hu.1, by rw [(markMaintenance_segWork ix a u).ps]; exact hu.2⟩⟩
  by_cases hload : s.ps.plan = .loading
  · have hplaced : SegmentsOrdered (placed answers s) ∧ (placed answers s).ps.plan ≠ .loading := by
      obtain ⟨-, -, -, -, -, -, -, hsc, -⟩ := placed_rest answers s
      have hplan : (placed answers s).ps.plan ≠ .loading := by
        rcases placed_cases answers s with heq | ⟨revision, i, heq, -⟩
        · rw [heq]
          nofun
        · rw [heq]
          nofun
      exact ⟨⟨laws_of_sc hs.1 hsc, fun hl => absurd hl hplan⟩, hplan⟩
    unfold endLoadImage
    rw [if_pos hload]
    refine (deliverLoadEnd_delivers hP (fun u hu => ⟨beginRollCalls_ordered hu.1 hu.2, ?_⟩) s.ps.options hplaced).1
    rw [(beginRollCalls_segWork u).ps]
    exact hu.2
  · unfold endLoadImage
    rw [if_neg hload]
    exact hs

end Sys2Proof.Machine
end

section
/-! PROOFS. The laws of a segment when its next exchange is chosen (spec: R117, R122, R129, R134, R137–R139, R143, R154–R159). -/

namespace Sys2Proof.Machine

/-! ## Between two exchanges -/

theorem Between.alter {g g' : Seg} (h : Between g) (hrecs : g'.recs = g.recs) (hmode : g'.mode = g.mode) (hroll : g'.rollAddr = g.rollAddr)
    (hqueue : g'.queue = g.queue) (htransfer : g'.transfer = g.transfer) (hreserved : g'.reserved = g.reserved) (hstack : g'.stack = g.stack)
    (hsequence : g'.sequence = g.sequence) (hstop : g'.stopWaiting = true → g.stopWaiting = true)
    (hdrops : (∀ a, a ∈ g'.drops → 1 ≤ a ∧ a ≤ 96) ∧ g'.drops.Pairwise (· < ·)) (hpointer : 1 ≤ g'.pointer ∧ g'.pointer ≤ 96) : Between g' := by
  obtain ⟨⟨hrising, ⟨-, -, -, hrollRange, hsequenceRange⟩, heach, hq, ht, hr, hst, hsp⟩, hsettled, hstems⟩ := h
  refine ⟨⟨?_, ⟨hdrops.1, hdrops.2, hpointer, ?_, ?_⟩, ?_, ?_, ?_, ?_, ?_, ?_⟩, ?_, ?_⟩
  · rw [hrecs]; exact hrising
  · rw [hroll]; exact hrollRange
  · rw [hsequence]; exact hsequenceRange
  · rw [hrecs, hmode, hroll]; exact heach
  · rw [hrecs, hqueue]; exact hq
  · rw [hrecs, htransfer]; exact ht
  · rw [hrecs, hreserved]; exact hr
  · rw [hmode, hstack]; exact hst
  · rw [hmode]; exact fun hs => hsp (hstop hs)
  · rw [htransfer]; exact hsettled
  · rw [hstack]; exact hstems

theorem Between.drops {g : Seg} (h : Between g) : (∀ a, a ∈ g.drops → 1 ≤ a ∧ a ≤ 96) ∧ g.drops.Pairwise (· < ·) :=
  ⟨h.rest.numbers.1, h.rest.numbers.2.1⟩

theorem Between.pointer {g : Seg} (h : Between g) : 1 ≤ g.pointer ∧ g.pointer ≤ 96 := h.rest.numbers.2.2.1

theorem RestGood.withTransfer {g : Seg} (h : RestGood g) {transfer : Option Transfer} (ht : TransferGood g.recs transfer) :
    RestGood { g with transfer } := ⟨h.rising, h.numbers, h.each, h.queue, ht, h.reserved, h.stack, h.stop⟩

/-! ## The frames of a transfer -/

theorem Between.startLoad {g : Seg} (h : Between g) (hp : g.polls) {v : Transfer} (hv : g.transfer = some v) : SegLaws (g.startLoad v) := by
  have htransfer := h.rest.transfer
  rw [hv] at htransfer
  obtain ⟨hsends, -⟩ := h.settled v hv
  have hrest := h.rest.withTransfer (htransfer.update (w := { v with sends := v.sends + 1, ready := false }) rfl rfl (by simp only; omega))
  refine (segLaws_iff _).2 ⟨hrest.withBus _, ⟨fun e he => ?_, fun hno => absurd rfl (hno _ _ _ _), h.stems⟩⟩
  cases he
  exact ⟨hp, _, rfl, rfl, rfl, rfl, rfl, rfl⟩

theorem Between.withReady {g : Seg} (h : Between g) {v : Transfer} (hv : g.transfer = some v) (ready : Bool) :
    Between { g with transfer := some { v with ready } } := by
  have htransfer := h.rest.transfer
  rw [hv] at htransfer
  obtain ⟨hsends, hstands⟩ := h.settled v hv
  refine ⟨h.rest.withTransfer (htransfer.update (w := { v with ready }) rfl rfl (by simp only; omega)), fun w hw => ?_, h.stems⟩
  cases hw
  exact ⟨hsends, hstands⟩

theorem Between.startTransferFrame {g g' : Seg} (h : Between g) (hp : g.polls) (hg' : g.startTransferFrame = some g') : SegLaws g' := by
  unfold Seg.startTransferFrame at hg'
  split at hg'
  · cases hg'
  next v hv =>
    split_ifs at hg' with hready hnext
    · cases hg'
      exact h.startLoad hp hv
    · obtain ⟨r, -, hshow⟩ := Option.map_eq_some_iff.1 hg'
      cases hshow
      exact (h.withReady hv false).start (e := .showFace _ _ _ _) ⟨hp, _, rfl, rfl, rfl, rfl, Nat.le_of_not_lt hnext⟩ nofun

/-! ## Admission -/

theorem kindOf_part {x : Rec} (h : kindOf x = .part) : x.ghost < ghostLimit x.cls := by
  rw [kindOf_eq] at h
  split_ifs at h with hpart
  exact hpart.2.2.1

/-- A record out of the queue and into LOADING, its transfer set up (R155, R156). -/
def Seg.admitted (g : Seg) (f : Found) (x : Rec) (v : Transfer) : Seg :=
  { g with
    recs := Table.put g.recs f.entry.address { x with state := .loading }
    queue := passOver f.skipped (leaveQueue f.entry.address g.queue)
    transfer := some v }

theorem Between.admitted {g : Seg} (h : Between g) (hp : g.polls) (hidle : g.transfer = none) {f : Found} {x : Rec}
    (hx : Table.get g.recs f.entry.address = some x) (hq : x.state = .queued) (hkind : f.kind = kindOf x) {v : Transfer}
    (hv : v.address = f.entry.address ∧ v.kind = f.kind ∧ v.sends = 0 ∧ v.abandoned = false) : Between (g.admitted f x v) := by
  obtain ⟨haddress, hvkind, hsends, hstands⟩ := hv
  obtain ⟨-, -, -, -, hsequence⟩ := h.rest.numbers
  have heach := h.rest.each _ x hx
  have htransfer := h.rest.transfer
  rw [hidle] at htransfer
  have hleave : QueueGood (Table.put g.recs f.entry.address { x with state := .loading }) (leaveQueue f.entry.address g.queue) := by
    refine h.rest.queue.leave (fun r hr => ?_) (fun b hb => Table.get_put_other _ _ hb)
    rw [Table.get_put_same] at hr
    cases hr
    nofun
  refine ⟨h.rest.change (y := { x with state := .loading }) (sequence := g.sequence) (reserved := g.reserved) hx hsequence heach.ghost nofun (fun hno => absurd hp hno)
    (hleave.passOver f.skipped) (htransfer.enter (v := v) rfl haddress (by omega) (fun hk => ?_)) ?_, fun w hw => ?_, h.stems⟩
  · exact kindOf_part (hkind.symm.trans (hvkind.symm.trans hk))
  · rw [draw_of_idle (.inr (.inl hq))]
    rfl
  · cases hw
    exact ⟨by omega, hstands⟩

theorem scanQueue_found {g : Seg} (h : RestGood g) {held : Bool} {budget limit : Nat} {f : Found}
    (hf : scanQueue g.recs held budget g.reserved limit g.queue = some f) :
    ∃ x, Table.get g.recs f.entry.address = some x ∧ x.state = .queued ∧ f.kind = kindOf x := by
  obtain ⟨-, -, -, ⟨x, hx, hkind⟩, before, after, hqueue, -⟩ := scanQueue_admits (fun e he => by
    obtain ⟨r, hr, -⟩ := h.queue.queued_of_mem he
    rw [hr]
    rfl) hf
  obtain ⟨r, hr, hq⟩ := h.queue.queued_of_mem (e := f.entry) (by rw [hqueue]; simp)
  rw [hx] at hr
  cases hr
  exact ⟨x, hx, hq, hkind⟩

/-! ## The use order -/

theorem RestGood.retimed {g : Seg} (h : RestGood g) {a : Nat} {x y : Rec} {f f' : Refresh} (hx : Table.get g.recs a = some x)
    (hf : x.state = .refreshing f) (hy : y.state = .refreshing f') (hghost : y.ghost = x.ghost ∧ y.cls = x.cls)
    (hsame : f'.draw = f.draw ∧ f'.kind = f.kind) : RestGood { g with recs := Table.put g.recs a y } := by
  have heach := h.each a x hx
  obtain ⟨hghost, hcls⟩ := hghost
  obtain ⟨hdraw, hkind⟩ := hsame
  refine h.replace hx (by rw [hf, hy]; exact ⟨nofun, nofun⟩) (by rw [hf, hy]; exact ⟨nofun, nofun⟩) ?_ ?_ (fun f'' hf'' hk => ?_) (fun hp f'' hf'' => ?_)
    (fun _ => ⟨hghost, hcls⟩)
  · unfold Rec.reservedDraw
    rw [hf, hy]
    exact hdraw
  · rw [hghost, hcls]
    exact heach.ghost
  · rw [hy] at hf''
    cases hf''
    rw [hghost, hcls]
    exact heach.part f hf (hkind.symm.trans hk)
  · exact (heach.quiet hp).2 f hf

theorem Between.startCompletion {g : Seg} (h : Between g) (hp : g.polls) {a : Nat} {x : Rec} {f : Refresh} (hx : Table.get g.recs a = some x)
    (hf : x.state = .refreshing f) : SegLaws (g.startCompletion a) := by
  rw [Seg.startCompletion_eq h.rest.rising hx hf]
  have hput : Between { g with recs := Table.put g.recs a { x with state := .refreshing { f with due := none } } } :=
    ⟨h.rest.retimed hx hf rfl ⟨rfl, rfl⟩ ⟨rfl, rfl⟩, h.settled, h.stems⟩
  exact hput.start (e := .completion a) ⟨hp, _, { f with due := none }, Table.get_put_same _ _ _, rfl⟩ nofun

theorem firstDue_refreshing {g : Seg} (hr : Table.rising g.recs = true) {d a : Nat} (h : firstDue g.recs = some (d, a)) :
    ∃ x f, Table.get g.recs a = some x ∧ x.state = .refreshing f := by
  obtain ⟨-, hsome⟩ := firstDue_spec ((Table.rising_iff _).1 hr)
  obtain ⟨⟨x, hx, hd⟩, -⟩ := hsome d a h
  obtain ⟨f, hf, -⟩ := refreshing_of_dueTime hd
  exact ⟨x, f, Table.get_of_mem hr hx, hf⟩

theorem roundRobin_mem {recs : Table Rec} {pointer : Nat} {e : Nat × Rec} (h : roundRobin recs pointer = some e) : e ∈ recs := by
  unfold roundRobin at h
  split at h
  next e' hfind =>
    cases h
    exact List.mem_of_find?_eq_some hfind
  · exact List.mem_of_mem_head? h

theorem Between.startRoundRobin {g : Seg} (h : Between g) (hp : g.polls) (hbus : g.bus = none) : SegLaws g.startRoundRobin := by
  unfold Seg.startRoundRobin
  split
  · exact h.quiet hbus
  next a r hfirst =>
    split_ifs with hl
    · refine h.start (e := .probe a) ⟨hp, fun r' hr' => ?_⟩ nofun
      rw [Table.get_of_mem h.rest.rising (roundRobin_mem hfirst)] at hr'
      cases hr'
      exact hl
    · exact h.start (e := .poll a) hp nofun

/-- What the choice of an exchange on one segment leaves: its laws, and the other segments. -/
def LeavesLaws (ix : SegIx) (s t : State) : Prop := SegLaws (t.seg ix) ∧ ∀ j, j ≠ ix → t.seg j = s.seg j

theorem leavesLaws_setSeg {ix : SegIx} {g : Seg} (s : State) (h : SegLaws g) : LeavesLaws ix s (s.setSeg ix g) :=
  ⟨by rw [seg_setSeg_same]; exact h, fun _ hj => seg_setSeg_other s g hj⟩

theorem chooseByUse_laws {ix : SegIx} {s : State} (h : Between (s.seg ix)) (hp : (s.seg ix).polls) (hbus : (s.seg ix).bus = none) :
    LeavesLaws ix s (chooseByUse ix s) := by
  unfold chooseByUse
  simp only
  split
  · exact leavesLaws_setSeg s (h.start (e := .drop _) hp nofun)
  · split
    next a hdue =>
      obtain ⟨x, f, hx, hf⟩ := firstDue_refreshing h.rest.rising hdue
      exact leavesLaws_setSeg s (h.startCompletion hp hx hf)
    · split
      next g' hg' => exact leavesLaws_setSeg s (h.startTransferFrame hp hg')
      · split
        next f x hadmit =>
          unfold admission at hadmit
          simp only at hadmit
          split_ifs at hadmit with hrun
          split at hadmit
          next f' hf' =>
            obtain ⟨x', hx', hq, hkind⟩ := scanQueue_found h.rest hf'
            rw [hx', Option.map_some, Option.some.injEq] at hadmit
            cases hadmit
            have hadmitted := h.admitted hp hrun.2 hx' hq hkind (v := s.transferFor x f) ⟨rfl, rfl, rfl, rfl⟩
            exact leavesLaws_setSeg s (hadmitted.startLoad hp rfl)
          · cases hadmit
        · exact leavesLaws_setSeg s (h.startRoundRobin hp hbus)

/-! ## By mode -/

theorem Between.drained {g : Seg} (h : Between g) (hmode : g.mode = .draining) (hd : g.drained = true) : SegLaws g.enterKeying := by
  obtain ⟨-, -, hquiet⟩ := (drained_iff g).1 hd
  obtain ⟨⟨hrising, hnumbers, heach, hq, ht, hr, hst, -⟩, hsettled, hstems⟩ := h
  have hkeying : Between { g with mode := .keying } := by
    refine ⟨⟨hrising, hnumbers, fun a r hget => ?_, hq, ht, hr, fun _ => hst (by rw [hmode]; nofun), fun _ => .inl rfl⟩, hsettled, hstems⟩
    obtain ⟨haddress, hghost, hpart, -, -⟩ := heach a r hget
    exact ⟨haddress, hghost, hpart, fun _ => hquiet _ (mem_of_get hget), nofun⟩
  exact hkeying.start (e := .key) rfl nofun

theorem stemsGood_nil : StemsGood [] := .inr ⟨Nat.zero_le _, nofun, .nil, .nil⟩

theorem Between.ended {g : Seg} (h : Between g) (lastEnrol : Option (EnrolResult × Nat)) :
    Between { g with stack := [], stopWaiting := false, lastEnrol, mode := .run } := by
  obtain ⟨⟨hrising, hnumbers, heach, hq, ht, hr, -, -⟩, hsettled, -⟩ := h
  refine ⟨⟨hrising, hnumbers, fun a r hget => ?_, hq, ht, hr, fun _ => rfl, nofun⟩, hsettled, stemsGood_nil⟩
  obtain ⟨haddress, hghost, hpart, -, -⟩ := heach a r hget
  exact ⟨haddress, hghost, hpart, fun hno => absurd (.inl rfl) hno, nofun⟩

theorem endEnrolment_laws {ix : SegIx} {s : State} (result : EnrolResult) (h : Between (s.seg ix)) (hbus : (s.seg ix).bus = none) :
    LeavesLaws ix s (chooseByUse ix (endEnrolment ix result s)) := by
  have hseg := seg_endEnrolment ix result s
  have hended : Between ((endEnrolment ix result s).seg ix) := by
    rw [hseg]
    exact h.ended _
  obtain ⟨hlaws, hother⟩ := chooseByUse_laws hended (.inl (by rw [hseg])) (by rw [hseg]; exact hbus)
  exact ⟨hlaws, fun j hj => (hother j hj).trans (seg_setSeg_other s _ hj)⟩

theorem chooseNext_laws {ix : SegIx} {s : State} (h : Between (s.seg ix)) (hbus : (s.seg ix).bus = none) :
    LeavesLaws ix s (chooseNext ix s) := by
  have hstands : LeavesLaws ix s s := ⟨h.quiet hbus, fun _ _ => rfl⟩
  cases hm : (s.seg ix).mode with
  | run =>
    rw [chooseNext_run hm]
    exact chooseByUse_laws h (.inl hm) hbus
  | draining =>
    unfold chooseNext
    simp only [hm]
    split_ifs with hd
    · exact leavesLaws_setSeg s (h.drained hm hd)
    · exact chooseByUse_laws h (.inr hm) hbus
  | keying =>
    rw [chooseNext_keying hm]
    exact leavesLaws_setSeg s (h.start (e := .key) hm nofun)
  | searching =>
    cases hstop : (s.seg ix).stopWaiting with
    | true =>
      rw [chooseNext_stopped hm hstop]
      exact endEnrolment_laws .stopped h hbus
    | false =>
      cases hstack : (s.seg ix).stack with
      | nil =>
        rw [chooseNext_done hm hstop hstack]
        exact endEnrolment_laws .done h hbus
      | cons stem rest =>
        rw [chooseNext_asks hm hstop hstack]
        refine leavesLaws_setSeg s ((segLaws_iff _).2 ⟨?_, ⟨fun e he => ?_, fun _ => h.settled, ?_⟩⟩)
        · exact ⟨h.rest.rising, h.rest.numbers, h.rest.each, h.rest.queue, h.rest.transfer, h.rest.reserved, fun hno => absurd hm hno, h.rest.stop⟩
        · cases he
          exact hm
        · have hstems := h.stems
          rw [hstack] at hstems
          exact hstems
  | starting =>
    rw [chooseNext_starting hm]
    split_ifs
    · exact hstands
    · exact leavesLaws_setSeg s (h.start (e := .rollIdent _) ⟨hm, rfl⟩ nofun)

theorem endExchange_laws {ix : SegIx} {s : State} (h : Between (s.seg ix)) : LeavesLaws ix s (endExchange ix s) := by
  have hchosen {t : Option Transfer} (ht : Between { s.seg ix with transfer := t }) :
      LeavesLaws ix s (chooseNext ix (s.setSeg ix { s.seg ix with bus := none, transfer := t })) := by
    obtain ⟨hlaws, hother⟩ := chooseNext_laws (ix := ix) (s := s.setSeg ix { s.seg ix with bus := none, transfer := t })
      (by rw [seg_setSeg_same]; exact ⟨ht.rest.withBus none, ht.settled, ht.stems⟩) (by rw [seg_setSeg_same])
    exact ⟨hlaws, fun j hj => (hother j hj).trans (seg_setSeg_other s _ hj)⟩
  unfold endExchange
  simp only
  refine hchosen ?_
  have hready : Between { s.seg ix with transfer := (s.seg ix).transfer.map (fun t => { t with ready := true }) } := by
    cases hv : (s.seg ix).transfer with
    | none =>
      have htransfer := h.rest.transfer
      rw [hv] at htransfer
      exact ⟨h.rest.withTransfer htransfer, nofun, h.stems⟩
    | some v => exact h.withReady hv true
  split
  · exact h
  · exact hready

end Sys2Proof.Machine
end

section
/-! PROOFS. The laws of the segments when a poll, a probe or a DROP ends (spec: R114, R117–R122, R126). -/

namespace Sys2Proof.Machine

/-- One segment stands between two exchanges, every other keeps its laws. -/
structure OpenAt (ix : SegIx) (s : State) : Prop where
  here : Between (s.seg ix)
  others : ∀ j, j ≠ ix → SegLaws (s.seg j)

/-- An exchange other than a LOAD and an ASK opens its segment when it ends. -/
theorem openAt_of_bus {s : State} (h : ∀ j, SegLaws (s.seg j)) {ix : SegIx} {e : Exchange} (hbus : (s.seg ix).bus = some e)
    (hload : ∀ a i n d, e ≠ .load a i n d) (hask : ∀ stem, e ≠ .ask stem) : OpenAt ix s := by
  refine ⟨(h ix).between (fun a i n d he => ?_) (fun stem he => ?_), fun j _ => h j⟩
  · exact hload a i n d (Option.some.inj (hbus.symm.trans he))
  · exact hask stem (Option.some.inj (hbus.symm.trans he))

namespace OpenAt

variable {ix : SegIx} {s t : State} {a : Nat} {x y : Rec}

theorem of_seg (h : OpenAt ix s) (hix : Between (t.seg ix)) (hother : ∀ j, j ≠ ix → t.seg j = s.seg j) : OpenAt ix t :=
  ⟨hix, fun j hj => by rw [hother j hj]; exact h.others j hj⟩

theorem of_sc (h : OpenAt ix s) (hsc : t.sc = s.sc) : OpenAt ix t := by
  have hseg (j : SegIx) : t.seg j = s.seg j := by rw [State.seg, hsc]; rfl
  exact h.of_seg (by rw [hseg]; exact h.here) (fun j _ => hseg j)

theorem setSeg (h : OpenAt ix s) {g : Seg} (hg : Between g) : OpenAt ix (s.setSeg ix g) :=
  h.of_seg (by rw [seg_setSeg_same]; exact hg) (fun _ hj => seg_setSeg_other s g hj)

theorem putRec (h : OpenAt ix s) (hx : s.rec? ix a = some x) (hy : Alike x y) : OpenAt ix (s.putRec ix a y) :=
  h.setSeg (h.here.alike hx hy)

theorem evaluate (h : OpenAt ix s) (a : Nat) : OpenAt ix (evaluate ix a s) := h.setSeg (h.here.evaluate a .maint)

theorem movePointer (h : OpenAt ix s) (a : Nat) : OpenAt ix (movePointer ix a s) := by
  refine h.setSeg (h.here.alter rfl rfl rfl rfl rfl rfl rfl rfl id h.here.drops ?_)
  unfold nextPointer Config.addresses
  simp only
  split_ifs <;> omega

/-- The exchange ends, and every segment keeps its laws. -/
theorem endExchange (h : OpenAt ix s) (j : SegIx) : SegLaws ((endExchange ix s).seg j) := by
  obtain ⟨hlaws, hother⟩ := endExchange_laws h.here
  by_cases hj : j = ix
  · rw [hj]
    exact hlaws
  · rw [hother j hj]
    exact h.others j hj

end OpenAt

/-! ## Polls -/

theorem alike_heard (floor : Int) (rep : StateReport) (shown : Option Half) (x : Rec) :
    Alike x { x.heardState floor rep with shown } := ⟨rfl, rfl, rfl⟩

theorem pollMissed_open {ix : SegIx} {a : Nat} {x : Rec} {s : State} (h : OpenAt ix s) (hx : s.rec? ix a = some x) :
    OpenAt ix (pollMissed ix a x s) := by
  unfold pollMissed
  simp only
  split_ifs with hlost
  · obtain ⟨hsame, hother⟩ := seg_loseRecord ix a { x with miss := missed x.miss } s
    refine h.of_seg ?_ hother
    rw [hsame]
    exact h.here.lose hx ((idle_iff x.state).1 hlost.1) ⟨rfl, rfl⟩
  · exact h.putRec hx ⟨rfl, rfl, rfl⟩

theorem pollOutcome_open {ix : SegIx} {s : State} (h : OpenAt ix s) (a : Nat) (heard : Heard) :
    OpenAt ix (pollOutcome ix a heard s) := by
  unfold pollOutcome
  split
  · exact h
  next x hx =>
    split
    · exact ((h.putRec hx (alike_heard _ _ _ x)).of_sc (raiseIf_sc _ _ _)).evaluate a
    · exact pollMissed_open h hx
    · exact pollMissed_open h hx

theorem endPoll_laws {s : State} (h : ∀ j, SegLaws (s.seg j)) (ix : SegIx) (heard : Heard) :
    ∀ j, SegLaws ((endPoll ix heard s).seg j) := by
  unfold endPoll
  split
  next a hbus => exact ((pollOutcome_open (openAt_of_bus h hbus nofun nofun) a heard).movePointer a).endExchange
  · exact h

/-! ## Records deleted -/

theorem RestGood.delete {g : Seg} (h : RestGood g) {a : Nat} {x : Rec} (hx : Table.get g.recs a = some x) : RestGood (g.delete a x) where
  rising := Table.rising_filter h.rising _
  numbers := h.numbers
  each b r hr := by
    simp only [Seg.delete, Table.get_del] at hr
    split_ifs at hr
    exact h.each b r hr
  queue := h.queue.leave (fun r hr => by simp only [Seg.delete, Table.get_del_same] at hr; cases hr) (fun b hb => Table.get_del_other _ hb)
  transfer := h.transfer.delete a
  reserved := by
    have hsum := drawSum_del h.rising hx
    have hreserved := h.reserved
    simp only [Seg.delete]
    omega
  stack := h.stack
  stop := h.stop

theorem Between.delete {g : Seg} (h : Between g) {a : Nat} {x : Rec} (hx : Table.get g.recs a = some x) : Between (g.delete a x) := by
  refine ⟨h.rest.delete hx, fun v hv => h.settled v ?_, h.stems⟩
  simp only [Seg.delete] at hv
  split_ifs at hv
  exact hv

/-- A record neither LOADING nor REFRESHING is deleted whatever the bus does. -/
theorem SegLaws.delete {g : Seg} (h : SegLaws g) {a : Nat} {x : Rec} (hx : Table.get g.recs a = some x) (hl : x.state ≠ .loading)
    (hf : ∀ f, x.state ≠ .refreshing f) : SegLaws (g.delete a x) := by
  obtain ⟨hrest, hb⟩ := (segLaws_iff g).1 h
  have htransfer : (g.delete a x).transfer = g.transfer := by
    refine if_neg (fun hany => ?_)
    obtain ⟨v, hv, haddress⟩ := (Option.any_eq_true _ _).1 hany
    exact hl ((hrest.transfer.1 a x hx).2 ⟨v, hv, of_decide_eq_true haddress⟩)
  refine (segLaws_iff _).2 ⟨hrest.delete hx, hb.change rfl rfl rfl rfl (.inl htransfer) (fun b y hy => ?_) (fun b z f _ hz hfz => ?_)⟩
  · simp only [Seg.delete, Table.get_del] at hy
    split_ifs at hy
    exact ⟨y, hy, id⟩
  · refine ⟨z, f, ?_, hfz⟩
    have hne : b ≠ a := by
      intro hba
      rw [hba, hx] at hz
      cases hz
      exact hf f hfz
    simp only [Seg.delete]
    rw [Table.get_del_other _ hne]
    exact hz

/-! ## Drops pending -/

theorem insertNat_sorted {n : Nat} {l : List Nat} (h : l.Pairwise (· < ·)) (hn : n ∉ l) : (insertNat n l).Pairwise (· < ·) := by
  induction l with
  | nil => exact List.pairwise_singleton _ _
  | cons k t ih =>
    obtain ⟨hk, ht⟩ := List.pairwise_cons.1 h
    rw [List.mem_cons, not_or] at hn
    obtain ⟨hnk, hnt⟩ := hn
    unfold insertNat
    split_ifs with hle
    · refine List.pairwise_cons.2 ⟨fun m hm => ?_, h⟩
      rcases List.mem_cons.1 hm with rfl | hm
      · omega
      · have := hk m hm
        omega
    · refine List.pairwise_cons.2 ⟨fun m hm => ?_, ih ht hnt⟩
      rcases (mem_insertNat n m t).1 hm with rfl | hm
      · omega
      · exact hk m hm

/-- The DROPs pending of a segment with one more (R122). -/
def moreDrops (drops : List Nat) (a : Nat) : List Nat := if drops.contains a then drops else insertNat a drops

theorem moreDrops_good {drops : List Nat} {a : Nat} (h : (∀ b, b ∈ drops → 1 ≤ b ∧ b ≤ 96) ∧ drops.Pairwise (· < ·)) (ha : 1 ≤ a ∧ a ≤ 96) :
    (∀ b, b ∈ moreDrops drops a → 1 ≤ b ∧ b ≤ 96) ∧ (moreDrops drops a).Pairwise (· < ·) := by
  unfold moreDrops
  split_ifs with hin
  · exact h
  · refine ⟨fun b hb => ?_, insertNat_sorted h.2 (fun hmem => hin (List.contains_iff_mem.2 hmem))⟩
    rcases (mem_insertNat a b drops).1 hb with rfl | hb
    · exact ha
    · exact h.1 b hb

/-- The DROPs pending stand aside of the exchange in progress. -/
theorem SegLaws.withDrops {g : Seg} (h : SegLaws g) {drops : List Nat} (hdrops : (∀ a, a ∈ drops → 1 ≤ a ∧ a ≤ 96) ∧ drops.Pairwise (· < ·)) :
    SegLaws { g with drops } := by
  obtain ⟨hrest, hb⟩ := (segLaws_iff g).1 h
  obtain ⟨-, -, hnumbers⟩ := hrest.numbers
  refine (segLaws_iff _).2 ⟨⟨hrest.rising, ⟨hdrops.1, hdrops.2, hnumbers⟩, hrest.each, hrest.queue, hrest.transfer, hrest.reserved, hrest.stack,
    hrest.stop⟩, hb.change rfl rfl rfl rfl (.inl rfl) (fun b y hy => ⟨y, hy, id⟩) (fun b z f _ hz hfz => ⟨z, f, hz, hfz⟩)⟩

theorem SegLaws.drops {g : Seg} (h : SegLaws g) : (∀ a, a ∈ g.drops → 1 ≤ a ∧ a ≤ 96) ∧ g.drops.Pairwise (· < ·) := by
  obtain ⟨hrest, -⟩ := (segLaws_iff g).1 h
  exact ⟨hrest.numbers.1, hrest.numbers.2.1⟩

theorem OpenAt.forget {ix : SegIx} {s : State} (h : OpenAt ix s) {a : Nat} {x : Rec} (hx : s.rec? ix a = some x) :
    OpenAt ix (markDrop ix a (deleteRecord ix a s)) := by
  have hdelete := seg_deleteRecord hx
  have hdeleted : OpenAt ix (deleteRecord ix a s) := by
    refine h.of_seg ?_ (fun j hj => by rw [hdelete, if_neg hj])
    rw [hdelete, if_pos rfl]
    exact h.here.delete hx
  exact hdeleted.setSeg (hdeleted.here.alter rfl rfl rfl rfl rfl rfl rfl rfl id
    (moreDrops_good hdeleted.here.drops (h.here.rest.each a x hx).address) hdeleted.here.pointer)

theorem forget_laws {s : State} (h : ∀ j, SegLaws (s.seg j)) {ix : SegIx} {a : Nat} {x : Rec} (hx : s.rec? ix a = some x)
    (hl : x.state ≠ .loading) (hf : ∀ f, x.state ≠ .refreshing f) : ∀ j, SegLaws ((markDrop ix a (deleteRecord ix a s)).seg j) := by
  have hdelete := seg_deleteRecord hx
  have hdeleted : ∀ j, SegLaws ((deleteRecord ix a s).seg j) := by
    refine laws_of_seg h ix ?_ (fun j hj => by rw [hdelete, if_neg hj])
    rw [hdelete, if_pos rfl]
    exact (h ix).delete hx hl hf
  obtain ⟨hrest, -⟩ := (segLaws_iff _).1 (h ix)
  exact laws_setSeg hdeleted ((hdeleted ix).withDrops (moreDrops_good (hdeleted ix).drops (hrest.each a x hx).address))

/-! ## Probes -/

/-- A face is wanted while the segment's exchange, not a LOAD, ends. -/
theorem Between.wants {g : Seg} (h : Between g) (hload : ∀ a i n d, g.bus ≠ some (.load a i n d)) (missLimit : Nat) {a : Nat} {x y : Rec}
    (hx : Table.get g.recs a = some x) (hy : Alike x y) : Between (g.wants missLimit a x y) := by
  have hput := h.alike hx hy
  unfold Seg.wants
  split
  next v hs hv =>
    split_ifs with hshow hruns
    · exact hput
    · obtain ⟨i, n, d, hbus⟩ := (loadRuns_iff g a).1 hruns
      exact absurd hbus (hload a i n d)
    · obtain ⟨-, -, -, -, hstack, htransfer⟩ := Seg.unload_fields { g with recs := Table.put g.recs a y } missLimit a v y
      refine ⟨hput.rest.unload (Table.get_put_same _ _ _) (hy.1.trans hs) ⟨rfl, rfl⟩ missLimit v, fun w hw => ?_, ?_⟩
      · rw [htransfer] at hw
        cases hw
      · rw [hstack]
        exact h.stems
  · exact hput.evaluate a .maint

theorem OpenAt.recomputeSlot {ix : SegIx} {s : State} (h : OpenAt ix s) (hload : ∀ a i n d, (s.seg ix).bus ≠ some (.load a i n d)) (slot : Nat) :
    OpenAt ix (recomputeSlot slot s) := by
  rcases recomputeSlot_sc_cases slot s with hsame | ⟨p, digest, template, -, hsc⟩
  · exact h.of_sc hsame
  · refine OpenAt.of_sc (s := wantedFaceChange p.seg p.address digest template s) ?_ hsc
    cases hx : s.rec? p.seg p.address with
    | none =>
      have hnone : wantedFaceChange p.seg p.address digest template s = s := by
        unfold wantedFaceChange
        rw [hx]
      rw [hnone]
      exact h
    | some x =>
      obtain ⟨hsame, hother⟩ := seg_wantedFaceChange digest template hx
      by_cases hseg : p.seg = ix
      · rw [hseg] at hsame hother hx ⊢
        refine h.of_seg ?_ hother
        rw [hsame]
        exact h.here.wants hload s.missLimit hx (alike_givenFace digest template x)
      · refine ⟨by rw [hother ix (Ne.symm hseg)]; exact h.here, fun j hj => ?_⟩
        by_cases hjp : j = p.seg
        · rw [hjp, hsame]
          exact (h.others p.seg hseg).wants s.missLimit hx (alike_givenFace digest template x)
        · rw [hother j hjp]
          exact h.others j hj

/-- A LOST record answers again (R119). -/
theorem Between.returned {g : Seg} (h : Between g) {a : Nat} {x : Rec} (hx : Table.get g.recs a = some x) (hl : x.state = .lost) (c : PanelClass)
    (shown : Option Half) : Between { g with recs := Table.put g.recs a (x.returned c shown) } := by
  have hghost : (x.returned c shown).ghost ≤ ghostLimit c := by
    unfold Rec.returned
    simp only
    split_ifs with hc
    · rw [hc]
      exact (h.rest.each a x hx).ghost
    · exact Nat.le_refl _
  refine ⟨h.rest.replace hx (by rw [hl]; exact ⟨nofun, nofun⟩) (by rw [hl]; exact ⟨nofun, nofun⟩) ?_ hghost nofun (fun _ => nofun) nofun, h.settled, h.stems⟩
  rw [draw_of_idle (.inr (.inr hl))]
  rfl

theorem recordReturns_open {ix : SegIx} {s : State} (h : OpenAt ix s) (hload : ∀ a i n d, (s.seg ix).bus ≠ some (.load a i n d)) {a : Nat} {x : Rec}
    (hx : s.rec? ix a = some x) (hl : x.state = .lost) (c : PanelClass) (shown : Option Half) : OpenAt ix (recordReturns ix a x c shown s) := by
  have hput : OpenAt ix (raise .panel (s.putRec ix a (x.returned c shown))) :=
    OpenAt.of_sc (s := s.putRec ix a (x.returned c shown)) (h.setSeg (h.here.returned hx hl c shown)) rfl
  have hbus : ∀ b i n d, ((raise .panel (s.putRec ix a (x.returned c shown))).seg ix).bus ≠ some (.load b i n d) := by
    rw [seg_raise, seg_putRec_same]
    exact hload
  unfold recordReturns
  refine OpenAt.evaluate ?_ a
  split
  · split_ifs
    · exact hput
    · exact hput.recomputeSlot hbus _
  · exact hput

theorem probeOutcome_open {ix : SegIx} {s : State} (h : OpenAt ix s) {a : Nat} (heard : Heard) (hbus : (s.seg ix).bus = some (.probe a))
    (hlost : ∀ x, s.rec? ix a = some x → x.state = .lost) : OpenAt ix (probeOutcome ix a heard s) := by
  have hload : ∀ b i n d, (s.seg ix).bus ≠ some (.load b i n d) := by
    rw [hbus]
    nofun
  unfold probeOutcome
  split
  · exact h
  next x hx =>
    have hmissed : OpenAt ix (s.putRec ix a { x with miss := missed x.miss }) := h.putRec hx ⟨rfl, rfl, rfl⟩
    have hreplaced : OpenAt ix (recordReplaced ix a s) := (h.forget hx).of_sc rfl
    split
    · exact hmissed
    · exact hmissed
    · split_ifs
      · split
        · exact recordReturns_open h hload hx (hlost x hx) _ _
        · exact hreplaced
      · exact hreplaced

theorem endProbe_laws {s : State} (h : ∀ j, SegLaws (s.seg j)) (ix : SegIx) (heard : Heard) :
    ∀ j, SegLaws ((endProbe ix heard s).seg j) := by
  unfold endProbe
  split
  next a hbus =>
    obtain ⟨-, hlost⟩ := (h ix).2.exchange _ hbus
    exact ((probeOutcome_open (openAt_of_bus h hbus nofun nofun) heard hbus hlost).movePointer a).endExchange
  · exact h

end Sys2Proof.Machine
end

section
/-! PROOFS. The laws of the segments when a frame of a transfer or a refresh ends (spec: R153, R158–R170). -/

namespace Sys2Proof.Machine

/-! ## Chunks -/

theorem seg_withTransfer (ix : SegIx) (transfer : Option Transfer) (s : State) :
    (s.setSeg ix { s.seg ix with transfer }).seg ix = { s.seg ix with transfer } := seg_setSeg_same s ix _

/-- A segment whose record left LOADING stands between two exchanges. -/
theorem RestGood.unloaded {g : Seg} (h : RestGood g) (hstack : StemsGood g.stack) {a : Nat} {x y : Rec} (hx : Table.get g.recs a = some x)
    (hl : x.state = .loading) (hghost : y.ghost = x.ghost ∧ y.cls = x.cls) (missLimit : Nat) (v : Transfer) : Between (g.unload missLimit a v y) := by
  obtain ⟨-, -, -, -, hsame, htransfer⟩ := Seg.unload_fields g missLimit a v y
  refine ⟨h.unload hx hl hghost missLimit v, fun w hw => ?_, ?_⟩
  · rw [htransfer] at hw
    cases hw
  · rw [hsame]
    exact hstack

/-- The outcome of a LOAD is worked on a segment with a transfer in flight. -/
theorem loadOutcome_here {ix : SegIx} {s : State} (h : RestGood (s.seg ix)) (hstack : StemsGood (s.seg ix).stack) (a index : Nat) (heard : Heard) :
    Between ((loadOutcome ix a index heard s).seg ix) ∧ ∀ j, j ≠ ix → (loadOutcome ix a index heard s).seg j = s.seg j := by
  unfold loadOutcome
  split
  next hv => exact ⟨⟨h, by rw [hv]; nofun, hstack⟩, fun _ _ => rfl⟩
  next v hv =>
    obtain ⟨hsends, x, hx, -⟩ := h.transfer.2 v hv
    have hl : x.state = .loading := (h.transfer.1 _ x hx).2 ⟨v, hv, rfl⟩
    have hrec : s.rec? ix v.address = some x := hx
    have hleave {y : Rec} (hy : y.ghost = x.ghost ∧ y.cls = x.cls) : Between ((leaveLoading ix v.address v y s).seg ix)
        ∧ ∀ j, j ≠ ix → (leaveLoading ix v.address v y s).seg j = s.seg j := by
      obtain ⟨hsame, hother⟩ := seg_leaveLoading ix v.address v y s
      rw [hsame]
      exact ⟨h.unloaded hstack hx hl hy s.missLimit v, hother⟩
    have htransfer := h.transfer
    rw [hv] at htransfer
    cases hab : v.abandoned with
    | true =>
      rw [if_pos rfl, endAbandoned, hrec]
      exact hleave ⟨rfl, rfl⟩
    | false =>
      have hfailed : Between ((chunkFailed ix v s).seg ix) ∧ ∀ j, j ≠ ix → (chunkFailed ix v s).seg j = s.seg j := by
        unfold chunkFailed
        split_ifs with hless
        · refine ⟨⟨h, fun w hw => ?_, hstack⟩, fun _ _ => rfl⟩
          rw [hv] at hw
          cases hw
          exact ⟨by omega, hab⟩
        · rw [hrec]
          exact hleave ⟨rfl, rfl⟩
      rw [if_neg nofun]
      split
      · split_ifs
        · refine ⟨?_, fun j hj => seg_setSeg_other s _ hj⟩
          rw [chunkAcked, seg_withTransfer]
          refine ⟨h.withTransfer (htransfer.update (w := { v with next := v.next + 1, sends := 0, ready := false }) rfl rfl (Nat.zero_le _)), fun w hw => ?_, hstack⟩
          cases hw
          exact ⟨Nat.zero_le _, hab⟩
        · exact hfailed
      · exact hfailed
      · exact hfailed

theorem endLoad_laws {s : State} (h : ∀ j, SegLaws (s.seg j)) (ix : SegIx) (heard : Heard) :
    ∀ j, SegLaws ((endLoad ix heard s).seg j) := by
  unfold endLoad
  split
  next a index total data hbus =>
    obtain ⟨hrest, hb⟩ := (segLaws_iff _).1 (h ix)
    have hstems := hb.stems
    unfold Seg.stems at hstems
    rw [hbus] at hstems
    obtain ⟨hhere, hother⟩ := loadOutcome_here hrest hstems a index heard
    exact OpenAt.endExchange ⟨hhere, fun j hj => by rw [hother j hj]; exact h j⟩
  · exact h

/-! ## SHOW -/

/-- A segment whose record enters REFRESHING: its draw reserved, the transfer ended (R162, R164). -/
def Seg.refresh (g : Seg) (a : Nat) (y : Rec) (f : Refresh) : Seg :=
  { g with recs := Table.put g.recs a { y with state := .refreshing f }, reserved := g.reserved + f.draw, transfer := none }

theorem Between.refresh {g : Seg} (h : Between g) (hp : g.polls) {a : Nat} {x y : Rec} (hx : Table.get g.recs a = some x) {v : Transfer}
    (hv : g.transfer = some v) (haddress : v.address = a) (hy : y.ghost = x.ghost ∧ y.cls = x.cls) {f : Refresh} (hkind : f.kind = v.kind) :
    Between (g.refresh a y f) := by
  obtain ⟨hghost, hcls⟩ := hy
  obtain ⟨-, -, -, -, hsequence⟩ := h.rest.numbers
  have heach := h.rest.each a x hx
  have hl : x.state = .loading := (h.rest.transfer.1 a x hx).2 ⟨v, hv, haddress⟩
  obtain ⟨-, x', hx', hpart⟩ := h.rest.transfer.2 v hv
  rw [haddress, hx] at hx'
  cases hx'
  refine ⟨h.rest.change (y := { y with state := .refreshing f }) (queue := g.queue) (sequence := g.sequence) hx hsequence ?_ (fun f' hf' hk => ?_)
    (fun hno => absurd hp hno) ?_ (h.rest.transfer.leave hx hl nofun) ?_, nofun, h.stems⟩
  · simp only [hghost, hcls]
    exact heach.ghost
  · cases hf'
    simp only [hghost, hcls]
    exact hpart (hkind.symm.trans hk)
  · exact h.rest.queue.same (get_put_queued hx (by rw [hl]; exact ⟨nofun, nofun⟩))
  · unfold Rec.reservedDraw
    rw [hl]
    rfl

theorem endShow_laws {s : State} (h : ∀ j, SegLaws (s.seg j)) (ix : SegIx) (heard : Heard) :
    ∀ j, SegLaws ((endShow ix heard s).seg j) := by
  unfold endShow
  split
  next a kind digest duration hbus =>
    obtain ⟨hp, v, hv, haddress, -⟩ := (h ix).2.exchange _ hbus
    have hopen := openAt_of_bus h hbus nofun nofun
    refine OpenAt.endExchange ?_
    unfold showOutcome
    split
    next w x hw hx =>
      rw [hv] at hw
      cases hw
      have hl : x.state = .loading := (hopen.here.rest.transfer.1 a x hx).2 ⟨v, hv, haddress⟩
      have hrefresh {y : Rec} (hy : y.ghost = x.ghost ∧ y.cls = x.cls) (confirmed : Bool) :
          OpenAt ix (enterRefreshing ix a v y duration confirmed s) :=
        hopen.setSeg (hopen.here.refresh hp hx hv haddress hy (f := refreshFrom v duration s.time confirmed) rfl)
      split
      · exact hrefresh ⟨rfl, rfl⟩ true
      · obtain ⟨hsame, hother⟩ := seg_leaveLoading ix a v { x with lastTemplate := none } s
        refine hopen.of_seg ?_ hother
        rw [hsame]
        exact hopen.here.rest.unloaded hopen.here.stems hx hl (y := { x with lastTemplate := none }) ⟨rfl, rfl⟩ s.missLimit v
      · exact hrefresh (y := { x with miss := missed x.miss }) ⟨rfl, rfl⟩ false
      · exact hrefresh (y := { x with miss := missed x.miss }) ⟨rfl, rfl⟩ false
    · exact hopen
  · exact h

/-! ## Refreshes left -/

/-- A segment whose record leaves REFRESHING: its draw released, LOST or ONLINE with its need evaluated (R153, R170). -/
def Seg.land (g : Seg) (missLimit a draw : Nat) (y : Rec) : Seg :=
  if missLimit ≤ y.miss then { g with reserved := g.reserved - draw }.setLost a y
  else ({ g with reserved := g.reserved - draw }.setOnline a y).evaluate a .maint

theorem seg_leaveRefreshing (ix : SegIx) (a draw : Nat) (y : Rec) (s : State) :
    (leaveRefreshing ix a y (releaseDraw ix draw s)).seg ix = (s.seg ix).land s.missLimit a draw y
      ∧ ∀ j, j ≠ ix → (leaveRefreshing ix a y (releaseDraw ix draw s)).seg j = s.seg j := by
  have hreleased : (releaseDraw ix draw s).seg ix = { s.seg ix with reserved := (s.seg ix).reserved - draw } := seg_setSeg_same s ix _
  have hlimit : (releaseDraw ix draw s).missLimit = s.missLimit := rfl
  have hrest (j : SegIx) (hj : j ≠ ix) : (releaseDraw ix draw s).seg j = s.seg j := seg_setSeg_other s _ hj
  unfold leaveRefreshing Seg.land
  rw [hlimit]
  split_ifs
  · obtain ⟨hsame, hother⟩ := seg_loseRecord ix a y (releaseDraw ix draw s)
    exact ⟨by rw [hsame, hreleased], fun j hj => (hother j hj).trans (hrest j hj)⟩
  · refine ⟨by rw [seg_evaluate_same, seg_setSeg_same, hreleased], fun j hj => ?_⟩
    rw [evaluate, seg_setSeg_other _ _ hj, seg_setSeg_other _ _ hj, hrest j hj]

theorem draw_le {g : Seg} (h : RestGood g) {a : Nat} {x : Rec} (hx : Table.get g.recs a = some x) : x.reservedDraw ≤ g.reserved := by
  have hput := drawSum_put { x with state := .online } hx
  have hidle : ({ x with state := .online } : Rec).reservedDraw = 0 := rfl
  have hsum := h.reserved
  omega

section Land

variable {g : Seg} {a : Nat} {x y : Rec} {f : Refresh} (hx : Table.get g.recs a = some x) (hf : x.state = .refreshing f)
include hx hf

theorem RestGood.land (h : RestGood g) (hghost : y.ghost ≤ ghostLimit y.cls) (missLimit : Nat) : RestGood (g.land missLimit a f.draw y) := by
  have hdraw : x.reservedDraw = f.draw := by
    unfold Rec.reservedDraw
    rw [hf]
  have hle := draw_le h hx
  have hnot : x.state ≠ .loading := by
    rw [hf]
    nofun
  unfold Seg.land
  split_ifs
  · exact h.out (y := { y with state := .lost }) (reserved := g.reserved - f.draw) hx (.inr rfl) hghost
      (h.transfer.put hx ⟨nofun, fun hl => absurd hl hnot⟩ nofun) (by omega)
  · exact (h.out (y := { y with state := .online }) (reserved := g.reserved - f.draw) hx (.inl rfl) hghost
      (h.transfer.put hx ⟨nofun, fun hl => absurd hl hnot⟩ nofun) (by omega)).evaluate a .maint

theorem Between.land (h : Between g) (hghost : y.ghost ≤ ghostLimit y.cls) (missLimit : Nat) : Between (g.land missLimit a f.draw y) := by
  refine ⟨h.rest.land hx hf hghost missLimit, ?_, ?_⟩
  · unfold Seg.land
    split_ifs
    · exact h.settled
    · rw [Seg.evaluate_transfer]
      exact h.settled
  · unfold Seg.land
    split_ifs
    · exact h.stems
    · rw [Seg.evaluate_stack]
      exact h.stems

/-- The exchange in progress, not a completion poll of the record, stands when the record leaves REFRESHING. -/
theorem BusGood.land (h : BusGood g) (hbus : g.bus ≠ some (.completion a)) (missLimit : Nat) : BusGood (g.land missLimit a f.draw y) := by
  have hout {g' : Seg} {z : Rec} (hrecs : g'.recs = Table.put g.recs a z) (hsame : g'.bus = g.bus) (hmode : g'.mode = g.mode)
      (hroll : g'.rollAddr = g.rollAddr) (hstack : g'.stack = g.stack) (htransfer : g'.transfer = g.transfer) : BusGood g' := by
    refine h.change hsame hmode hroll hstack (.inl htransfer) (fun b w hw => ?_) (fun b w f' hb hw hfw => ?_)
    · rw [hrecs, get_put] at hw
      split_ifs at hw with hba
      · exact ⟨x, hba ▸ hx, fun hl => by rw [hf] at hl; cases hl⟩
      · exact ⟨w, hw, id⟩
    · refine ⟨w, f', ?_, hfw⟩
      have hba : b ≠ a := fun hba => hbus (by rw [← hba]; exact hb)
      rw [hrecs, get_put, if_neg hba]
      exact hw
  unfold Seg.land
  split_ifs
  · exact hout rfl rfl rfl rfl rfl rfl
  · refine BusGood.evaluate ?_ a .maint
    exact hout rfl rfl rfl rfl rfl rfl

theorem SegLaws.land (h : SegLaws g) (hbus : g.bus ≠ some (.completion a)) (hghost : y.ghost ≤ ghostLimit y.cls) (missLimit : Nat) :
    SegLaws (g.land missLimit a f.draw y) := by
  obtain ⟨hrest, hb⟩ := (segLaws_iff g).1 h
  exact (segLaws_iff _).2 ⟨hrest.land hx hf hghost missLimit, hb.land hx hf hbus missLimit⟩

end Land

/-! ## Completion polls -/

theorem retimed_laws {s : State} (h : ∀ j, SegLaws (s.seg j)) {ix : SegIx} {a : Nat} {x : Rec} {f : Refresh} (hx : s.rec? ix a = some x)
    (hf : x.state = .refreshing f) {f' : Refresh} (hsame : f'.draw = f.draw ∧ f'.kind = f.kind) :
    ∀ j, SegLaws ((s.putRec ix a { x with state := .refreshing f' }).seg j) := by
  obtain ⟨hrest, hb⟩ := (segLaws_iff _).1 (h ix)
  refine laws_setSeg h ((segLaws_iff _).2 ⟨hrest.retimed hx hf (y := { x with state := .refreshing f' }) rfl ⟨rfl, rfl⟩ hsame,
    hb.put hx ⟨fun hl => ?_, fun _ _ => ⟨f', rfl⟩⟩ rfl rfl rfl rfl rfl (.inl rfl)⟩)
  rw [hf] at hl
  cases hl

theorem pollDue_laws {s : State} (h : ∀ j, SegLaws (s.seg j)) (ix : SegIx) (a : Nat) : ∀ j, SegLaws ((pollDue ix a s).seg j) := by
  unfold pollDue
  split
  next x hx =>
    split
    next f hf =>
      split_ifs
      · exact retimed_laws (s := { s with time := max s.time f.nextPoll }) h hx hf ⟨rfl, rfl⟩
      · exact h
    all_goals exact h
  · exact h

theorem completed_ghost {x : Rec} {f : Refresh} (floor : Int) (rep : StateReport) (hlimit : x.ghost ≤ ghostLimit x.cls)
    (hpart : f.kind = .part → x.ghost < ghostLimit x.cls) : (x.completed floor f rep).ghost ≤ ghostLimit (x.completed floor f rep).cls := by
  unfold Rec.completed
  simp only
  split_ifs
  · change (match f.kind with | .full => 0 | .part => x.ghost + 1) ≤ ghostLimit x.cls
    cases hk : f.kind with
    | full => exact Nat.zero_le _
    | part => exact hpart hk
  · exact hlimit

theorem giveUp_open {ix : SegIx} {s : State} (h : OpenAt ix s) {a : Nat} {x : Rec} {f : Refresh} (hx : s.rec? ix a = some x)
    (hf : x.state = .refreshing f) : OpenAt ix (giveUp ix a x f s) := by
  obtain ⟨hsame, hother⟩ := seg_leaveRefreshing ix a f.draw { x with shown := none, lastTemplate := none, miss := missed x.miss } s
  refine h.of_seg ?_ hother
  rw [giveUp, hsame]
  exact h.here.land hx hf (y := { x with shown := none, lastTemplate := none, miss := missed x.miss }) (h.here.rest.each a x hx).ghost s.missLimit

theorem finalAfterPoll_open {ix : SegIx} {s : State} (h : OpenAt ix s) (a : Nat) : OpenAt ix (finalAfterPoll ix a s) := by
  unfold finalAfterPoll
  split
  next x hx =>
    split
    next f hf =>
      split_ifs
      · exact giveUp_open h hx hf
      · exact h
    all_goals exact h
  · exact h

theorem completionOutcome_open {ix : SegIx} {s : State} (h : OpenAt ix s) (a : Nat) (heard : Heard) :
    OpenAt ix (completionOutcome ix a heard s) := by
  unfold completionOutcome
  split
  next x hx =>
    split
    next f rep hf _ =>
      have heach := h.here.rest.each a x hx
      split_ifs
      · exact (h.putRec hx (alike_heard _ rep x.shown x)).of_sc (raiseIf_sc _ _ _)
      · obtain ⟨hsame, hother⟩ := seg_leaveRefreshing ix a f.draw (x.completed s.ps.options.refreshFloor f rep)
          (raiseIf (newlyCold x (x.completed s.ps.options.refreshFloor f rep)) .cold s)
        have hopen : OpenAt ix (raiseIf (newlyCold x (x.completed s.ps.options.refreshFloor f rep)) .cold s) := h.of_sc (raiseIf_sc _ _ _)
        refine hopen.of_seg ?_ hother
        rw [completeRefresh, hsame, seg_raiseIf]
        exact h.here.land hx hf (completed_ghost _ rep heach.ghost (heach.part f hf)) _
    · exact h
  · exact h

theorem endCompletion_laws {s : State} (h : ∀ j, SegLaws (s.seg j)) (ix : SegIx) (heard : Heard) :
    ∀ j, SegLaws ((endCompletion ix heard s).seg j) := by
  unfold endCompletion
  split
  next a hbus =>
    exact (finalAfterPoll_open (completionOutcome_open (openAt_of_bus h hbus nofun nofun) a heard) a).endExchange
  · exact h

/-! ## The drain and the final deadline -/

theorem judgeDrain_laws {s : State} (h : ∀ j, SegLaws (s.seg j)) (ix : SegIx) : ∀ j, SegLaws ((judgeDrain ix s).seg j) := by
  unfold judgeDrain
  simp only
  split_ifs with hd
  · obtain ⟨hmode, hdrained⟩ := hd
    obtain ⟨hbus, -⟩ := (drained_iff _).1 hdrained
    refine laws_setSeg h (((h ix).between (fun a i n d => ?_) (fun stem => ?_)).drained hmode hdrained)
    · rw [hbus]
      nofun
    · rw [hbus]
      nofun
  · exact h

theorem finalComes_laws {s : State} (h : ∀ j, SegLaws (s.seg j)) (ix : SegIx) (a : Nat) : ∀ j, SegLaws ((finalComes ix a s).seg j) := by
  unfold finalComes
  split
  next x hx =>
    split
    next f hf =>
      simp only
      split_ifs with hbus
      · exact retimed_laws (s := { s with time := max s.time f.final }) h hx hf ⟨rfl, rfl⟩
      · obtain ⟨hsame, hother⟩ := seg_leaveRefreshing ix a f.draw { x with shown := none, lastTemplate := none, miss := missed x.miss }
          { s with time := max s.time f.final }
        obtain ⟨hrest, -⟩ := (segLaws_iff _).1 (h ix)
        refine judgeDrain_laws (laws_of_seg (s := { s with time := max s.time f.final }) h ix ?_ hother) ix
        rw [hsame]
        exact (h ix).land hx hf hbus (y := { x with shown := none, lastTemplate := none, miss := missed x.miss }) (hrest.each a x hx).ghost _
    all_goals exact h
  · exact h

end Sys2Proof.Machine
end

section
/-! PROOFS. The laws of the segments through roll call and the search (spec: R114, R115, R129–R145). -/

namespace Sys2Proof.Machine

/-! ## A record created -/

/-- A segment in another mode, at another roll-call address. -/
def Seg.turned (g : Seg) (mode : SegMode) (rollAddr : Nat) : Seg := { g with mode, rollAddr }

theorem Seg.turned_evaluate (g : Seg) (mode : SegMode) (rollAddr a : Nat) (least : QueueClass) :
    (g.evaluate a least).turned mode rollAddr = (g.turned mode rollAddr).evaluate a least := by
  have hrecs : (g.turned mode rollAddr).recs = g.recs := rfl
  unfold Seg.evaluate
  rw [hrecs]
  cases Table.get g.recs a with
  | none => rfl
  | some x =>
    cases hs : x.state with
    | online => simp only [hs]; split_ifs <;> rfl
    | queued => simp only [hs]; split_ifs <;> rfl
    | loading => simp only [hs]
    | refreshing f => simp only [hs]
    | lost => simp only [hs]

theorem Between.created {g : Seg} (h : Between g) {a : Nat} (hnew : Table.get g.recs a = none) (ha : 1 ≤ a ∧ a ≤ 96)
    (hroll : g.mode = .starting → a < g.rollAddr) {y : Rec} (hstate : y.state = .online) (hghost : y.ghost ≤ ghostLimit y.cls) :
    Between { g with recs := Table.put g.recs a y } := by
  have hfree : y.reservedDraw = 0 := draw_of_idle (.inl hstate)
  have hnot : y.state ≠ .loading ∧ y.state ≠ .queued ∧ ∀ f, y.state ≠ .refreshing f := by
    rw [hstate]
    exact ⟨nofun, nofun, nofun⟩
  obtain ⟨hloading, hqueued, hflying⟩ := hnot
  obtain ⟨hrising, hnumbers, heach, hqueue, htransfer, hreserved, hstack, hstop⟩ := h.rest
  refine ⟨⟨Table.rising_put hrising a y, hnumbers, fun b r hr => ?_, hqueue.same (fun b => ?_), htransfer.create hnew hloading, ?_, hstack, hstop⟩,
    h.settled, h.stems⟩
  · rw [get_put] at hr
    split_ifs at hr with hb
    · cases hr
      rw [hb]
      exact ⟨ha, hghost, fun f hf => absurd hf (hflying f), fun _ => ⟨hloading, hflying⟩, hroll⟩
    · exact heach b r hr
  · rw [get_put]
    split_ifs with hb
    · rw [hb, hnew]
      exact ⟨fun ⟨r, hr, hq⟩ => absurd (Option.some.inj hr ▸ hq) hqueued, fun ⟨r, hr, _⟩ => by cases hr⟩
    · exact Iff.rfl
  · have hsum := drawSum_create y hnew
    simp only
    omega

/-- What a segment is after a record was created on it: put, at most once more alike, and evaluated (R115, R131). -/
def createdSeg (g : Seg) (a : Nat) (x : Rec) (g' : Seg) : Prop :=
  g' = { g with recs := Table.put g.recs a x }.evaluate a .maint
    ∨ ∃ y, Alike x y ∧ (g' = { g with recs := Table.put (Table.put g.recs a x) a y }.evaluate a .maint
      ∨ ∃ z, Alike y z ∧ g' = ({ g with recs := Table.put (Table.put (Table.put g.recs a x) a y) a z }.evaluate a .maint).evaluate a .maint)

theorem Seg.evaluate_mode (g : Seg) (a : Nat) (least : QueueClass) :
    (g.evaluate a least).mode = g.mode ∧ (g.evaluate a least).rollAddr = g.rollAddr := by
  rcases g.evaluate_cases a least with h | ⟨x, -, -, h⟩ | ⟨c, h⟩ | ⟨x, -, -, h⟩
  all_goals
    rw [h]
    exact ⟨rfl, rfl⟩

theorem createdSeg.mode {g g' : Seg} {a : Nat} {x : Rec} (h : createdSeg g a x g') : g'.mode = g.mode ∧ g'.rollAddr = g.rollAddr := by
  rcases h with rfl | ⟨y, -, rfl | ⟨z, -, rfl⟩⟩
  · exact Seg.evaluate_mode _ a .maint
  · exact Seg.evaluate_mode _ a .maint
  · rw [(Seg.evaluate_mode _ a .maint).1, (Seg.evaluate_mode _ a .maint).2]
    exact Seg.evaluate_mode _ a .maint

theorem createRecord_created (ix : SegIx) (a : Nat) (serial : Serial) (cls : PanelClass) (shown : Option Half) (s : State) :
    createdSeg (s.seg ix) a (Rec.fresh serial cls shown) ((createRecord ix a serial cls shown s).seg ix)
      ∧ ∀ j, j ≠ ix → (createRecord ix a serial cls shown s).seg j = s.seg j := by
  have hput (y : Rec) (u : State) (j : SegIx) (hj : j ≠ ix) : (u.putRec ix a y).seg j = u.seg j := seg_setSeg_other _ _ hj
  have hstray (u : State) (hsc : u.sc = (s.putRec ix a (Rec.fresh serial cls shown)).sc) :
      createdSeg (s.seg ix) a (Rec.fresh serial cls shown) ((evaluate ix a u).seg ix) ∧ ∀ j, j ≠ ix → (evaluate ix a u).seg j = s.seg j := by
    have hseg (j : SegIx) : u.seg j = (s.putRec ix a (Rec.fresh serial cls shown)).seg j := congrArg (fun sc => Segs.get sc j) hsc
    refine ⟨.inl ?_, fun j hj => ?_⟩
    · rw [seg_evaluate_same, hseg, seg_putRec_same]
    · rw [evaluate, seg_setSeg_other _ _ hj, hseg, hput _ _ _ hj]
  cases hslot : s.slotOf serial with
  | none =>
    rw [createRecord_unlisted hslot]
    exact hstray _ rfl
  | some n =>
    by_cases hfree : (s.putRec ix a (Rec.fresh serial cls shown)).holder n = none
    · rw [createRecord_bound hslot hfree]
      have hheld := holder_putRec_bound hfree ix a (x := { Rec.fresh serial cls shown with binding := some n }) rfl
      have hbound : Alike (Rec.fresh serial cls shown) { Rec.fresh serial cls shown with binding := some n } := ⟨rfl, rfl, rfl⟩
      generalize hx : ({ Rec.fresh serial cls shown with binding := some n } : Rec) = x at hheld hbound ⊢
      have hstate : x.state = .online := by rw [← hx]; rfl
      generalize hv : resolverLoses n ((s.putRec ix a (Rec.fresh serial cls shown)).putRec ix a x) = v
      have hsc : v.sc = ((s.putRec ix a (Rec.fresh serial cls shown)).putRec ix a x).sc := by
        rw [← hv]
        exact resolverLoses_sc n _
      have hseg (j : SegIx) : v.seg j = ((s.putRec ix a (Rec.fresh serial cls shown)).putRec ix a x).seg j := congrArg (fun sc => Segs.get sc j) hsc
      have hholder : v.holder n = some ⟨ix, a, x⟩ := (holder_of_sc hsc n).trans hheld
      have hrec : v.rec? ix a = some x := (rec_of_sc hsc ix a).trans (rec_putRec_same _ ix a x)
      have hone (j : SegIx) (hj : j ≠ ix) : v.seg j = s.seg j := by rw [hseg, hput _ _ _ hj, hput _ _ _ hj]
      rcases recomputeSlot_sc_cases n v with hsame | ⟨p, digest, template, hp, hwanted⟩
      · have hagain (j : SegIx) : (recomputeSlot n v).seg j = v.seg j := congrArg (fun sc => Segs.get sc j) hsame
        refine ⟨.inr ⟨x, hbound, .inl ?_⟩, fun j hj => ?_⟩
        · rw [seg_evaluate_same, hagain, hseg, seg_putRec_same, seg_putRec_same]
        · rw [evaluate, seg_setSeg_other _ _ hj, hagain, hone j hj]
      · rw [hholder] at hp
        cases hp
        rw [wantedFaceChange_evaluates digest template hrec (.inl (by rw [hstate]; nofun))] at hwanted
        have hagain (j : SegIx) : (recomputeSlot n v).seg j = (evaluate ix a (v.putRec ix a (givenFace digest template x))).seg j :=
          congrArg (fun sc => Segs.get sc j) hwanted
        refine ⟨.inr ⟨x, hbound, .inr ⟨_, alike_givenFace digest template x, ?_⟩⟩, fun j hj => ?_⟩
        · rw [seg_evaluate_same, hagain, seg_evaluate_same, seg_putRec_same, hseg, seg_putRec_same, seg_putRec_same]
        · rw [evaluate, seg_setSeg_other _ _ hj, hagain, evaluate, seg_setSeg_other _ _ hj, hput _ _ _ hj, hone j hj]
    · rw [createRecord_taken hslot hfree]
      exact hstray _ rfl

/-- A record is created on a free address, in the mode and at the roll-call address the segment goes on in. -/
theorem createdSeg.turned {g g' : Seg} {a : Nat} {x : Rec} (h : createdSeg g a x g') {mode : SegMode} {rollAddr : Nat}
    (hg : Between (g.turned mode rollAddr)) (hnew : Table.get g.recs a = none) (ha : 1 ≤ a ∧ a ≤ 96) (hroll : mode = .starting → a < rollAddr)
    (hstate : x.state = .online) (hghost : x.ghost ≤ ghostLimit x.cls) : Between (g'.turned mode rollAddr) := by
  have hput : Between ({ g with recs := Table.put g.recs a x }.turned mode rollAddr) := hg.created hnew ha hroll hstate hghost
  rcases h with rfl | ⟨y, hy, rfl | ⟨z, hz, rfl⟩⟩
  · rw [Seg.turned_evaluate]
    exact hput.evaluate a .maint
  · rw [Seg.turned_evaluate]
    exact (hput.alike (Table.get_put_same _ _ _) hy).evaluate a .maint
  · rw [Seg.turned_evaluate, Seg.turned_evaluate]
    exact (((hput.alike (Table.get_put_same _ _ _) hy).alike (Table.get_put_same _ _ _) hz).evaluate a .maint).evaluate a .maint

/-! ## Roll call -/

/-- In roll call the segment may go on to the next address, or to RUN. -/
theorem Between.advances {g : Seg} (h : Between g) (hmode : g.mode = .starting) :
    (g.rollAddr < 96 → Between (g.turned g.mode (g.rollAddr + 1))) ∧ Between (g.turned .run g.rollAddr) := by
  obtain ⟨⟨hrising, ⟨hdrops, hdropsRising, hpointer, hroll, hsequence⟩, heach, hqueue, htransfer, hreserved, hstack, hstop⟩, hsettled, hstems⟩ := h
  have hnostop : g.stopWaiting ≠ true := by
    intro hw
    rcases hstop hw with hm | hm <;> (rw [hmode] at hm; cases hm)
  refine ⟨fun hless => ⟨⟨hrising, ⟨hdrops, hdropsRising, hpointer, ?_, hsequence⟩, fun a r hr => ?_, hqueue, htransfer, hreserved, ?_, fun hw => absurd hw hnostop⟩,
    hsettled, hstems⟩, ⟨⟨hrising, ⟨hdrops, hdropsRising, hpointer, hroll, hsequence⟩, fun a r hr => ?_, hqueue, htransfer, hreserved, ?_, fun hw => absurd hw hnostop⟩,
    hsettled, hstems⟩⟩
  · simp only [Seg.turned]
    omega
  · obtain ⟨haddress, hghost, hpart, hquiet, hrolled⟩ := heach a r hr
    exact ⟨haddress, hghost, hpart, hquiet, fun _ => Nat.lt_succ_of_lt (hrolled hmode)⟩
  · exact fun _ => hstack (by rw [hmode]; nofun)
  · obtain ⟨haddress, hghost, hpart, -, -⟩ := heach a r hr
    exact ⟨haddress, hghost, hpart, fun hno => absurd (.inl rfl) hno, nofun⟩
  · exact fun _ => hstack (by rw [hmode]; nofun)

theorem rollAdvance_laws {ix : SegIx} {s : State} (hothers : ∀ j, j ≠ ix → SegLaws (s.seg j))
    (hnext : (s.seg ix).rollAddr < 96 → Between ((s.seg ix).turned (s.seg ix).mode ((s.seg ix).rollAddr + 1)))
    (hrun : Between ((s.seg ix).turned .run (s.seg ix).rollAddr)) (hmode : (s.seg ix).mode = .starting) :
    ∀ j, SegLaws ((rollAdvance ix s).seg j) := by
  intro j
  unfold rollAdvance
  simp only
  split_ifs with hlast
  · obtain ⟨hlaws, hother⟩ := chooseNext_laws (ix := ix) (s := s.setSeg ix { s.seg ix with bus := none, mode := .run })
      (by rw [seg_setSeg_same]; exact ⟨hrun.rest.withBus none, hrun.settled, hrun.stems⟩) (by rw [seg_setSeg_same])
    by_cases hj : j = ix
    · rw [hj]
      exact hlaws
    · rw [hother j hj, seg_setSeg_other _ _ hj]
      exact hothers j hj
  · have hg := (hnext (by unfold Config.addresses at hlast; omega)).start (e := .rollIdent _) ⟨hmode, rfl⟩ nofun
    by_cases hj : j = ix
    · rw [hj, seg_setSeg_same]
      exact hg
    · rw [seg_setSeg_other _ _ hj]
      exact hothers j hj

end Sys2Proof.Machine
end

section
/-! PROOFS. The laws of the segments through roll call, DROPs and the search (spec: R122, R126, R129–R145). -/

namespace Sys2Proof.Machine

/-! ## Roll call -/

theorem fresh_good (serial : Serial) (cls : PanelClass) (shown : Option Half) : (Rec.fresh serial cls shown).state = .online
    ∧ (Rec.fresh serial cls shown).ghost ≤ ghostLimit (Rec.fresh serial cls shown).cls := ⟨rfl, Nat.le_refl _⟩

theorem follow_laws {s : State} (h : ∀ j, SegLaws (s.seg j)) {ix : SegIx} {e e' : Exchange} (hbus : (s.seg ix).bus = some e)
    (hload : ∀ a i n d, e ≠ .load a i n d) (hask : ∀ stem, e ≠ .ask stem) (hnext : e'.belongs (s.seg ix)) (hask' : ∀ stem, e' ≠ .ask stem) :
    ∀ j, SegLaws ((follow ix e' s).seg j) :=
  laws_setSeg h ((openAt_of_bus h hbus hload hask).here.start hnext hask')

theorem endRollIdent_laws {s : State} (h : ∀ j, SegLaws (s.seg j)) (ix : SegIx) (heard : Heard) :
    ∀ j, SegLaws ((endRollIdent ix heard s).seg j) := by
  unfold endRollIdent
  split
  next a hbus =>
    obtain ⟨hmode, ha⟩ := (h ix).2.exchange _ hbus
    have hopen := openAt_of_bus h hbus nofun nofun
    obtain ⟨hnext, hrun⟩ := hopen.here.advances hmode
    have hdrop : ∀ j, SegLaws ((follow ix (.rollDrop a) (raise .panel s)).seg j) :=
      follow_laws (s := raise .panel s) h hbus nofun nofun ⟨hmode, ha⟩ nofun
    split
    next id _ =>
      split
      next c _ =>
        obtain ⟨hstate, hghost⟩ := fresh_good id.serial c id.shown
        obtain ⟨hcreated, hother⟩ := createRecord_created ix a id.serial c id.shown s
        have hnew := (h ix).2.rolls hbus
        have haddress : 1 ≤ a ∧ a ≤ 96 := by
          rw [ha]
          exact hopen.here.rest.numbers.2.2.2.1
        obtain ⟨hmode', hroll'⟩ := hcreated.mode
        refine rollAdvance_laws (fun j hj => by rw [hother j hj]; exact h j) (fun hless => ?_) ?_ (hmode'.trans hmode)
        · rw [hmode', hroll']
          rw [hroll'] at hless
          exact hcreated.turned (hnext hless) hnew haddress (fun _ => by omega) hstate hghost
        · rw [hroll']
          exact hcreated.turned hrun hnew haddress nofun hstate hghost
      · exact hdrop
    · exact hdrop
    · exact rollAdvance_laws hopen.others hnext hrun hmode
  · exact h

theorem endDrop_laws {s : State} (h : ∀ j, SegLaws (s.seg j)) (ix : SegIx) : ∀ j, SegLaws ((endDrop ix s).seg j) := by
  unfold endDrop
  split
  next a hbus =>
    have hopen := openAt_of_bus h hbus nofun nofun
    obtain ⟨hdrops, hsorted⟩ := hopen.here.drops
    exact (hopen.setSeg (hopen.here.alter (g' := { s.seg ix with drops := (s.seg ix).drops.filter (· ≠ a) }) rfl rfl rfl rfl rfl rfl rfl rfl id
      ⟨fun b hb => hdrops b (List.mem_filter.1 hb).1, hsorted.filter _⟩ hopen.here.pointer)).endExchange
  next a hbus =>
    obtain ⟨hmode, ha⟩ := (h ix).2.exchange _ hbus
    have hopen := openAt_of_bus h hbus nofun nofun
    obtain ⟨hnext, hrun⟩ := hopen.here.advances hmode
    have hnone : s.rec? ix a = none := by
      rw [ha]
      exact get_none_of_below ((h ix).2.rolled hmode)
    rw [deleteRecord_none hnone]
    exact rollAdvance_laws hopen.others hnext hrun hmode
  next a hbus => exact (openAt_of_bus h hbus nofun nofun).endExchange
  · exact h

/-! ## The search -/

theorem endKey_laws {s : State} (h : ∀ j, SegLaws (s.seg j)) (ix : SegIx) : ∀ j, SegLaws ((endKey ix s).seg j) := by
  unfold endKey
  split
  next hbus =>
    have hmode : (s.seg ix).mode = .keying := (h ix).2.exchange _ hbus
    have hopen := openAt_of_bus h hbus nofun nofun
    obtain ⟨⟨hrising, hnumbers, heach, hqueue, htransfer, hreserved, -, -⟩, hsettled, -⟩ := hopen.here
    have hsearch : Between { s.seg ix with mode := .searching, stack := [[]] } := by
      refine ⟨⟨hrising, hnumbers, fun a r hr => ?_, hqueue, htransfer, hreserved, fun hno => absurd rfl hno, fun _ => .inr rfl⟩,
        hsettled, .inl rfl⟩
      obtain ⟨haddress, hghost, hpart, hquiet, -⟩ := heach a r hr
      refine ⟨haddress, hghost, hpart, fun _ => hquiet ?_, nofun⟩
      rw [hmode]
      nofun
    exact (hopen.setSeg hsearch).endExchange
  · exact h

theorem length_le_of_falling {n : Nat} : ∀ {l : List Bits}, (∀ x, x ∈ l → 1 ≤ x.length ∧ x.length ≤ n) → l.Pairwise (fun x y => y.length < x.length) →
    l.length ≤ n
  | [], _, _ => Nat.zero_le _
  | x :: l, hin, hfall => by
    obtain ⟨hx, hl⟩ := List.pairwise_cons.1 hfall
    obtain ⟨hlow, hhigh⟩ := hin x (List.mem_cons_self ..)
    have hrest : l.length ≤ x.length - 1 := length_le_of_falling (fun y hy => by
      obtain ⟨hy1, -⟩ := hin y (List.mem_cons_of_mem _ hy)
      have := hx y hy
      omega) hl
    rw [List.length_cons]
    omega

/-- The stem asked for is taken off the stack. -/
theorem StemsGood.asked {stem : Bits} {stack : List Bits} (h : StemsGood (stem :: stack)) : StemsGood stack := by
  rcases h with heq | ⟨hlength, hin, hfall, hstrict⟩
  · cases heq
    exact stemsGood_nil
  · rw [List.length_cons] at hlength
    exact .inr ⟨by omega, fun x hx => hin x (List.mem_cons_of_mem _ hx), (List.pairwise_cons.1 hfall).2, hstrict.sublist (List.tail_sublist _)⟩

/-- A stem split: its two branches on the stack (R139). -/
theorem StemsGood.split {stem : Bits} {stack : List Bits} (h : StemsGood (stem :: stack)) (hlong : stem.length < 48) :
    StemsGood ((stem ++ [false]) :: (stem ++ [true]) :: stack) := by
  have hbranch (b : Bool) : (stem ++ [b]).length = stem.length + 1 := by simp
  have hcase : (∀ x, x ∈ stack → 1 ≤ x.length ∧ x.length ≤ stem.length) ∧ stack.Pairwise (fun x y => y.length < x.length) := by
    rcases h with heq | ⟨-, hin, hfall, hstrict⟩
    · cases heq
      exact ⟨nofun, .nil⟩
    · exact ⟨fun x hx => ⟨(hin x (List.mem_cons_of_mem _ hx)).1, (List.pairwise_cons.1 hfall).1 x hx⟩, hstrict⟩
  obtain ⟨hin, hstrict⟩ := hcase
  have hcount := length_le_of_falling hin hstrict
  have htail : ((stem ++ [true]) :: stack).Pairwise (fun x y => y.length < x.length) :=
    List.pairwise_cons.2 ⟨fun x hx => by rw [hbranch]; have := hin x hx; omega, hstrict⟩
  refine .inr ⟨by simp only [List.length_cons]; omega, fun x hx => ?_, List.pairwise_cons.2 ⟨fun x hx => ?_, htail.imp (fun hlt => Nat.le_of_lt hlt)⟩, htail⟩
  · rcases List.mem_cons.1 hx with rfl | hx
    · rw [hbranch]
      omega
    · rcases List.mem_cons.1 hx with rfl | hx
      · rw [hbranch]
        omega
      · have := hin x hx
        omega
  · rw [hbranch]
    rcases List.mem_cons.1 hx with rfl | hx
    · rw [hbranch]
    · have := hin x hx
      omega

theorem freeAddress_good {g : Seg} {a : Nat} (h : freeAddress g = some a) : 1 ≤ a ∧ a ≤ 96 ∧ Table.get g.recs a = none := by
  obtain ⟨hlow, hhigh, hnone, -⟩ := isFree_iff.2 ⟨List.mem_of_find?_eq_some h, List.find?_some (p := fun b => (Table.get g.recs b).isNone && !g.drops.contains b) h⟩
  exact ⟨hlow, hhigh, hnone⟩

theorem endAsk_laws {s : State} (h : ∀ j, SegLaws (s.seg j)) (ix : SegIx) (heard : Heard) :
    ∀ j, SegLaws ((endAsk ix heard s).seg j) := by
  unfold endAsk
  split
  next stem hbus =>
    have hmode : (s.seg ix).mode = .searching := (h ix).2.exchange _ hbus
    obtain ⟨hrest, hb⟩ := (segLaws_iff _).1 (h ix)
    have hstems := hb.stems
    unfold Seg.stems at hstems
    rw [hbus] at hstems
    have hsettled := hb.settled (by rw [hbus]; nofun)
    have hhere : Between (s.seg ix) := ⟨hrest, hsettled, hstems.asked⟩
    have hopen : OpenAt ix s := ⟨hhere, fun j _ => h j⟩
    have hcollided : ∀ j, SegLaws ((endExchange ix (askCollided ix stem s)).seg j) := by
      refine OpenAt.endExchange ?_
      unfold askCollided
      split_ifs with hlong
      · exact hopen.setSeg ⟨⟨hrest.rising, hrest.numbers, hrest.each, hrest.queue, hrest.transfer, hrest.reserved, fun hno => absurd hmode hno, hrest.stop⟩,
          hsettled, hstems.split hlong⟩
      · exact hopen.of_sc rfl
    split
    · exact hopen.endExchange
    · exact hcollided
    · split_ifs
      · unfold askAnswered
        split_ifs
        · exact hopen.endExchange
        · split
          · refine OpenAt.endExchange (hopen.of_seg ?_ (fun j hj => seg_setSeg_other s _ hj))
            rw [seg_endEnrolment]
            exact hhere.ended _
          next a hfree => exact laws_setSeg h (hhere.start (e := .give _ a) ⟨hmode, freeAddress_good hfree⟩ nofun)
      · exact hcollided
  · exact h

theorem countEnrolled_open {ix : SegIx} {s : State} (h : OpenAt ix s) : OpenAt ix (countEnrolled ix s) :=
  h.setSeg (h.here.alter rfl rfl rfl rfl rfl rfl rfl rfl id h.here.drops h.here.pointer)

theorem enrolRecord_laws {ix : SegIx} {s : State} (h : OpenAt ix s) (hmode : (s.seg ix).mode = .searching) {a : Nat} (hnew : s.rec? ix a = none)
    (ha : 1 ≤ a ∧ a ≤ 96) (serial : Serial) (c : PanelClass) : ∀ j, SegLaws ((enrolRecord ix a serial c s).seg j) := by
  obtain ⟨hstate, hghost⟩ := fresh_good serial c none
  obtain ⟨hcreated, hother⟩ := createRecord_created ix a serial c none s
  obtain ⟨hmode', hroll'⟩ := hcreated.mode
  have hturned := hcreated.turned (mode := (s.seg ix).mode) (rollAddr := (s.seg ix).rollAddr) h.here hnew ha (by rw [hmode]; nofun) hstate hghost
  rw [← hmode', ← hroll'] at hturned
  exact (countEnrolled_open (h.of_seg hturned hother)).endExchange

/-- A LOST holder, on this segment or another, is displaced (R141). -/
theorem displace_open {ix : SegIx} {s : State} (h : OpenAt ix s) (hlaws : ∀ j, SegLaws (s.seg j)) {p : Place} (hp : s.rec? p.seg p.address = some p.rec_)
    (hlost : p.rec_.state = .lost) : OpenAt ix (displace p s) ∧ ((displace p s).seg ix).mode = (s.seg ix).mode := by
  by_cases hseg : p.seg = ix
  · rw [displace, hseg]
    rw [hseg] at hp
    refine ⟨h.forget hp, ?_⟩
    rw [markDrop, seg_setSeg_same, seg_deleteRecord hp, if_pos rfl]
    rfl
  · have hall := forget_laws hlaws hp (by rw [hlost]; nofun) (by rw [hlost]; nofun)
    have hsame : (displace p s).seg ix = s.seg ix := by
      rw [displace, markDrop, seg_setSeg_other _ _ (Ne.symm hseg), seg_deleteRecord hp, if_neg (Ne.symm hseg)]
    refine ⟨⟨?_, fun j _ => hall j⟩, congrArg Seg.mode hsame⟩
    rw [hsame]
    exact h.here

theorem endGive_laws {s : State} (h : ∀ j, SegLaws (s.seg j)) (hs : RecordsGood s) (ix : SegIx) (heard : Heard) :
    ∀ j, SegLaws ((endGive ix heard s).seg j) := by
  unfold endGive
  split
  next serial a hbus =>
    obtain ⟨hmode, hlow, hhigh, hnew⟩ := (h ix).2.exchange _ hbus
    have hopen := openAt_of_bus h hbus nofun nofun
    have hfollow : ∀ j, SegLaws ((follow ix (.giveDrop a) s).seg j) := follow_laws h hbus nofun nofun hmode nofun
    have hpanel : ∀ j, SegLaws ((follow ix (.giveDrop a) (raise .panel s)).seg j) := follow_laws (s := raise .panel s) h hbus nofun nofun hmode nofun
    split
    · split
      next c _ =>
        unfold giveAccepted
        split
        · exact enrolRecord_laws hopen hmode hnew ⟨hlow, hhigh⟩ serial c
        next p hheld =>
          split_ifs with hlost
          · obtain ⟨n, -, hholder⟩ := Option.bind_eq_some_iff.1 hheld
            obtain ⟨hp, -⟩ := rec_of_holder hs hholder
            obtain ⟨hdisplaced, hkept⟩ := displace_open hopen h hp hlost
            have hraised : OpenAt ix (raise .panel (displace p s)) := hdisplaced.of_sc rfl
            refine enrolRecord_laws hraised ?_ ?_ ⟨hlow, hhigh⟩ serial c
            · rw [seg_raise, hkept]
              exact hmode
            · rw [rec_raise, displace, rec_markDrop, rec_deleteRecord]
              split_ifs
              · rfl
              · exact hnew
          · exact hpanel
      · exact hpanel
    · exact hfollow
    · exact hfollow
  · exact h

end Sys2Proof.Machine
end

section
/-! PROOFS. Every step keeps the laws of the segments, the tables and the bindings (spec: R97, R100, R107, R110, R114–R170). -/

namespace Sys2Proof.Machine

/-! ## Requests -/

/-- A segment that polls goes on in RUN or DRAINING, no search on its stack. -/
theorem SegLaws.polling {g : Seg} (h : SegLaws g) (hp : g.polls) {mode : SegMode} (hmode : mode = .run ∨ mode = .draining)
    (lastEnrol : Option (EnrolResult × Nat)) (enrolCount : Nat) :
    SegLaws { g with mode, stack := [], stopWaiting := false, lastEnrol, enrolCount } := by
  obtain ⟨⟨hrising, hnumbers, heach, hqueue, htransfer, hreserved, hstack, -⟩, hb⟩ := (segLaws_iff g).1 h
  have hempty : g.stack = [] := hstack (by rcases hp with hm | hm <;> (rw [hm]; nofun))
  refine (segLaws_iff _).2 ⟨⟨hrising, hnumbers, fun a r hr => ?_, hqueue, htransfer, hreserved, fun _ => rfl, nofun⟩, ⟨fun e he => ?_, hb.settled, ?_⟩⟩
  · obtain ⟨haddress, hghost, hpart, -, -⟩ := heach a r hr
    refine ⟨haddress, hghost, hpart, fun hno => absurd hmode hno, fun hm => ?_⟩
    simp only at hm
    rw [hm] at hmode
    rcases hmode with hm | hm <;> cases hm
  · have hold := hb.exchange e he
    have hnot (m : SegMode) (hm : m ≠ .run ∧ m ≠ .draining) : g.mode ≠ m := by
      rintro rfl
      rcases hp with hrun | hdraining
      · exact hm.1 hrun
      · exact hm.2 hdraining
    cases e with
    | poll a => exact hmode
    | probe a => exact ⟨hmode, hold.2⟩
    | load a i n d => exact ⟨hmode, hold.2⟩
    | showFace a k d n => exact ⟨hmode, hold.2⟩
    | completion a => exact ⟨hmode, hold.2⟩
    | drop a => exact hmode
    | rollIdent a => exact absurd hold.1 (hnot .starting ⟨nofun, nofun⟩)
    | rollDrop a => exact absurd hold.1 (hnot .starting ⟨nofun, nofun⟩)
    | key => exact absurd hold (hnot .keying ⟨nofun, nofun⟩)
    | ask stem => exact absurd hold (hnot .searching ⟨nofun, nofun⟩)
    | give serial a => exact absurd hold.1 (hnot .searching ⟨nofun, nofun⟩)
    | giveDrop a => exact absurd hold (hnot .searching ⟨nofun, nofun⟩)
  · have hstems := hb.stems
    unfold Seg.stems at hstems ⊢
    rw [hempty] at hstems
    exact hstems

/-- A stop waits (R144). -/
theorem SegLaws.stopping {g : Seg} (h : SegLaws g) (hmode : g.mode = .keying ∨ g.mode = .searching) : SegLaws { g with stopWaiting := true } := by
  obtain ⟨hrest, hb⟩ := (segLaws_iff g).1 h
  refine (segLaws_iff _).2 ⟨⟨hrest.rising, hrest.numbers, hrest.each, hrest.queue, hrest.transfer, hrest.reserved, hrest.stack, fun _ => hmode⟩,
    hb.change rfl rfl rfl rfl (.inl rfl) (fun a y hy => ⟨y, hy, id⟩) (fun a x f _ hx hf => ⟨x, f, hx, hf⟩)⟩

theorem stopEnrolment_laws {s : State} (h : ∀ j, SegLaws (s.seg j)) (ix : SegIx) : ∀ j, SegLaws ((stopEnrolment ix s).seg j) := by
  have hend (hix : SegLaws ((endEnrolment ix .stopped s).seg ix)) : ∀ j, SegLaws ((endEnrolment ix .stopped s).seg j) :=
    laws_of_seg h ix hix (fun j hj => seg_setSeg_other s _ hj)
  unfold stopEnrolment
  split
  next hmode =>
    refine hend ?_
    rw [seg_endEnrolment]
    exact (h ix).polling (.inr hmode) (.inl rfl) _ _
  next hmode =>
    split_ifs with hquiet
    · have hbus : (s.seg ix).bus = none := Option.isNone_iff_eq_none.1 hquiet
      have hhere : Between (s.seg ix) := (h ix).between (by rw [hbus]; nofun) (by rw [hbus]; nofun)
      refine hend ?_
      rw [seg_endEnrolment]
      exact (hhere.ended _).quiet hbus
    · exact laws_setSeg h ((h ix).stopping (.inl hmode))
  next hmode => exact laws_setSeg h ((h ix).stopping (.inr hmode))
  · exact h
  · exact h

theorem enrol_laws {s : State} (h : ∀ j, SegLaws (s.seg j)) {ix : SegIx} (hmode : (s.seg ix).mode = .run) :
    ∀ j, SegLaws ((judgeDrain ix (s.setSeg ix { s.seg ix with mode := .draining, enrolCount := 0 })).seg j) := by
  obtain ⟨hrest, -⟩ := (segLaws_iff _).1 (h ix)
  have hdraining := (h ix).polling (.inl hmode) (mode := .draining) (.inr rfl) (s.seg ix).lastEnrol 0
  have hstack : (s.seg ix).stack = [] := hrest.stack (by rw [hmode]; nofun)
  have hstop : (s.seg ix).stopWaiting = false := by
    by_contra hw
    rcases hrest.stop (Bool.eq_true_of_not_eq_false hw) with hm | hm <;> (rw [hmode] at hm; cases hm)
  rw [← hstack, ← hstop] at hdraining
  exact judgeDrain_laws (laws_setSeg h hdraining) ix

theorem BusRequest.laws {s t : State} (h : BusRequest s t) (hlaws : ∀ j, SegLaws (s.seg j)) : ∀ j, SegLaws (t.seg j) := by
  cases h with
  | nothing => exact hlaws
  | mask m => exact hlaws
  | flags => exact hlaws
  | enrol hmode => exact enrol_laws hlaws hmode
  | stopEnrol _ _ => exact stopEnrolment_laws hlaws _
  | forget _ _ _ hx hl hf => exact forget_laws hlaws hx hl hf
  | @refresh ix a x hx _ =>
    have hmarked : ∀ j, SegLaws ((s.putRec ix a { x with forcedFull := true }).seg j) := laws_putRec hlaws hx ⟨rfl, rfl, rfl⟩
    exact laws_setSeg hmarked ((hmarked ix).evaluate a .normal)

/-! ## Deeds on the buses -/

theorem chooseIfQuiet_laws {s : State} (h : ∀ j, SegLaws (s.seg j)) (ix : SegIx) : ∀ j, SegLaws ((chooseIfQuiet ix s).seg j) := by
  unfold chooseIfQuiet
  split
  next hbus =>
    obtain ⟨hlaws, hother⟩ := chooseNext_laws ((h ix).between (by rw [hbus]; nofun) (by rw [hbus]; nofun)) hbus
    exact laws_of_seg h ix hlaws hother
  · exact h

theorem BusDeed.laws {s t : State} (h : BusDeed s t) (hs : RecordsGood s) (hlaws : ∀ j, SegLaws (s.seg j)) : ∀ j, SegLaws (t.seg j) := by
  cases h with
  | request hr => exact hr.laws hlaws
  | choose ix => exact chooseIfQuiet_laws hlaws ix
  | poll ix heard => exact endPoll_laws hlaws ix heard
  | probe ix heard => exact endProbe_laws hlaws ix heard
  | chunk ix heard => exact endLoad_laws hlaws ix heard
  | shown ix heard => exact endShow_laws hlaws ix heard
  | due ix a => exact pollDue_laws hlaws ix a
  | completion ix heard => exact endCompletion_laws hlaws ix heard
  | final ix a => exact finalComes_laws hlaws ix a
  | dropped ix => exact endDrop_laws hlaws ix
  | ident ix heard => exact endRollIdent_laws hlaws ix heard
  | drained ix => exact judgeDrain_laws hlaws ix
  | key ix => exact endKey_laws hlaws ix
  | ask ix heard => exact endAsk_laws hlaws ix heard
  | give ix heard => exact endGive_laws hlaws hs ix heard

theorem BusRequest.waits {s t : State} (h : BusRequest s t) (hwaits : ∀ ix, Waits (s.seg ix)) : t.sc = s.sc := by
  have hempty (ix : SegIx) (a : Nat) : s.rec? ix a = none := by
    obtain ⟨-, -, hrecs⟩ := hwaits ix
    rw [State.rec?, hrecs]
    rfl
  have hmode (ix : SegIx) : (s.seg ix).mode = .starting := (hwaits ix).1
  cases h with
  | nothing => rfl
  | mask m => rfl
  | flags => rfl
  | enrol hrun =>
    rw [hmode] at hrun
    cases hrun
  | stopEnrol hno _ => exact absurd (hmode _) hno
  | forget _ _ hrun _ _ _ =>
    rw [hmode] at hrun
    cases hrun
  | refresh hx _ =>
    rw [hempty] at hx
    cases hx

/-- Before the load has ended nothing happens on a bus (R129). -/
theorem BusDeed.waits {s t : State} (h : BusDeed s t) (hload : s.ps.plan = .loading) (hwaits : ∀ ix, Waits (s.seg ix)) : t.sc = s.sc := by
  have hmode (ix : SegIx) : (s.seg ix).mode = .starting := (hwaits ix).1
  have hbus (ix : SegIx) : (s.seg ix).bus = none := (hwaits ix).2.1
  have hempty (ix : SegIx) (a : Nat) : s.rec? ix a = none := by
    obtain ⟨-, -, hrecs⟩ := hwaits ix
    rw [State.rec?, hrecs]
    rfl
  cases h with
  | request hr => exact hr.waits hwaits
  | choose ix => simp only [chooseIfQuiet, hbus, chooseNext, hmode, hload, if_pos]
  | poll ix heard => simp only [endPoll, hbus]
  | probe ix heard => simp only [endProbe, hbus]
  | chunk ix heard => simp only [endLoad, hbus]
  | shown ix heard => simp only [endShow, hbus]
  | due ix a => simp only [pollDue, hempty]
  | completion ix heard => simp only [endCompletion, hbus]
  | final ix a => simp only [finalComes, hempty]
  | dropped ix => simp only [endDrop, hbus]
  | ident ix heard => simp only [endRollIdent, hbus]
  | drained ix => simp only [judgeDrain, hmode, reduceCtorEq, false_and, if_false]
  | key ix => simp only [endKey, hbus]
  | ask ix heard => simp only [endAsk, hbus]
  | give ix heard => simp only [endGive, hbus]

theorem BusDeed.ordered {s t : State} (h : BusDeed s t) (hr : RecordsGood s) (hs : SegmentsOrdered s) : SegmentsOrdered t := by
  refine ⟨h.laws hr hs.1, fun hl ix => ?_⟩
  have hload : s.ps.plan = .loading := by rw [← h.busWork.ps]; exact hl
  rw [State.seg, h.waits hload (hs.2 hload)]
  exact hs.2 hload ix

/-! ## Every step -/

theorem Does.ordered {s t : State} (h : Does s t) (ht : TablesGood s) (hr : RecordsGood s) (hs : SegmentsOrdered s) : SegmentsOrdered t := by
  refine h.keeps deliveries_segments hs (fun hb => hb.ordered hr hs) (fun _ hb => hb.ordered ht hs) (fun cause pin => ?_)
    (fun answers => endLoadImage_ordered answers hs)
  obtain ⟨-, hrecords, -, hsegments⟩ := resetBlocks_tables cause pin s
  exact hsegments.ordered hrecords

/-- The tables and the records in order. -/
def InOrder (s : State) : Prop := TablesGood s ∧ RecordsGood s

/-- The tables and the records in order, the bindings and the segments lawful. -/
def AllGood (s : State) : Prop := TablesGood s ∧ RecordsGood s ∧ BindingsGood s ∧ SegmentsGood s

theorem Quiet.inOrder {s t : State} (h : Quiet s t) (hs : InOrder s) : InOrder t := by
  obtain ⟨ht, hr⟩ := hs
  refine ⟨?_, ?_⟩
  · unfold TablesGood at ht ⊢
    rw [h.lu, h.sessions, h.nu, h.ps, h.fr]
    exact ht
  · exact recordsGood_of_named (fun ix => by rw [State.seg, State.seg, h.sc]) hr

theorem Quiet.allGood {s t : State} (h : Quiet s t) (hs : AllGood s) : AllGood t := by
  obtain ⟨ht, hr, hb, hsegs⟩ := hs
  obtain ⟨ht', hr'⟩ := h.inOrder ⟨ht, hr⟩
  refine ⟨ht', hr', ?_, fun ix => ?_⟩
  · obtain ⟨hserials, hbound, hpins, hfaces⟩ := hb
    have hholder (n : Nat) : t.holder n = s.holder n := holder_of_sc h.sc n
    have hrec (ix : SegIx) (a : Nat) : t.rec? ix a = s.rec? ix a := rec_of_sc h.sc ix a
    refine ⟨by rw [h.ps]; exact hserials, fun ix a r n hx hn => ?_, ?_, fun n hn => ?_⟩
    · rw [hrec] at hx
      rw [h.ps]
      exact hbound ix a r n hx hn
    · rw [h.nu]
      exact ⟨hpins.1, fun n hn => by rw [hholder]; exact hpins.2 n hn⟩
    · rw [h.fr] at hn
      rw [hholder]
      exact hfaces n hn
  · rw [State.seg, h.sc, h.ps]
    exact hsegs ix

theorem Does.allGood {s t : State} (h : Does s t) (hs : AllGood s) : AllGood t := by
  obtain ⟨ht, hr, hb, hsegs⟩ := hs
  obtain ⟨ht', hr'⟩ := h.tables ⟨ht, hr⟩
  exact ⟨ht', hr', h.bindings ht hr hb hsegs, (h.ordered ht hr (hsegs.ordered hr)).good⟩

/-- Settles O59: bookkeeping and every deed keep the tables and records in order, and so the bindings and the segments lawful. -/
theorem everyStepKeepsTheTablesGood : Obligations.EveryStepKeepsTheTablesGood := by
  refine ⟨fun s t hs h => ?_, fun s t hs h => ?_⟩
  · exact step_keeps (P := InOrder) (fun _ _ hq => hq.inOrder) (fun _ _ hd => hd.tables) h hs
  · obtain ⟨-, -, hbindings, hsegments⟩ := step_keeps (P := AllGood) (fun _ _ hq => hq.allGood) (fun _ _ hd => hd.allGood) h hs
    exact ⟨hbindings, hsegments⟩

end Sys2Proof.Machine
end

section
/-! PROOFS. Every step keeps the faces (spec: R17, R37, R38, R71, R72, R86, R87, R93–R100, R111–R116). -/

namespace Sys2Proof.Machine

/-! ## Tables by what they hold -/

theorem Table.eq_of_get {α : Type} {t u : Table α} (ht : Table.rising t = true) (hu : Table.rising u = true)
    (h : ∀ n, Table.get t n = Table.get u n) : t = u := by
  rw [Table.rising_iff] at ht hu
  have hnodup {l : Table α} (hl : l.Pairwise (fun x y => x.1 < y.1)) : l.Nodup := hl.imp (fun hlt heq => by rw [heq] at hlt; omega)
  have hmem (e : Nat × α) : e ∈ t ↔ e ∈ u := by
    have hget {l : Table α} (hl : l.Pairwise (fun x y => x.1 < y.1)) : e ∈ l ↔ Table.get l e.1 = some e.2 :=
      ⟨Table.get_of_mem ((Table.rising_iff l).2 hl), mem_of_get⟩
    rw [hget ht, hget hu, h]
  exact ((List.perm_ext_iff_of_nodup (hnodup ht) (hnodup hu)).2 hmem).eq_of_pairwise (fun x y _ _ hxy hyx => by omega) ht hu

/-- Notices changed in one zone: those of the masks without it stand. -/
theorem filter_notices {t u : Table Notice} (ht : Table.rising t = true) (hu : Table.rising u = true) {zone : Nat}
    (h : ∀ z, z ≠ zone → Table.get t z = Table.get u z) {mask : Half} (hmask : inZone mask zone = false) :
    t.filter (fun e => inZone mask e.1) = u.filter (fun e => inZone mask e.1) := by
  refine Table.eq_of_get (Table.rising_filter ht _) (Table.rising_filter hu _) (fun n => ?_)
  rw [Table.get_filter_key, Table.get_filter_key]
  by_cases hn : n = zone
  · rw [hn, hmask]
    rfl
  · rw [h n hn]

theorem changeNotices_faces {s : State} (h : FacesNow s) (hs : Table.rising s.nu.notices = true) {zone : Nat} {m : Table Notice}
    (hm : Table.rising m = true) (hsame : ∀ z, z ≠ zone → Table.get m z = Table.get s.nu.notices z) : FacesNow (changeNotices zone m s) := by
  have hexcept := h.notices [zone] m (fun mask hmask => filter_notices hm hs hsame (hmask zone (List.mem_singleton_self zone)))
  refine (facesNow_iff _).2 ((foldl_recomputeZone_faces hexcept [zone]).mono (fun n hn => ?_))
  exact hn.2 hn.1

/-! ## Sessions -/

theorem finish_unchanged {s : State} {n : Nat} {x : Session} (h : SessionChange s n x false) : Table.get s.sessions n = some x := by
  generalize hc : false = changed at h
  cases h with
  | store _ _ _ => cases hc
  | cancel _ => cases hc
  | restore _ _ => cases hc
  | extend _ _ => cases hc
  | @finish _ e x hx _ _ =>
    have hsame : x.earlyEnd = some e := by
      by_contra hne
      rw [decide_eq_true hne] at hc
      cases hc
    rw [← hsame]
    exact hx

theorem reevaluateOne_faces {s : State} (h : FacesNow s) {n : Nat} {x : Session} {changed : Bool} (hx : SessionChange s n x changed) :
    FacesNow (reevaluateOne changed n x s) := by
  unfold reevaluateOne
  simp only
  split_ifs with hmoves
  · exact recomputeAll_faces _
  · rw [Bool.or_eq_true, not_or, Bool.not_eq_true, Bool.not_eq_true] at hmoves
    obtain ⟨rfl, hstays⟩ := hmoves
    have hheld := finish_unchanged hx
    have hwarned : FacesNow { s with sessions := Table.put s.sessions n (s.evalSession x).judgeWarning } := by
      rw [evalSession_of_not_moved hstays]
      have hshown : Table.mapVals (Session.shown s.ps.options.doorLead) (Table.put s.sessions n x.judgeWarning)
          = Table.mapVals (Session.shown s.ps.options.doorLead) s.sessions := Table.mapVals_put _ _ _ _ _ hheld rfl
      refine h.congr ?_ rfl rfl rfl rfl
      simp only [faceView, hshown]
    unfold raiseIf
    split_ifs
    · exact hwarned.raise .layout
    · exact hwarned

/-! ## Options -/

/-- The option change that FR is not told of (R37): the door lead, while a cancelled session takes it. -/
def LeadTold (s t : State) : Prop :=
  t.ps.options.doorLead = s.ps.options.doorLead ∨ ∀ e, e ∈ s.sessions → e.2.cancelled = true → e.2.lead ≠ none

theorem shown_lead {x : Session} (h : x.cancelled = true → x.lead ≠ none) (lead lead' : Nat) : x.shown lead = x.shown lead' := by
  unfold Session.shown
  split_ifs with hc
  · obtain ⟨k, hk⟩ := Option.ne_none_iff_exists'.1 (h hc)
    simp only [Session.leadInForce, hk, Option.getD_some]
  · rfl

/-- An option FR is not told of is one it does not read. -/
theorem FacesNow.setOptions {s : State} (h : FacesNow s) {o : Options} (hwindow : o.nextWindow = s.ps.options.nextWindow)
    (hhorizon : o.horizon = s.ps.options.horizon) (htext : o.privateText = s.ps.options.privateText)
    (hlead : LeadTold s (s.setOptions o)) : FacesNow (s.setOptions o) := by
  refine h.congr ?_ rfl rfl rfl rfl
  have hsessions : Table.mapVals (Session.shown o.doorLead) s.sessions = Table.mapVals (Session.shown s.ps.options.doorLead) s.sessions := by
    rcases hlead with hsame | htold
    · have hsame : o.doorLead = s.ps.options.doorLead := hsame
      rw [hsame]
    · unfold Table.mapVals
      exact List.map_congr_left (fun e he => congrArg (Prod.mk e.1) (shown_lead (htold e he) _ _))
  simp only [faceView, State.setOptions, hwindow, hhorizon, htext, hsessions]

theorem put_faces {n : Nat} (h3 : n ≠ 3) (h4 : n ≠ 4) (o : Options) (v : Int) :
    (o.put n v).nextWindow = o.nextWindow ∧ (o.put n v).horizon = o.horizon := by
  unfold Options.put
  split
  case h_4 => exact absurd rfl h3
  case h_5 => exact absurd rfl h4
  all_goals exact ⟨rfl, rfl⟩

theorem applyOption_faces {s : State} (h : FacesNow s) {n : Nat} {o : Options} (ho : OptionChange s.ps.options n o)
    (hlead : LeadTold s (applyOption n o s)) : FacesNow (applyOption n o s) := by
  by_cases hsame : o = s.ps.options
  · rw [applyOption_same n s hsame]
    exact h
  · rw [applyOption_changed n s hsame] at hlead ⊢
    have hps : (optionChanged n (s.setOptions o)).ps.options = o :=
      optionChanged_keeps (P := fun u => u.ps.options = o) (fun v hv => by rw [(reevaluateSessions_follows v).ps]; exact hv)
        (fun v hv => by rw [(recomputeAll_work v).follows.ps]; exact hv) (fun v hv => by rw [(judgeColdAll_segWork v).ps]; exact hv) n _ rfl
    have htold : LeadTold s (s.setOptions o) := by
      unfold LeadTold at hlead ⊢
      rw [hps] at hlead
      exact hlead
    cases ho with
    | text r => exact recomputeAll_faces _
    | value v hn =>
      by_cases h3 : n = 3
      · rw [h3]
        exact recomputeAll_faces _
      · by_cases h4 : n = 4
        · rw [h4]
          exact recomputeAll_faces _
        · obtain ⟨hwindow, hhorizon⟩ := put_faces h3 h4 s.ps.options (appliedValue n v)
          have hset := h.setOptions hwindow hhorizon (privateText_put _ n _) htold
          unfold optionChanged
          split
          · exact hset.reevaluateAll
          · exact recomputeAll_faces _
          · exact recomputeAll_faces _
          · exact (judgeColdAll_segWork _).faces hset
          · exact recomputeAll_faces _
          · exact hset

/-! ## The clock -/

theorem FacesNow.setTime {s : State} (h : FacesNow s) (day minute second : Nat) (hday : day = s.clock.day) (hminute : minute = s.clock.minute) :
    FacesNow (s.setTime day minute second) := by
  subst hday hminute
  exact h.congr rfl rfl rfl rfl rfl

theorem tickClock_faces {s : State} (h : FacesNow s) : FacesNow (tickClock s) := by
  unfold tickClock
  split_ifs with hmode
  · refine FacesNow.raise ?_ .clock
    refine h.congr ?_ rfl rfl rfl rfl
    simp only [faceView, Clock.shown, hmode]
    rfl
  · unfold passMinute
    split_ifs
    · exact turnover_faces _
    · exact turnover_faces _
  · exact h.setTime _ _ _ rfl rfl
  · exact h

theorem moveBack_faces {s : State} (h : FacesNow s) (hc : ClockGood s.clock) (k : Nat) : FacesNow (moveBack k s) := by
  obtain ⟨-, hminute, hsecond, -⟩ := hc
  unfold moveBack
  simp only
  split_ifs with hsame
  · rw [seconds_eq] at hsame ⊢
    exact h.setTime _ _ _ (by omega) (by omega)
  · exact clockChange_faces false _

/-! ## Slots of PS -/

theorem FacesExcept.fewer {stale : Nat → Prop} {s t : State} (h : FacesExcept stale s) (hview : faceView t = faceView s)
    (hpanels : ∀ n, ¬ stale n → Table.get t.ps.panels n = Table.get s.ps.panels n)
    (hclass : ∀ n c, ¬ stale n → t.holderClass n = some c → s.holderClass n = some c)
    (hslot : ∀ n, ¬ stale n → Table.get t.nu.pins n = Table.get s.nu.pins n ∧ Table.get t.fr.faces n = Table.get s.fr.faces n
      ∧ Table.get t.fr.pages n = Table.get s.fr.pages n) : FacesExcept stale t := by
  intro n p c hp hc hstale
  rw [hpanels n hstale] at hp
  obtain ⟨hpin, hface, hpage⟩ := hslot n hstale
  exact (h n p c hp (hclass n c hstale hc) hstale).congr hview hpin hface (by rw [State.pageIndex, hpage]; rfl)

/-- A stale slot that no record holds is none. -/
theorem FacesExcept.unheld {slot : Nat} {s : State} (h : FacesExcept (fun n => n = slot) s) (hfree : s.holder slot = none) : FacesNow s := by
  refine (facesNow_iff s).2 (fun n p c hp hc _ => h n p c hp hc ?_)
  rintro rfl
  rw [State.holderClass, hfree] at hc
  cases hc

theorem strayHolder_faces {s : State} (hs : RecordsGood s) {slot : Nat} (h : FacesExcept (fun n => n = slot) s) : FacesNow (strayHolder slot s) := by
  obtain ⟨-, hfree, -⟩ := strayHolder_standing hs slot
  refine FacesExcept.unheld ?_ hfree
  unfold strayHolder
  split
  next p hp =>
    obtain ⟨hx, hb⟩ := rec_of_holder hs hp
    have hwork := BusWork.makeStray p.seg p.address s
    have hput : RecordsGood (s.putRec p.seg p.address { p.rec_ with binding := none }) := hs.putBound (fun n jx b hn => by cases hn)
    refine h.fewer ?_ (fun n _ => by rw [hwork.ps]) (fun n c hn hc => ?_) (fun n hn => ⟨?_, ?_⟩)
    · simp only [faceView, hwork.lu, hwork.clock, hwork.sessions, hwork.text, hwork.notices, hwork.ps]
    · refine holderClass_putRec hs hput (y := { p.rec_ with binding := none }) nofun ?_
      rw [← holderClass_of_bound (bound_of_named (makeStray_named hx hb))]
      exact hc
    · rw [makeStray_pins hx hb, Table.get_del_other _ hn]
    · rw [makeStray_fr hx hb]
      exact resolverLoses_fr_other s hn
  · exact h

theorem setPages_faces {s : State} (h : FacesNow s) (n : Nat) (p : PanelSlot) :
    FacesExcept (fun m => m = n) (setPages n p.role { s with ps := { s.ps with panels := Table.put s.ps.panels n p } }) := by
  have hput : FacesExcept (fun m => m = n) { s with ps := { s.ps with panels := Table.put s.ps.panels n p } } :=
    (((facesNow_iff s).1 h).mono (fun _ hf => hf.elim)).fewer rfl (fun m hm => Table.get_put_other _ _ hm) (fun _ _ _ hc => hc)
      (fun _ _ => ⟨rfl, rfl, rfl⟩)
  unfold setPages
  split
  · exact hput.fewer rfl (fun _ _ => rfl) (fun _ _ _ hc => hc) (fun m hm => ⟨rfl, rfl, Table.get_put_other _ _ hm⟩)
  · exact hput.fewer rfl (fun _ _ => rfl) (fun _ _ _ hc => hc) (fun m hm => ⟨rfl, rfl, Table.get_del_other _ hm⟩)

theorem definePanel_faces {s : State} (h : FacesNow s) (hs : RecordsGood s) (n : Nat) (p : PanelSlot) (before : Option Serial) :
    FacesNow (workBinding n before p.serial (setPages n p.role { s with ps := { s.ps with panels := Table.put s.ps.panels n p } })) := by
  have hpages := setPages_faces h n p
  have hput : RecordsGood { s with ps := { s.ps with panels := Table.put s.ps.panels n p } } := hs
  have hrecords := (setPages_aside n p.role { s with ps := { s.ps with panels := Table.put s.ps.panels n p } }).records hput
  have hpanel : Table.get (setPages n p.role { s with ps := { s.ps with panels := Table.put s.ps.panels n p } }).ps.panels n = some p := by
    rw [(setPages_follows n p.role _).ps]
    exact Table.get_put_same _ _ _
  rcases workBinding_steps (vacant := True) (before := before) hrecords hpanel rfl with ⟨heq, -⟩ | ⟨-, hsteps⟩
  · rw [heq]
    exact hpages.recomputed
  · exact hsteps.faces (strayHolder_standing hrecords n).1 (strayHolder_faces hrecords hpages)

theorem removePanel_faces {s : State} (h : FacesNow s) (hs : RecordsGood s) (n : Nat) :
    FacesNow (discardPages n (strayHolder n { s with ps := { s.ps with panels := Table.del s.ps.panels n } })) := by
  have hdel : FacesExcept (fun m => m = n) { s with ps := { s.ps with panels := Table.del s.ps.panels n } } :=
    (((facesNow_iff s).1 h).mono (fun _ hf => hf.elim)).fewer rfl (fun m hm => Table.get_del_other _ hm) (fun _ _ _ hc => hc)
      (fun _ _ => ⟨rfl, rfl, rfl⟩)
  have hrecords : RecordsGood { s with ps := { s.ps with panels := Table.del s.ps.panels n } } := hs
  obtain ⟨-, hfree, -⟩ := strayHolder_standing hrecords n
  have hstray := strayHolder_faces hrecords hdel
  generalize strayHolder n { s with ps := { s.ps with panels := Table.del s.ps.panels n } } = u at hfree hstray ⊢
  refine FacesExcept.unheld (slot := n) ?_ hfree
  exact (((facesNow_iff u).1 hstray).mono (fun _ hf => hf.elim)).fewer rfl (fun _ _ => rfl) (fun _ _ _ hc => hc)
    (fun m hm => ⟨rfl, rfl, Table.get_del_other _ hm⟩)

theorem changePins_faces {s : State} (h : FacesNow s) {n : Nat} {pins : Table Pin} (hpins : ∀ m, m ≠ n → Table.get pins m = Table.get s.nu.pins m) :
    FacesNow (changePins n pins s) := by
  refine FacesExcept.recomputed ?_
  exact (((facesNow_iff s).1 h).mono (fun _ hf => hf.elim)).fewer rfl (fun _ _ => rfl) (fun _ _ _ hc => hc)
    (fun m hm => ⟨hpins m hm, rfl, rfl⟩)

/-! ## Requests -/

theorem BlockRequest.faces {s t : State} (h : BlockRequest s t) (hc : ClockGood s.clock) (ht : TablesGood s) (hs : RecordsGood s) (hf : FacesNow s)
    (hlead : LeadTold s t) : FacesNow t := by
  cases h with
  | option ho => exact applyOption_faces hf ho hlead
  | save _ => exact hf.of_inputs rfl rfl rfl rfl rfl rfl rfl rfl rfl
  | @layout sections walls combos _ => exact (rederive_tables_taken s (lu := { s.lu with sections, walls, combos }) rfl).faces (.inr hf)
  | wall _ _ _ => exact (putWall_taken _ _ _ s).faces (.inr hf)
  | clock purge _ => exact clockChange_faces purge _
  | ticks k => exact times_keeps (P := FacesNow) (fun _ hu => tickClock_faces hu) k hf
  | back k _ => exact moveBack_faces hf hc k
  | session _ _ hx => exact reevaluateOne_faces hf hx
  | drop n => exact recomputeAll_faces _
  | text _ => exact recomputeAll_faces _
  | notices hrising hsame =>
    obtain ⟨-, -, -, -, hnotices, -⟩ := ht
    exact changeNotices_faces hf hnotices (hrising hnotices) hsame
  | pin pin _ _ => exact changePins_faces hf (fun m hm => Table.get_put_other _ _ hm)
  | unpin n => exact changePins_faces hf (fun m hm => Table.get_del_other _ hm)
  | hold => exact hf.congr rfl rfl rfl rfl rfl
  | release => exact hf.congr rfl rfl rfl rfl rfl
  | @definePanel n p _ => exact definePanel_faces hf hs n p _
  | removePanel n => exact removePanel_faces hf hs n

end Sys2Proof.Machine
end

section
/-! PROOFS. Every deed and every step keeps the faces (spec: R71, R72, R87, R189, R204). -/

namespace Sys2Proof.Machine

theorem sampleWall_faces {s : State} (h : FacesNow s) (contacts : BitVec 96) (i : Nat) : FacesNow (sampleWall contacts i s) := by
  unfold sampleWall
  split
  · exact h
  · refine (putWall_taken _ _ _ _).faces (.inr ?_)
    unfold raiseIf
    split_ifs
    · exact h.raise .wall
    · exact h

theorem scanWalls_faces {s : State} (h : FacesNow s) (contacts : BitVec 96) : FacesNow (scanWalls contacts s) := by
  unfold scanWalls
  split_ifs
  · exact h
  · exact foldl_keeps (P := FacesNow) (f := fun u i => sampleWall contacts i u) (fun i _ _ hu => sampleWall_faces hu contacts i) h

theorem holdRunsOut_faces {s : State} (h : FacesNow s) : FacesNow (holdRunsOut s) := by
  have hreleased : FacesNow { s with nu := { s.nu with held := false, timer := 0 } } := h.congr rfl rfl rfl rfl rfl
  exact hreleased.raise .hold

theorem tickHold_faces {s : State} (h : FacesNow s) : FacesNow (tickHold s) := by
  unfold tickHold
  split_ifs
  · exact holdRunsOut_faces h
  · exact h.congr rfl rfl rfl rfl rfl
  · exact h

theorem expireClock_faces {s : State} (h : FacesNow s) (hmode : s.clock.mode = .running) : FacesNow (expireClock s) := by
  refine FacesNow.raise ?_ .clock
  refine h.congr ?_ rfl rfl rfl rfl
  simp only [faceView, Clock.shown, hmode]
  rfl

theorem passMinute_faces (s : State) : FacesNow (passMinute s) := by
  unfold passMinute
  split_ifs
  · exact turnover_faces _
  · exact turnover_faces _

/-- A save touches neither the options nor the panels. -/
theorem FacesNow.withSave {s : State} (h : FacesNow s) (lastSave : SaveResult) (plan : PlanState) (save : Option Save) (flash : Flash) :
    FacesNow { s with ps := { s.ps with lastSave, plan, save, flash } } := h.of_inputs rfl rfl rfl rfl rfl rfl rfl rfl rfl

theorem failSave_faces {s : State} (h : FacesNow s) (v : Save) : FacesNow (failSave v s) := (h.withSave _ _ _ _).raise .save

theorem endStage_faces {s : State} (h : FacesNow s) (stage : SaveStage) (passed : Bool) : FacesNow (endStage stage passed s) := by
  unfold endStage
  split
  · exact h
  next v _ =>
    split_ifs
    · unfold passStage
      simp only
      split
      · exact h.withSave s.ps.lastSave s.ps.plan _ _
      · exact h.withSave s.ps.lastSave s.ps.plan _ _
      · exact (h.withSave _ _ _ _).raise .save
    · exact failSave_faces h v
    · exact h

theorem flashTimesOut_faces {s : State} (h : FacesNow s) : FacesNow (flashTimesOut s) := by
  unfold flashTimesOut
  split
  · exact h
  · exact failSave_faces h _

theorem Does.faces {s t : State} (h : Does s t) (hc : ClockGood s.clock) (ht : TablesGood s) (hs : RecordsGood s) (hf : FacesNow s)
    (hlead : LeadTold s t) : FacesNow t := by
  cases h with
  | bus hb => exact hb.steps.faces hs hf
  | owner hr => exact hr.faces hc ht hs hf hlead
  | @edit u _ _ hr _ => exact (hr.faces hc ht hs hf hlead).of_inputs rfl rfl rfl rfl rfl rfl rfl rfl rfl
  | restart =>
    obtain ⟨-, -, hparts⟩ := applyRestart_restarts s
    exact (hparts .resolver).2
  | reset cause pin =>
    obtain ⟨-, -, -, -, -, -, -, -, -, -, -, -, hfaces⟩ := resetIsGood
    exact hfaces.congr rfl rfl rfl rfl rfl
  | load answers =>
    unfold endLoadImage
    split_ifs
    · exact deliverLoadEnd_faces _ _
    · exact hf
  | tick => exact tickHold_faces (tickClock_faces hf)
  | holdEnds => exact holdRunsOut_faces hf
  | expire hmode _ => exact expireClock_faces hf hmode
  | minute _ _ _ => exact passMinute_faces s
  | scan contacts => exact scanWalls_faces hf contacts
  | stage stage passed => exact endStage_faces hf stage passed
  | flashTimeout => exact flashTimesOut_faces hf

theorem Quiet.faces {s t : State} (h : Quiet s t) (hf : FacesNow s) : FacesNow t :=
  hf.of_inputs (by rw [h.lu]) h.clock h.sessions h.text h.nu (by rw [h.ps]) (by rw [h.ps]) h.sc h.fr

/-- What every step keeps beside the faces, that the faces rest on. -/
def FacesHold (s : State) : Prop := ClockGood s.clock ∧ TablesGood s ∧ RecordsGood s ∧ FacesNow s

theorem Quiet.facesHold {s t : State} (h : Quiet s t) (hs : FacesHold s) : FacesHold t := by
  obtain ⟨hc, ht, hr, hf⟩ := hs
  obtain ⟨ht', hr'⟩ := h.inOrder ⟨ht, hr⟩
  exact ⟨by rw [h.clock]; exact hc, ht', hr', h.faces hf⟩

theorem Acts.faces {s t : State} (h : Acts s t) (hs : FacesHold s) (hlead : LeadTold s t) : FacesNow t := by
  rcases h with hq | ⟨s', t', hq, hd, hq'⟩
  · obtain ⟨-, -, -, hf⟩ := hs
    exact hq.faces hf
  · obtain ⟨hc, ht, hr, hf⟩ := hq.facesHold hs
    refine hq'.faces (hd.faces hc ht hr hf ?_)
    unfold LeadTold at hlead ⊢
    rw [hq'.ps] at hlead
    rw [hq.ps, hq.sessions]
    exact hlead

theorem applyRestart_facesHold {s : State} (hs : FacesHold s) : FacesHold (applyRestart s) ∧ (applyRestart s).sessions = [] := by
  obtain ⟨-, ht, hr, -⟩ := hs
  obtain ⟨-, -, hparts⟩ := applyRestart_restarts s
  obtain ⟨ht', hr'⟩ := Does.restart.tables ⟨ht, hr⟩
  have hclock : (applyRestart s).clock = Clock.atReset := hparts .clock
  obtain ⟨hreset, -⟩ := resetIsGood
  exact ⟨⟨by rw [hclock]; exact hreset, ht', hr', (hparts .resolver).2⟩, hparts .sessions⟩

/-- Every step keeps the faces, but for the door lead's one exception (R37, R71, R72, R87). -/
theorem step_faces {s t : State} (hs : FacesHold s) (h : step s = .next t) (hlead : LeadTold s t) : FacesNow t := by
  rcases step_acts h with ha | ⟨s', hq, ha⟩
  · exact ha.faces hs hlead
  · obtain ⟨hhold, hempty⟩ := applyRestart_facesHold (hq.facesHold hs)
    refine ha.faces hhold (.inr (fun e he => ?_))
    rw [hempty] at he
    cases he

end Sys2Proof.Machine
end

section
/-! PROOFS. What a door plate and a directory sign show, byte by byte (spec: R66–R68, R74–R87, R206). -/

namespace Sys2Proof.Machine

/-! ## The earliest of a list -/

/-- Sessions in the order of a door plate: by start, then by number (R77, R78). -/
def StartsFirst (e x : Nat × Session) : Prop := e.2.start < x.2.start ∨ (e.2.start = x.2.start ∧ e.1 ≤ x.1)

theorem earliest_none {l : List (Nat × Session)} : earliest l = none ↔ l = [] := by
  cases l with
  | nil => exact ⟨fun _ => rfl, fun _ => rfl⟩
  | cons e l =>
    refine ⟨fun h => ?_, nofun⟩
    unfold earliest at h
    split at h
    · cases h
    · split_ifs at h

theorem earliest_first {l : List (Nat × Session)} (hl : l.Pairwise (fun x y => x.1 < y.1)) {e : Nat × Session} (h : earliest l = some e) :
    e ∈ l ∧ ∀ x, x ∈ l → StartsFirst e x := by
  induction l generalizing e with
  | nil => cases h
  | cons y l ih =>
    obtain ⟨hy, hl⟩ := List.pairwise_cons.1 hl
    unfold earliest at h
    cases hrest : earliest l with
    | none =>
      rw [hrest] at h
      cases h
      rw [earliest_none.1 hrest]
      refine ⟨List.mem_singleton_self _, fun x hx => ?_⟩
      rw [List.mem_singleton.1 hx]
      exact .inr ⟨rfl, Nat.le_refl _⟩
    | some f =>
      obtain ⟨hf, hfirst⟩ := ih hl hrest
      rw [hrest] at h
      simp only at h
      split_ifs at h with hless
      · cases h
        refine ⟨List.mem_cons_of_mem _ hf, fun x hx => ?_⟩
        rcases List.mem_cons.1 hx with rfl | hx
        · exact .inl hless
        · exact hfirst x hx
      · cases h
        refine ⟨List.mem_cons_self .., fun x hx => ?_⟩
        rcases List.mem_cons.1 hx with rfl | hx
        · exact .inr ⟨rfl, Nat.le_refl _⟩
        · have hyx := hy x hx
          unfold StartsFirst
          rcases hfirst x hx with hlt | ⟨heq, -⟩ <;> omega

/-- The earliest of the entries that satisfy a test. -/
theorem earliest_filter {l : List (Nat × Session)} (hl : l.Pairwise (fun x y => x.1 < y.1)) {p : Nat × Session → Bool}
    {P : Nat × Session → Prop} (hp : ∀ e, P e ↔ e ∈ l ∧ p e = true) :
    (∀ e, earliest (l.filter p) = some e → P e ∧ ∀ x, P x → StartsFirst e x) ∧ (earliest (l.filter p) = none → ∀ x, ¬ P x) := by
  have hmem (e : Nat × Session) : P e ↔ e ∈ l.filter p := by rw [hp, List.mem_filter]
  refine ⟨fun e he => ?_, fun hnone x hx => ?_⟩
  · obtain ⟨hin, hfirst⟩ := earliest_first (hl.filter p) he
    exact ⟨(hmem e).2 hin, fun x hx => hfirst x ((hmem x).1 hx)⟩
  · rw [hmem, earliest_none.1 hnone] at hx
    cases hx

/-! ## Candidates -/

theorem mem_candidates {s : State} {set : List Nat} {e : Nat × Session} : e ∈ candidates s set ↔ s.clock.mode ≠ .unset ∧ e ∈ s.sessions
    ∧ e.2.day = s.clock.day ∧ ∃ i, i ∈ e.2.sections ∧ i ∈ set := by
  unfold candidates
  split_ifs with hmode
  · exact ⟨nofun, fun h => absurd hmode h.1⟩
  · simp only [List.mem_filter, share, Bool.and_eq_true, decide_eq_true_eq, List.any_eq_true, List.contains_iff_mem, hmode, ne_eq, not_false_eq_true,
      true_and]

theorem candidates_rising {s : State} (h : Table.rising s.sessions = true) (set : List Nat) :
    (candidates s set).Pairwise (fun x y => x.1 < y.1) := by
  unfold candidates
  split_ifs
  · exact .nil
  · exact ((Table.rising_iff _).1 h).filter _

/-! ## Encodings -/

theorem encode_mk (t : Template) (l : List Field) : (Face.mk t l).encode = t.code :: l.flatMap Field.bytes := rfl

theorem moreField_bytes (n : Nat) : (moreField n).flatMap Field.bytes = if 0 < n then [0x02, byte n] else [] := by
  unfold moreField
  split_ifs <;> rfl

theorem option_field_bytes {α : Type} (f : α → Field) (o : Option α) :
    ((o.map f).toList).flatMap Field.bytes = (o.map (fun x => (f x).bytes)).getD [] := by
  cases o with
  | none => rfl
  | some x => exact List.append_nil _

theorem bannerField_bytes (b : Option Clip) : (bannerField b).flatMap Field.bytes = (b.map (textField 0x0B)).getD [] :=
  option_field_bytes Field.banner b

theorem marks_any_iff (m : Marks) : m.any = true ↔ 0 < m.layout.toNat + 2 * m.more.toNat + 4 * m.cancelled.toNat + 8 * m.clipped.toNat := by
  obtain ⟨layout, more, cancelled, clipped⟩ := m
  revert layout more cancelled clipped
  decide

theorem marks_bytes (m : Marks) : (if m.any then [Field.marks m] else []).flatMap Field.bytes
    = if 0 < m.layout.toNat + 2 * m.more.toNat + 4 * m.cancelled.toNat + 8 * m.clipped.toNat
      then [0x07, byte (m.layout.toNat + 2 * m.more.toNat + 4 * m.cancelled.toNat + 8 * m.clipped.toNat)] else [] := by
  have hany := marks_any_iff m
  by_cases h : m.any = true
  · rw [if_pos h, if_pos (hany.1 h)]
    rfl
  · rw [if_neg h, if_neg (fun hpos => h (hany.2 hpos))]
    rfl

/-! ## Door plates -/

theorem doorFace_held {s : State} {index : Nat} {p : Space} (h : spaceHolding s.lu.spaces index = some p) (banner : Option Clip) :
    doorFace s index banner = doorFaceOf s p banner := by
  unfold doorFace
  rw [h]

theorem doorFaceOf_closed {s : State} {p : Space} (h : p.closed = true) (banner : Option Clip) :
    (doorFaceOf s p banner).encode = 0x04 :: textField 0x01 (s.textOf p.name 64) := by
  unfold doorFaceOf
  rw [if_pos h]
  exact congrArg (List.cons _) (List.append_nil _)

theorem doorFaceOf_idle {s : State} {p : Space} (h : p.closed = false) (banner : Option Clip) (hcur : currentOf s (candidates s p.sections) = none)
    (hnext : nextOf s (candidates s p.sections) = none) : (doorFaceOf s p banner).encode
      = 0x02 :: (textField 0x01 (s.textOf p.name 64) ++ (if 0 < p.more then [0x02, byte p.more] else [])
        ++ (banner.map (textField 0x0B)).getD []) := by
  unfold doorFaceOf
  rw [if_neg (by rw [h]; nofun)]
  simp only [hcur, hnext, encode_mk, List.flatMap_append, moreField_bytes, bannerField_bytes, List.flatMap_cons, List.flatMap_nil, List.append_nil]
  rfl

theorem doorFaceOf_session {s : State} {p : Space} (h : p.closed = false) (banner : Option Clip)
    (hsome : currentOf s (candidates s p.sections) ≠ none ∨ nextOf s (candidates s p.sections) ≠ none) : doorFaceOf s p banner
      = doorSessionFace s p (candidates s p.sections) (currentOf s (candidates s p.sections)) (nextOf s (candidates s p.sections)) banner := by
  unfold doorFaceOf
  rw [if_neg (by rw [h]; nofun)]
  simp only
  split
  next hcur hnext =>
    rcases hsome with hno | hno
    · exact absurd hcur hno
    · exact absurd hnext hno
  · rfl

end Sys2Proof.Machine
end

section
/-! PROOFS. What a door plate and a directory sign show, byte by byte, and the banner (spec: R66–R68, R74–R87, R206). -/

namespace Sys2Proof.Machine

/-! ## The session face -/

/-- The speaker a door plate shows (R82). -/
def shownSpeaker (s : State) (cur : Option (Nat × Session)) : Option Clip :=
  match cur with
  | some e => if e.2.withheld then none else e.2.speaker.map (fun r => s.textOf r 96)
  | none => none

/-- The MARKS byte of a door plate's session face, as a number (R81). -/
def doorMarks (c : List (Nat × Session)) (cur : Option (Nat × Session)) (texts : List (Option Clip)) : Nat :=
  let layout : Bool := match cur with
    | some e => !e.2.placed
    | none => false
  let several : Bool := 1 < (runningNow c).length
  let off : Bool := match cur with
    | some e => e.2.cancelled
    | none => false
  let clipped : Bool := (texts.filterMap id).any (fun x => x.clipped)
  layout.toNat + 2 * several.toNat + 4 * off.toNat + 8 * clipped.toNat

theorem clippedIn_texts (name : Clip) (title speaker nextTitle banner : Option Clip) :
    clippedIn (name :: (title.toList ++ speaker.toList ++ nextTitle.toList ++ banner.toList))
      = ([some name, title, speaker, nextTitle, banner].filterMap id).any (fun x => x.clipped) := by
  cases title <;> cases speaker <;> cases nextTitle <;> cases banner <;> rfl

theorem spanFields_bytes (cur : Option (Nat × Session)) :
    ((cur.map (fun e => [Field.span e.2.start e.2.effectiveEnd, Field.phase e.2.phase])).getD []).flatMap Field.bytes
      = match cur with
        | some e => [0x05] ++ two e.2.start ++ two e.2.effectiveEnd ++ [0x06, e.2.phase.code]
        | none => [] := by
  cases cur <;> rfl

theorem trackField_bytes (cur : Option (Nat × Session)) :
    ((cur.map (fun e => if 0 < e.2.track then [Field.track e.2.track] else [])).getD []).flatMap Field.bytes
      = match cur with
        | some e => if 0 < e.2.track then [0x08, byte e.2.track] else []
        | none => [] := by
  cases cur with
  | none => rfl
  | some e =>
    simp only [Option.map_some, Option.getD_some]
    split_ifs <;> rfl

theorem nextStartField_bytes (nxt : Option (Nat × Session)) :
    ((nxt.map (fun e => [Field.nextStart e.2.start])).getD []).flatMap Field.bytes
      = match nxt with
        | some e => [0x0A] ++ two e.2.start
        | none => [] := by
  cases nxt <;> rfl

theorem doorSessionFace_encode (s : State) (p : Space) (c : List (Nat × Session)) (cur nxt : Option (Nat × Session)) (banner : Option Clip) :
    let name := s.textOf p.name 64
    let title := cur.map (fun e => s.textOf (titleRef s e.2) 160)
    let speaker := shownSpeaker s cur
    let nextTitle := nxt.map (fun e => s.textOf (titleRef s e.2) 96)
    let marks := doorMarks c cur [some name, title, speaker, nextTitle, banner]
    (doorSessionFace s p c cur nxt banner).encode = 0x03 :: (textField 0x01 name ++ (if 0 < p.more then [0x02, byte p.more] else [])
      ++ (title.map (textField 0x03)).getD [] ++ (speaker.map (textField 0x04)).getD []
      ++ (match cur with
          | some e => [0x05] ++ two e.2.start ++ two e.2.effectiveEnd ++ [0x06, e.2.phase.code]
          | none => [])
      ++ (if 0 < marks then [0x07, byte marks] else [])
      ++ (match cur with
          | some e => if 0 < e.2.track then [0x08, byte e.2.track] else []
          | none => [])
      ++ (nextTitle.map (textField 0x09)).getD []
      ++ (match nxt with
          | some e => [0x0A] ++ two e.2.start
          | none => [])
      ++ (banner.map (textField 0x0B)).getD []) := by
  intro name title speaker nextTitle marks
  have hspeaker : cur.bind (fun e => if e.2.withheld then none else e.2.speaker.map (fun r => s.textOf r 96)) = speaker := by
    cases cur <;> rfl
  have hmarks : marks = (cur.any (fun e => !e.2.placed)).toNat + 2 * (decide (1 < (runningNow c).length)).toNat
      + 4 * (cur.any (fun e => e.2.cancelled)).toNat
      + 8 * (clippedIn (name :: (title.toList ++ speaker.toList ++ nextTitle.toList ++ banner.toList))).toNat := by
    rw [clippedIn_texts]
    cases cur <;> rfl
  unfold doorSessionFace
  simp only [hspeaker, encode_mk, List.flatMap_append, List.flatMap_singleton, moreField_bytes, option_field_bytes, marks_bytes, bannerField_bytes,
    spanFields_bytes, trackField_bytes, nextStartField_bytes]
  rw [hmarks]
  rfl

/-! ## Directory signs -/

/-- The order of a sign's lines (R84). -/
def LineFirst (x y : Listed) : Prop := x.session.start < y.session.start ∨ (x.session.start = y.session.start
  ∧ (x.space.anchor < y.space.anchor ∨ (x.space.anchor = y.space.anchor ∧ x.number ≤ y.number)))

theorem lineBefore_iff (x y : Listed) : lineBefore x y = true ↔ x.session.start < y.session.start ∨ (x.session.start = y.session.start
    ∧ (x.space.anchor < y.space.anchor ∨ (x.space.anchor = y.space.anchor ∧ x.number < y.number))) := by
  unfold lineBefore
  split_ifs with hstart hanchor
  · rw [decide_eq_true_eq]
    omega
  · rw [decide_eq_true_eq]
    omega
  · rw [decide_eq_true_eq]
    omega

theorem lineList_ordered (s : State) (first count : Nat) : (lineList s first count).Pairwise LineFirst := by
  refine sortBy_pairwise (fun x y h => ?_) (fun x y h => ?_) (fun x y z hxy hyz => ?_) _
  · have := (lineBefore_iff x y).1 h
    unfold LineFirst
    omega
  · have : ¬ _ := fun hlt => Bool.eq_false_iff.1 h ((lineBefore_iff x y).2 hlt)
    unfold LineFirst
    omega
  · unfold LineFirst at hxy hyz ⊢
    omega

theorem shownOnSign_iff (clock : Clock) (horizon : Nat) (x : Session) : shownOnSign clock horizon x = true
    ↔ if x.cancelled then clock.minute < x.start ∧ x.start ≤ clock.minute + horizon
      else x.phase = .doors ∨ x.phase = .live ∨ x.phase = .overrun ∨ (x.phase = .upcoming ∧ x.start ≤ clock.minute + horizon) := by
  unfold shownOnSign
  split_ifs
  · simp only [Bool.and_eq_true, decide_eq_true_eq]
  · simp only [Bool.or_eq_true, Bool.and_eq_true, decide_eq_true_eq, warnedPhase_iff, or_assoc]

theorem mem_lineList {s : State} {first count : Nat} {e : Listed} : e ∈ lineList s first count ↔ (e.number, e.session) ∈ s.sessions
    ∧ s.clock.mode ≠ .unset ∧ e.session.day = s.clock.day ∧ e.session.withheld = false
    ∧ e.session.homeSpace s.lu.spaces = some e.space ∧ e.space.closed = false ∧ first ≤ e.space.anchor ∧ e.space.anchor < first + count
    ∧ shownOnSign s.clock s.ps.options.horizon e.session = true := by
  have hlisted (n : Nat) (x : Session) : listedOn s first count (n, x) = some e ↔ n = e.number ∧ x = e.session ∧ s.clock.mode ≠ .unset
      ∧ x.day = s.clock.day ∧ x.withheld = false ∧ x.homeSpace s.lu.spaces = some e.space ∧ e.space.closed = false ∧ first ≤ e.space.anchor
      ∧ e.space.anchor < first + count ∧ shownOnSign s.clock s.ps.options.horizon x = true := by
    obtain ⟨number, session, space⟩ := e
    unfold listedOn
    cases hhome : x.homeSpace s.lu.spaces with
    | none => simp only [reduceCtorEq, false_and, and_false]
    | some p =>
      simp only [Bool.and_eq_true, decide_eq_true_eq, Bool.not_eq_true', Option.ite_none_right_eq_some, Option.some.injEq, Listed.mk.injEq, ne_eq]
      constructor
      · rintro ⟨⟨⟨⟨⟨⟨⟨hmode, hday⟩, hwithheld⟩, hfirst⟩, hlast⟩, hclosed⟩, hshown⟩, rfl, rfl, rfl⟩
        exact ⟨rfl, rfl, hmode, hday, hwithheld, rfl, hclosed, hfirst, hlast, hshown⟩
      · rintro ⟨rfl, rfl, hmode, hday, hwithheld, rfl, hclosed, hfirst, hlast, hshown⟩
        exact ⟨⟨⟨⟨⟨⟨⟨hmode, hday⟩, hwithheld⟩, hfirst⟩, hlast⟩, hclosed⟩, hshown⟩, rfl, rfl, rfl⟩
  rw [lineList, (sortBy_perm _ _).mem_iff, List.mem_filterMap]
  constructor
  · rintro ⟨⟨n, x⟩, hin, hl⟩
    obtain ⟨rfl, rfl, hrest⟩ := (hlisted n x).1 hl
    exact ⟨hin, hrest⟩
  · rintro ⟨hin, hrest⟩
    exact ⟨(e.number, e.session), hin, (hlisted _ _).2 ⟨rfl, rfl, hrest⟩⟩

theorem numberLines_bytes (s : State) (cls : PanelClass) (k n : Nat) (l : List Listed) :
    (numberLines s cls (k + n) l).flatMap Field.bytes = (l.zipIdx n).flatMap (fun e => (Field.line (lineOf s cls (k + e.2) e.1)).bytes) := by
  induction l generalizing n with
  | nil => rfl
  | cons e l ih =>
    rw [numberLines, List.zipIdx_cons, List.flatMap_cons, List.flatMap_cons, Nat.add_assoc, ih (n + 1)]

theorem lineOf_bytes (s : State) (cls : PanelClass) (number : Nat) (e : Listed) :
    let space := s.textOf e.space.name (lineSpaceWidth cls)
    let title := s.textOf e.session.title (lineTitleWidth cls)
    (Field.line (lineOf s cls number e)).bytes = [0x0E] ++ two number ++ lineText space ++ lineText title ++ two e.session.start
      ++ two e.session.effectiveEnd ++ [e.session.phase.code,
        byte ((!e.session.placed).toNat + 4 * e.session.cancelled.toNat + 8 * (space.clipped || title.clipped).toNat)] := rfl

theorem directoryFace_encode (s : State) (cls : PanelClass) (first count index : Nat) (heading : TextRef) (banner : Option Clip) :
    (directoryFace s cls first count index heading banner).encode = 0x05 :: (textField 0x0C (s.textOf heading 64)
      ++ [0x0D, byte (index + 1), byte (pageCount cls (lineList s first count).length)]
      ++ (((lineList s first count).drop (index * linesPerPage cls)).take (linesPerPage cls)).zipIdx.flatMap
        (fun e => (Field.line (lineOf s cls (index * linesPerPage cls + 1 + e.2) e.1)).bytes)
      ++ (banner.map (textField 0x0B)).getD []) := by
  unfold directoryFace
  have hlines := numberLines_bytes s cls (index * linesPerPage cls + 1) 0
    (((lineList s first count).drop (index * linesPerPage cls)).take (linesPerPage cls))
  rw [Nat.add_zero] at hlines
  simp only [encode_mk, List.flatMap_append, hlines, bannerField_bytes, List.flatMap_cons, List.flatMap_nil, List.append_nil]
  rfl

/-! ## The banner -/

/-- A notice in a slot's mask (R91). -/
def InMask (s : State) (zones : Half) (e : Nat × Notice) : Prop := e ∈ s.nu.notices ∧ zones.getLsbD e.1 = true

theorem bannerOf_taken {s : State} {zones : Half} {e : Nat × Notice} (he : InMask s zones e) (hlevel : e.2.level ≠ .advisory) :
    bannerOf s zones = none := by
  obtain ⟨hin, hzone⟩ := he
  have hwins : (winningNotice s zones).isSome = true := by
    unfold winningNotice
    split
    · rfl
    next hnone =>
      have hurgent : e.2.level = .urgent := by
        cases hl : e.2.level with
        | advisory => exact absurd hl hlevel
        | urgent => rfl
        | evacuate =>
          have hmem := mem_noticesAt.2 ⟨hin, hzone, hl⟩
          rw [hnone] at hmem
          cases hmem
      rw [List.isSome_head?]
      exact List.ne_nil_of_mem (mem_noticesAt.2 ⟨hin, hzone, hurgent⟩)
  obtain ⟨w, hw⟩ := Option.isSome_iff_exists.1 hwins
  rw [bannerOf, hw]

theorem noticesAt_none {s : State} {zones : Half} {level : Level} (h : ∀ e, InMask s zones e → e.2.level ≠ level) : noticesAt s zones level = [] :=
  List.eq_nil_iff_forall_not_mem.2 (fun e he => by
    obtain ⟨hin, hzone, hlevel⟩ := mem_noticesAt.1 he
    exact h e ⟨hin, hzone⟩ hlevel)

theorem bannerOf_advisories {s : State} {zones : Half} (h : ∀ e, InMask s zones e → e.2.level = .advisory) :
    bannerOf s zones = ((noticesAt s zones .advisory).head?).map (fun e => s.textOf e.2.text 128) := by
  have hwins : winningNotice s zones = none := by
    unfold winningNotice
    rw [noticesAt_none (fun e he => by rw [h e he]; nofun), noticesAt_none (fun e he => by rw [h e he]; nofun)]
    rfl
  rw [bannerOf, hwins]

theorem bannerOf_lowest {s : State} {zones : Half} (hs : Table.rising s.nu.notices = true) {e : Nat × Notice} (he : InMask s zones e)
    (hleast : ∀ x, InMask s zones x → x.2.level = .advisory ∧ e.1 ≤ x.1) : bannerOf s zones = some (s.textOf e.2.text 128) := by
  have hsorted : (noticesAt s zones .advisory).Pairwise (fun x y => x.1 < y.1) := ((Table.rising_iff _).1 hs).filter _
  obtain ⟨rest, hrest⟩ := head_of_least hsorted (mem_noticesAt.2 ⟨he.1, he.2, (hleast e he).1⟩) (fun x hx => by
    obtain ⟨hin, hzone, -⟩ := mem_noticesAt.1 hx
    exact (hleast x ⟨hin, hzone⟩).2)
  rw [bannerOf_advisories (fun x hx => (hleast x hx).1), hrest]
  rfl

end Sys2Proof.Machine
end

section
/-! PROOFS. The faces of the roles show the day (spec: R66–R87, R206). -/

namespace Sys2Proof.Machine

theorem currentOf_first {s : State} {c : List (Nat × Session)} (hc : c.Pairwise (fun x y => x.1 < y.1)) {running visible : Nat × Session → Prop}
    (hrunning : ∀ e, running e ↔ e ∈ c ∧ (!e.2.cancelled && warnedPhase e.2.phase) = true)
    (hvisible : ∀ e, visible e ↔ e ∈ c ∧ visibleAt s.clock s.ps.options.doorLead e.2 = true) :
    (∀ e, currentOf s c = some e → (running e ∧ ∀ x, running x → StartsFirst e x)
      ∨ ((∀ x, ¬ running x) ∧ visible e ∧ ∀ x, visible x → StartsFirst e x))
    ∧ (currentOf s c = none → (∀ x, ¬ running x) ∧ ∀ x, ¬ visible x) := by
  obtain ⟨hfirst, hnone⟩ := earliest_filter hc hrunning
  obtain ⟨hseen, hunseen⟩ := earliest_filter hc hvisible
  unfold currentOf runningNow
  cases hrun : earliest (c.filter (fun e => !e.2.cancelled && warnedPhase e.2.phase)) with
  | some e =>
    refine ⟨fun e' he' => ?_, nofun⟩
    cases he'
    exact .inl (hfirst e hrun)
  | none => exact ⟨fun e he => .inr ⟨hnone hrun, hseen e he⟩, fun h => ⟨hnone hrun, hunseen h⟩⟩

theorem warnedPhase_eq (p : Phase) : warnedPhase p = (p = .doors || p = .live || p = .overrun : Bool) := by
  cases p <;> rfl

/-- Settles O55: the plates and signs byte by byte, the banner, and every step keeps the faces. -/
theorem roleFacesShowTheDay : Obligations.RoleFacesShowTheDay := by
  refine ⟨fun s index p banner hp hs => ?_, fun s cls first count index heading serial zones => ?_, fun s zones hs => ?_,
    fun s p cls index sec hrole => ?_, fun c width => ?_, fun s t ⟨hc, ht, hr, hf⟩ h hlead => step_faces ⟨hc, ht, hr, hf⟩ h hlead⟩
  · intro c text name more bannerBytes now running visible coming startsFirst
    have hrising := candidates_rising hs p.sections
    have hrunning (e : Nat × Session) : running e ↔ e ∈ c ∧ (!e.2.cancelled && warnedPhase e.2.phase) = true := by
      simp only [running, now, Bool.and_eq_true, Bool.not_eq_true', warnedPhase_iff, Bool.or_eq_true, decide_eq_true_eq, or_assoc]
    have hcoming (e : Nat × Session) : coming e ↔ e ∈ c ∧ (!e.2.cancelled && e.2.phase = .upcoming
        && e.2.start ≤ s.clock.minute + s.ps.options.nextWindow) = true := by
      simp only [coming, Bool.and_eq_true, Bool.not_eq_true', decide_eq_true_eq, and_assoc]
    obtain ⟨hcurrent, hnone⟩ := currentOf_first (s := s) (running := running) (visible := visible) hrising hrunning (fun _ => Iff.rfl)
    obtain ⟨hnext, hnonext⟩ := earliest_filter hrising hcoming
    rw [doorFace_held hp]
    refine ⟨fun e => mem_candidates, fun x => ?_, hcurrent, hnone, hnext, hnonext, fun hclosed => doorFaceOf_closed hclosed banner,
      fun hclosed hcur hnxt => doorFaceOf_idle hclosed banner hcur hnxt, fun cur nxt hclosed hcur hnxt hsome => ?_⟩
    · rw [visibleAt_eq, decide_eq_true_eq]
    · subst hcur hnxt
      rw [doorFaceOf_session hclosed banner hsome]
      have hrunningNow : runningNow c = c.filter (fun e => !e.2.cancelled && now e.2) :=
        List.filter_congr (fun e _ => congrArg (!e.2.cancelled && ·) (warnedPhase_eq e.2.phase))
      intro titleOf title speaker nextTitle layout several off clipped marks
      have hencode := doorSessionFace_encode s p c (currentOf s c) (nextOf s c) banner
      simp only [doorMarks, hrunningNow] at hencode
      exact hencode
  · intro list lines spaceWidth titleWidth pages shown face m horizon text inLine line page bannerBytes
    have hlines : lines = linesPerPage cls := by cases cls <;> rfl
    have hspace : spaceWidth = lineSpaceWidth cls := by cases cls <;> rfl
    have htitle : titleWidth = lineTitleWidth cls := by cases cls <;> rfl
    have hpages : pages = pageCount cls list.length := by rw [pageCount, ← hlines]
    have hshown : shown = pageKept index (pageCount cls list.length) := by rw [← hpages]; rfl
    have hline (number : Nat) (e : Listed) : line e number = (Field.line (lineOf s cls number e)).bytes := by
      rw [lineOf_bytes, ← hspace, ← htitle]
      rfl
    have hencode := directoryFace_encode s cls first count shown heading (bannerOf s zones)
    refine ⟨by rw [hpages]; rfl, by rw [hshown]; rfl, rfl, ?_, lineList_ordered s first count, fun e => ?_⟩
    · have hface : face.face = directoryFace s cls first count shown heading (bannerOf s zones) := by rw [hshown]; rfl
      rw [hface, hencode]
      simp only [hline, page, hlines, hpages]
      rfl
    · rw [mem_lineList, shownOnSign_iff]
  · exact ⟨fun ⟨e, he, hlevel⟩ => bannerOf_taken he hlevel, fun hno => by
      rw [bannerOf_advisories (fun e he => absurd he (hno e)), noticesAt_none (fun e he => absurd he (hno e))]
      rfl, fun e he hleast => bannerOf_lowest hs he hleast⟩
  · unfold roleFaceOf
    rw [hrole]
    exact ⟨rfl, rfl⟩
  · refine ⟨rfl, ?_⟩
    unfold Clip.cut
    simp only [Bool.or_eq_true, decide_eq_true_eq]

end Sys2Proof.Machine
end
